-- ==== Sys2Proof/Word.lean ====
section
/-! DEFINITION. The word types of the Am29050: a word is 32 bits (00_scope.md R5), a register-number field is a byte
(30_encoding.md R230), an accumulator or a double-precision value is 64 bits (10_state.md R31, R33). -/

namespace Sys2Proof

/-- A 32-bit word: a register, an instruction, an address (00_scope.md R5). -/
abbrev Word := BitVec 32

/-- One of the four 8-bit fields of an instruction word (30_encoding.md R230). -/
abbrev Byte := BitVec 8

/-- A 64-bit value: a double-precision number or an accumulator (10_state.md R31, R33). -/
abbrev DWord := BitVec 64

end Sys2Proof
end

