-- ==== Sys2Proof/Syntax.lean ====
section
/-! DEFINITION. The 125 instructions of the Am29050, one constructor per row of spec/opcode_table.json
(30_encoding.md R235, R244). Register-number fields are kept as the 8-bit numbers of the encoding (10_state.md R21);
they are resolved to absolute-register numbers when the instruction executes (R24). -/

namespace Sys2Proof

/-- The operand of bits 7-0 of an instruction with an M bit (30_encoding.md R231, R237): a register number when M = 0,
an 8-bit constant, zero-extended, when M = 1. -/
inductive Opnd where
  /-- M = 0: bits 7-0 are the register number RB. -/
  | reg (rb : Byte)
  /-- M = 1: bits 7-0 are the constant I. -/
  | imm (i : Byte)
deriving DecidableEq, Repr

/-- The instructions. `rc`, `ra`, `rb` are register numbers, `b` is RB or I, `vn` a vector number, `sa` a
special-register number, `i` a 16-bit field, `a` the Absolute bit, `ctl` the byte CE//CNTL of a load or store
(30_encoding.md R232), `fn` the function-code byte of a floating-point instruction, kept whole because a
floating-point trap copies it (46_floating_point.md R507, R511). -/
inductive Instr where
  -- Integer arithmetic (40_integer_arithmetic.md)
  /-- ADD, 14/15 (R310). -/
  | add (rc ra : Byte) (b : Opnd)
  /-- ADDC, 1C/1D (R311). -/
  | addc (rc ra : Byte) (b : Opnd)
  /-- ADDCS, 18/19 (R312). -/
  | addcs (rc ra : Byte) (b : Opnd)
  /-- ADDCU, 1A/1B (R313). -/
  | addcu (rc ra : Byte) (b : Opnd)
  /-- ADDS, 10/11 (R314). -/
  | adds (rc ra : Byte) (b : Opnd)
  /-- ADDU, 12/13 (R315). -/
  | addu (rc ra : Byte) (b : Opnd)
  /-- SUB, 24/25 (R316). -/
  | sub (rc ra : Byte) (b : Opnd)
  /-- SUBC, 2C/2D (R317). -/
  | subc (rc ra : Byte) (b : Opnd)
  /-- SUBCS, 28/29 (R318). -/
  | subcs (rc ra : Byte) (b : Opnd)
  /-- SUBCU, 2A/2B (R319). -/
  | subcu (rc ra : Byte) (b : Opnd)
  /-- SUBS, 20/21 (R320). -/
  | subs (rc ra : Byte) (b : Opnd)
  /-- SUBU, 22/23 (R321). -/
  | subu (rc ra : Byte) (b : Opnd)
  /-- SUBR, 34/35 (R322). -/
  | subr (rc ra : Byte) (b : Opnd)
  /-- SUBRC, 3C/3D (R323). -/
  | subrc (rc ra : Byte) (b : Opnd)
  /-- SUBRCS, 38/39 (R324). -/
  | subrcs (rc ra : Byte) (b : Opnd)
  /-- SUBRCU, 3A/3B (R325). -/
  | subrcu (rc ra : Byte) (b : Opnd)
  /-- SUBRS, 30/31 (R326). -/
  | subrs (rc ra : Byte) (b : Opnd)
  /-- SUBRU, 32/33 (R327). -/
  | subru (rc ra : Byte) (b : Opnd)
  /-- MUL, 64/65 (R330). -/
  | mul (rc ra : Byte) (b : Opnd)
  /-- MULL, 66/67 (R331). -/
  | mull (rc ra : Byte) (b : Opnd)
  /-- MULU, 74/75 (R332). -/
  | mulu (rc ra : Byte) (b : Opnd)
  /-- DIV0, 68/69 (R333). -/
  | div0 (rc : Byte) (b : Opnd)
  /-- DIV, 6A/6B (R334). -/
  | div (rc ra : Byte) (b : Opnd)
  /-- DIVL, 6C/6D (R335). -/
  | divl (rc ra : Byte) (b : Opnd)
  /-- DIVREM, 6E/6F (R336). -/
  | divrem (rc ra : Byte) (b : Opnd)
  /-- MULTIPLY, E0 (R340). -/
  | multiply (rc ra rb : Byte)
  /-- MULTIPLU, E2 (R341). -/
  | multiplu (rc ra rb : Byte)
  /-- MULTM, DE (R342). -/
  | multm (rc ra rb : Byte)
  /-- MULTMU, DF (R343). -/
  | multmu (rc ra rb : Byte)
  /-- DIVIDE, E1 (R344). -/
  | divide (rc ra rb : Byte)
  /-- DIVIDU, E3 (R345). -/
  | dividu (rc ra rb : Byte)
  -- Compare and assert (41_compare.md)
  /-- CPEQ, 60/61 (R362). -/
  | cpeq (rc ra : Byte) (b : Opnd)
  /-- CPNEQ, 62/63 (R363). -/
  | cpneq (rc ra : Byte) (b : Opnd)
  /-- CPLT, 40/41 (R364). -/
  | cplt (rc ra : Byte) (b : Opnd)
  /-- CPLTU, 42/43 (R365). -/
  | cpltu (rc ra : Byte) (b : Opnd)
  /-- CPLE, 44/45 (R366). -/
  | cple (rc ra : Byte) (b : Opnd)
  /-- CPLEU, 46/47 (R367). -/
  | cpleu (rc ra : Byte) (b : Opnd)
  /-- CPGT, 48/49 (R368). -/
  | cpgt (rc ra : Byte) (b : Opnd)
  /-- CPGTU, 4A/4B (R369). -/
  | cpgtu (rc ra : Byte) (b : Opnd)
  /-- CPGE, 4C/4D (R370). -/
  | cpge (rc ra : Byte) (b : Opnd)
  /-- CPGEU, 4E/4F (R371). -/
  | cpgeu (rc ra : Byte) (b : Opnd)
  /-- CPBYTE, 2E/2F (R372). -/
  | cpbyte (rc ra : Byte) (b : Opnd)
  /-- ASEQ, 70/71 (R380). -/
  | aseq (vn ra : Byte) (b : Opnd)
  /-- ASNEQ, 72/73 (R381). -/
  | asneq (vn ra : Byte) (b : Opnd)
  /-- ASLT, 50/51 (R382). -/
  | aslt (vn ra : Byte) (b : Opnd)
  /-- ASLTU, 52/53 (R383). -/
  | asltu (vn ra : Byte) (b : Opnd)
  /-- ASLE, 54/55 (R384). -/
  | asle (vn ra : Byte) (b : Opnd)
  /-- ASLEU, 56/57 (R385). -/
  | asleu (vn ra : Byte) (b : Opnd)
  /-- ASGT, 58/59 (R386). -/
  | asgt (vn ra : Byte) (b : Opnd)
  /-- ASGTU, 5A/5B (R387). -/
  | asgtu (vn ra : Byte) (b : Opnd)
  /-- ASGE, 5C/5D (R388). -/
  | asge (vn ra : Byte) (b : Opnd)
  /-- ASGEU, 5E/5F (R389). -/
  | asgeu (vn ra : Byte) (b : Opnd)
  -- Logical (42_logical.md)
  /-- AND, 90/91 (R401). -/
  | and (rc ra : Byte) (b : Opnd)
  /-- ANDN, 9C/9D (R402). -/
  | andn (rc ra : Byte) (b : Opnd)
  /-- NAND, 9A/9B (R403). -/
  | nand (rc ra : Byte) (b : Opnd)
  /-- NOR, 98/99 (R404). -/
  | nor (rc ra : Byte) (b : Opnd)
  /-- OR, 92/93 (R405). -/
  | or (rc ra : Byte) (b : Opnd)
  /-- ORN, AA/AB (R406). -/
  | orn (rc ra : Byte) (b : Opnd)
  /-- XNOR, 96/97 (R407). -/
  | xnor (rc ra : Byte) (b : Opnd)
  /-- XOR, 94/95 (R408). -/
  | xor (rc ra : Byte) (b : Opnd)
  -- Shift (43_shift.md)
  /-- SLL, 80/81 (R421). -/
  | sll (rc ra : Byte) (b : Opnd)
  /-- SRL, 82/83 (R422). -/
  | srl (rc ra : Byte) (b : Opnd)
  /-- SRA, 86/87 (R423). -/
  | sra (rc ra : Byte) (b : Opnd)
  /-- EXTRACT, 7A/7B (R424). -/
  | extract (rc ra : Byte) (b : Opnd)
  -- Data movement (44_data_movement.md)
  /-- LOAD, 16/17 (R431). -/
  | load (ctl ra : Byte) (b : Opnd)
  /-- LOADL, 06/07 (R432). -/
  | loadl (ctl ra : Byte) (b : Opnd)
  /-- LOADSET, 26/27 (R433). -/
  | loadset (ctl ra : Byte) (b : Opnd)
  /-- LOADM, 36/37 (R434). -/
  | loadm (ctl ra : Byte) (b : Opnd)
  /-- STORE, 1E/1F (R435). -/
  | store (ctl ra : Byte) (b : Opnd)
  /-- STOREL, 0E/0F (R436). -/
  | storel (ctl ra : Byte) (b : Opnd)
  /-- STOREM, 3E/3F (R437). -/
  | storem (ctl ra : Byte) (b : Opnd)
  /-- EXBYTE, 0A/0B (R440). -/
  | exbyte (rc ra : Byte) (b : Opnd)
  /-- EXHW, 7C/7D (R441). -/
  | exhw (rc ra : Byte) (b : Opnd)
  /-- EXHWS, 7E (R442). -/
  | exhws (rc ra : Byte)
  /-- INBYTE, 0C/0D (R443). -/
  | inbyte (rc ra : Byte) (b : Opnd)
  /-- INHW, 78/79 (R444). -/
  | inhw (rc ra : Byte) (b : Opnd)
  /-- MFSR, C6 (R450). -/
  | mfsr (rc sa : Byte)
  /-- MTSR, CE (R451). -/
  | mtsr (sa rb : Byte)
  /-- MTSRIM, 04 (R452). -/
  | mtsrim (sa : Byte) (i : BitVec 16)
  /-- MFTLB, B6 (R453). -/
  | mftlb (rc ra : Byte)
  /-- MTTLB, BE (R454). -/
  | mttlb (ra rb : Byte)
  -- Constant (45_constant.md)
  /-- CONST, 03 (R490). -/
  | const (ra : Byte) (i : BitVec 16)
  /-- CONSTH, 02 (R491). -/
  | consth (ra : Byte) (i : BitVec 16)
  /-- CONSTHZ, 05 (R492). -/
  | consthz (ra : Byte) (i : BitVec 16)
  /-- CONSTN, 01 (R493). -/
  | constn (ra : Byte) (i : BitVec 16)
  -- Floating point (46_floating_point.md)
  /-- FADD, F0 (R520). -/
  | fadd (rc ra rb : Byte)
  /-- DADD, F1 (R521). -/
  | dadd (rc ra rb : Byte)
  /-- FSUB, F2 (R522). -/
  | fsub (rc ra rb : Byte)
  /-- DSUB, F3 (R523). -/
  | dsub (rc ra rb : Byte)
  /-- FMUL, F4 (R524). -/
  | fmul (rc ra rb : Byte)
  /-- DMUL, F5 (R525). -/
  | dmul (rc ra rb : Byte)
  /-- FDIV, F6 (R526). -/
  | fdiv (rc ra rb : Byte)
  /-- DDIV, F7 (R527). -/
  | ddiv (rc ra rb : Byte)
  /-- FDMUL, F9 (R528). -/
  | fdmul (rc ra rb : Byte)
  /-- FEQ, EA (R530). -/
  | feq (rc ra rb : Byte)
  /-- DEQ, EB (R531). -/
  | deq (rc ra rb : Byte)
  /-- FGT, EC (R532). -/
  | fgt (rc ra rb : Byte)
  /-- DGT, ED (R533). -/
  | dgt (rc ra rb : Byte)
  /-- FGE, EE (R534). -/
  | fge (rc ra rb : Byte)
  /-- DGE, EF (R535). -/
  | dge (rc ra rb : Byte)
  /-- FMAC, D8 (R540). -/
  | fmac (fn ra rb : Byte)
  /-- DMAC, D9 (R541). -/
  | dmac (fn ra rb : Byte)
  /-- FMSM, DA (R542). -/
  | fmsm (rc ra rb : Byte)
  /-- DMSM, DB (R543). -/
  | dmsm (rc ra rb : Byte)
  /-- CONVERT, E4 (R550). -/
  | convert (rc ra fn : Byte)
  /-- SQRT, E5 (R551). -/
  | sqrt (rc ra fn : Byte)
  /-- CLASS, E6 (R552). -/
  | classify (rc ra fn : Byte)
  /-- MTACC, E8 (R553). -/
  | mtacc (rc ra fn : Byte)
  /-- MFACC, E9 (R554). -/
  | mfacc (rc ra fn : Byte)
  -- Branch (47_branch.md)
  /-- CALL, A8/A9 (R582). -/
  | call (a : Bool) (ra : Byte) (i : BitVec 16)
  /-- CALLI, C8 (R583). -/
  | calli (ra rb : Byte)
  /-- JMP, A0/A1 (R584). -/
  | jmp (a : Bool) (i : BitVec 16)
  /-- JMPF, A4/A5 (R585). -/
  | jmpf (a : Bool) (ra : Byte) (i : BitVec 16)
  /-- JMPFDEC, B4/B5 (R586). -/
  | jmpfdec (a : Bool) (ra : Byte) (i : BitVec 16)
  /-- JMPFI, C4 (R587). -/
  | jmpfi (ra rb : Byte)
  /-- JMPI, C0 (R588). -/
  | jmpi (rb : Byte)
  /-- JMPT, AC/AD (R589). -/
  | jmpt (a : Bool) (ra : Byte) (i : BitVec 16)
  /-- JMPTI, CC (R590). -/
  | jmpti (ra rb : Byte)
  -- Miscellaneous (48_miscellaneous.md)
  /-- CLZ, 08/09 (R600). -/
  | clz (rc : Byte) (b : Opnd)
  /-- EMULATE, D7 (R601). -/
  | emulate (vn ra rb : Byte)
  /-- SETIP, 9E (R602). -/
  | setip (rc ra rb : Byte)
  /-- INV, 9F (R603). -/
  | inv
  /-- IRET, 88 (R604). -/
  | iret
  /-- IRETINV, 8C (R605). -/
  | iretinv
  /-- HALT, 89 (R607). -/
  | halt
deriving DecidableEq, Repr

end Sys2Proof
end

