-- ==== Sys2Proof/WellFormed.lean ====
section
/-! DEFINITION. Well-formed instructions: the bits the spec reserves inside a field that the syntax keeps are 0
(30_encoding.md R230: "bits in reserved fields should be 0"; 46_floating_point.md R507; 44_data_movement.md R439).
Execution ignores them (U28), so no meaning asks for well-formedness; it says which instructions an assembler
writes. -/

namespace Sys2Proof

/-- R507: bits 7-6 of the FUNC//ACN byte of FMAC and DMAC (instruction bits 23-22) are reserved. -/
def macReservedZero (fn : Byte) : Bool := fn.extractLsb' 6 2 == 0#2

/-- R507: bits 7-4 of the FMT//ACN byte of MFACC and MTACC are reserved. -/
def accReservedZero (fn : Byte) : Bool := fn.extractLsb' 4 4 == 0#4

/-- R234: bits 7-2 of the FS byte of CLASS and SQRT are reserved. -/
def fsReservedZero (fn : Byte) : Bool := fn.extractLsb' 2 6 == 0#6

/-- R439: bit 20 of a coprocessor transfer (CE = 1) is reserved. -/
def ctlReservedZero (ctl : Byte) : Bool := !(ctl.getLsbD 7) || !(ctl.getLsbD 4)

/-- The reserved bits of the fields the syntax keeps are 0 (R230). MTACC reserves its RC field and MFACC its RA field
(R235, format ACC). -/
def Instr.WellFormed : Instr → Bool
  | .load ctl _ _ | .loadl ctl _ _ | .loadset ctl _ _ | .loadm ctl _ _
  | .store ctl _ _ | .storel ctl _ _ | .storem ctl _ _ => ctlReservedZero ctl
  | .fmac fn _ _ | .dmac fn _ _ => macReservedZero fn
  | .sqrt _ _ fn | .classify _ _ fn => fsReservedZero fn
  | .mtacc rc _ fn => accReservedZero fn && rc == 0#8
  | .mfacc _ ra fn => accReservedZero fn && ra == 0#8
  | _ => true

end Sys2Proof
end

