-- ==== Sys2Proof/Decode.lean ====
section
/-! DEFINITION. Decoding, total on every word, and the encoder written from the same tables
(30_encoding.md R230 to R246). Decoding looks only at bits 31-24 to select the instruction (R230). -/

namespace Sys2Proof

/-- Why a word is no instruction. -/
inductive DecodeError where
  /-- R245: an operation code that is not implemented (an Illegal Opcode trap when executed). -/
  | illegalOpcode (op : Byte)
  /-- R246: an operation code reserved for emulation, with the vector of its trap. -/
  | reservedForEmulation (op vn : Byte)
deriving DecidableEq, Repr

/-- Bits 31-24, OP (R231). -/
def opField (w : Word) : Byte := w.extractLsb' 24 8
/-- Bits 23-16 (R232). -/
def cField (w : Word) : Byte := w.extractLsb' 16 8
/-- Bits 15-8 (R233). -/
def aField (w : Word) : Byte := w.extractLsb' 8 8
/-- Bits 7-0 (R234). -/
def bField (w : Word) : Byte := w.extractLsb' 0 8

/-- R246: the vector of an operation code reserved for instruction emulation. -/
def emulationVector (op : Nat) : Option Byte :=
  match op with
  | 0xBF | 0xCF | 0xD0 | 0xD1 | 0xD2 | 0xD3 | 0xD4 | 0xD5 | 0xD6 | 0xDC => some 28
  | 0xDD => some 29
  | 0xE7 => some 39
  | 0xF8 => some 56
  | 0xFA => some 58
  | 0xFB => some 59
  | 0xFC => some 60
  | 0xFD => some 61
  | 0xFE => some 62
  | 0xFF => some 63
  | _ => none

/-- R244, operation codes 00 to 3F: the instruction of an operation code with fields c (bits 23-16), a (15-8), b (7-0). -/
def decodeBlock0 (op : Nat) (c a b : Byte) : Option Instr :=
  match op with
  | 0x01 => some (.constn a (c ++ b))
  | 0x02 => some (.consth a (c ++ b))
  | 0x03 => some (.const a (c ++ b))
  | 0x04 => some (.mtsrim a (c ++ b))
  | 0x05 => some (.consthz a (c ++ b))
  | 0x06 => some (.loadl c a (.reg b))
  | 0x07 => some (.loadl c a (.imm b))
  | 0x08 => some (.clz c (.reg b))
  | 0x09 => some (.clz c (.imm b))
  | 0x0A => some (.exbyte c a (.reg b))
  | 0x0B => some (.exbyte c a (.imm b))
  | 0x0C => some (.inbyte c a (.reg b))
  | 0x0D => some (.inbyte c a (.imm b))
  | 0x0E => some (.storel c a (.reg b))
  | 0x0F => some (.storel c a (.imm b))
  | 0x10 => some (.adds c a (.reg b))
  | 0x11 => some (.adds c a (.imm b))
  | 0x12 => some (.addu c a (.reg b))
  | 0x13 => some (.addu c a (.imm b))
  | 0x14 => some (.add c a (.reg b))
  | 0x15 => some (.add c a (.imm b))
  | 0x16 => some (.load c a (.reg b))
  | 0x17 => some (.load c a (.imm b))
  | 0x18 => some (.addcs c a (.reg b))
  | 0x19 => some (.addcs c a (.imm b))
  | 0x1A => some (.addcu c a (.reg b))
  | 0x1B => some (.addcu c a (.imm b))
  | 0x1C => some (.addc c a (.reg b))
  | 0x1D => some (.addc c a (.imm b))
  | 0x1E => some (.store c a (.reg b))
  | 0x1F => some (.store c a (.imm b))
  | 0x20 => some (.subs c a (.reg b))
  | 0x21 => some (.subs c a (.imm b))
  | 0x22 => some (.subu c a (.reg b))
  | 0x23 => some (.subu c a (.imm b))
  | 0x24 => some (.sub c a (.reg b))
  | 0x25 => some (.sub c a (.imm b))
  | 0x26 => some (.loadset c a (.reg b))
  | 0x27 => some (.loadset c a (.imm b))
  | 0x28 => some (.subcs c a (.reg b))
  | 0x29 => some (.subcs c a (.imm b))
  | 0x2A => some (.subcu c a (.reg b))
  | 0x2B => some (.subcu c a (.imm b))
  | 0x2C => some (.subc c a (.reg b))
  | 0x2D => some (.subc c a (.imm b))
  | 0x2E => some (.cpbyte c a (.reg b))
  | 0x2F => some (.cpbyte c a (.imm b))
  | 0x30 => some (.subrs c a (.reg b))
  | 0x31 => some (.subrs c a (.imm b))
  | 0x32 => some (.subru c a (.reg b))
  | 0x33 => some (.subru c a (.imm b))
  | 0x34 => some (.subr c a (.reg b))
  | 0x35 => some (.subr c a (.imm b))
  | 0x36 => some (.loadm c a (.reg b))
  | 0x37 => some (.loadm c a (.imm b))
  | 0x38 => some (.subrcs c a (.reg b))
  | 0x39 => some (.subrcs c a (.imm b))
  | 0x3A => some (.subrcu c a (.reg b))
  | 0x3B => some (.subrcu c a (.imm b))
  | 0x3C => some (.subrc c a (.reg b))
  | 0x3D => some (.subrc c a (.imm b))
  | 0x3E => some (.storem c a (.reg b))
  | 0x3F => some (.storem c a (.imm b))
  | _ => none

/-- R244, operation codes 40 to 7F: the instruction of an operation code with fields c (bits 23-16), a (15-8), b (7-0). -/
def decodeBlock1 (op : Nat) (c a b : Byte) : Option Instr :=
  match op with
  | 0x40 => some (.cplt c a (.reg b))
  | 0x41 => some (.cplt c a (.imm b))
  | 0x42 => some (.cpltu c a (.reg b))
  | 0x43 => some (.cpltu c a (.imm b))
  | 0x44 => some (.cple c a (.reg b))
  | 0x45 => some (.cple c a (.imm b))
  | 0x46 => some (.cpleu c a (.reg b))
  | 0x47 => some (.cpleu c a (.imm b))
  | 0x48 => some (.cpgt c a (.reg b))
  | 0x49 => some (.cpgt c a (.imm b))
  | 0x4A => some (.cpgtu c a (.reg b))
  | 0x4B => some (.cpgtu c a (.imm b))
  | 0x4C => some (.cpge c a (.reg b))
  | 0x4D => some (.cpge c a (.imm b))
  | 0x4E => some (.cpgeu c a (.reg b))
  | 0x4F => some (.cpgeu c a (.imm b))
  | 0x50 => some (.aslt c a (.reg b))
  | 0x51 => some (.aslt c a (.imm b))
  | 0x52 => some (.asltu c a (.reg b))
  | 0x53 => some (.asltu c a (.imm b))
  | 0x54 => some (.asle c a (.reg b))
  | 0x55 => some (.asle c a (.imm b))
  | 0x56 => some (.asleu c a (.reg b))
  | 0x57 => some (.asleu c a (.imm b))
  | 0x58 => some (.asgt c a (.reg b))
  | 0x59 => some (.asgt c a (.imm b))
  | 0x5A => some (.asgtu c a (.reg b))
  | 0x5B => some (.asgtu c a (.imm b))
  | 0x5C => some (.asge c a (.reg b))
  | 0x5D => some (.asge c a (.imm b))
  | 0x5E => some (.asgeu c a (.reg b))
  | 0x5F => some (.asgeu c a (.imm b))
  | 0x60 => some (.cpeq c a (.reg b))
  | 0x61 => some (.cpeq c a (.imm b))
  | 0x62 => some (.cpneq c a (.reg b))
  | 0x63 => some (.cpneq c a (.imm b))
  | 0x64 => some (.mul c a (.reg b))
  | 0x65 => some (.mul c a (.imm b))
  | 0x66 => some (.mull c a (.reg b))
  | 0x67 => some (.mull c a (.imm b))
  | 0x68 => some (.div0 c (.reg b))
  | 0x69 => some (.div0 c (.imm b))
  | 0x6A => some (.div c a (.reg b))
  | 0x6B => some (.div c a (.imm b))
  | 0x6C => some (.divl c a (.reg b))
  | 0x6D => some (.divl c a (.imm b))
  | 0x6E => some (.divrem c a (.reg b))
  | 0x6F => some (.divrem c a (.imm b))
  | 0x70 => some (.aseq c a (.reg b))
  | 0x71 => some (.aseq c a (.imm b))
  | 0x72 => some (.asneq c a (.reg b))
  | 0x73 => some (.asneq c a (.imm b))
  | 0x74 => some (.mulu c a (.reg b))
  | 0x75 => some (.mulu c a (.imm b))
  | 0x78 => some (.inhw c a (.reg b))
  | 0x79 => some (.inhw c a (.imm b))
  | 0x7A => some (.extract c a (.reg b))
  | 0x7B => some (.extract c a (.imm b))
  | 0x7C => some (.exhw c a (.reg b))
  | 0x7D => some (.exhw c a (.imm b))
  | 0x7E => some (.exhws c a)
  | _ => none

/-- R244, operation codes 80 to BF: the instruction of an operation code with fields c (bits 23-16), a (15-8), b (7-0). -/
def decodeBlock2 (op : Nat) (c a b : Byte) : Option Instr :=
  match op with
  | 0x80 => some (.sll c a (.reg b))
  | 0x81 => some (.sll c a (.imm b))
  | 0x82 => some (.srl c a (.reg b))
  | 0x83 => some (.srl c a (.imm b))
  | 0x86 => some (.sra c a (.reg b))
  | 0x87 => some (.sra c a (.imm b))
  | 0x88 => some .iret
  | 0x89 => some .halt
  | 0x8C => some .iretinv
  | 0x90 => some (.and c a (.reg b))
  | 0x91 => some (.and c a (.imm b))
  | 0x92 => some (.or c a (.reg b))
  | 0x93 => some (.or c a (.imm b))
  | 0x94 => some (.xor c a (.reg b))
  | 0x95 => some (.xor c a (.imm b))
  | 0x96 => some (.xnor c a (.reg b))
  | 0x97 => some (.xnor c a (.imm b))
  | 0x98 => some (.nor c a (.reg b))
  | 0x99 => some (.nor c a (.imm b))
  | 0x9A => some (.nand c a (.reg b))
  | 0x9B => some (.nand c a (.imm b))
  | 0x9C => some (.andn c a (.reg b))
  | 0x9D => some (.andn c a (.imm b))
  | 0x9E => some (.setip c a b)
  | 0x9F => some .inv
  | 0xA0 => some (.jmp false (c ++ b))
  | 0xA1 => some (.jmp true (c ++ b))
  | 0xA4 => some (.jmpf false a (c ++ b))
  | 0xA5 => some (.jmpf true a (c ++ b))
  | 0xA8 => some (.call false a (c ++ b))
  | 0xA9 => some (.call true a (c ++ b))
  | 0xAA => some (.orn c a (.reg b))
  | 0xAB => some (.orn c a (.imm b))
  | 0xAC => some (.jmpt false a (c ++ b))
  | 0xAD => some (.jmpt true a (c ++ b))
  | 0xB4 => some (.jmpfdec false a (c ++ b))
  | 0xB5 => some (.jmpfdec true a (c ++ b))
  | 0xB6 => some (.mftlb c a)
  | 0xBE => some (.mttlb a b)
  | _ => none

/-- R244, operation codes C0 to FF: the instruction of an operation code with fields c (bits 23-16), a (15-8), b (7-0). -/
def decodeBlock3 (op : Nat) (c a b : Byte) : Option Instr :=
  match op with
  | 0xC0 => some (.jmpi b)
  | 0xC4 => some (.jmpfi a b)
  | 0xC6 => some (.mfsr c a)
  | 0xC8 => some (.calli a b)
  | 0xCC => some (.jmpti a b)
  | 0xCE => some (.mtsr a b)
  | 0xD7 => some (.emulate c a b)
  | 0xD8 => some (.fmac c a b)
  | 0xD9 => some (.dmac c a b)
  | 0xDA => some (.fmsm c a b)
  | 0xDB => some (.dmsm c a b)
  | 0xDE => some (.multm c a b)
  | 0xDF => some (.multmu c a b)
  | 0xE0 => some (.multiply c a b)
  | 0xE1 => some (.divide c a b)
  | 0xE2 => some (.multiplu c a b)
  | 0xE3 => some (.dividu c a b)
  | 0xE4 => some (.convert c a b)
  | 0xE5 => some (.sqrt c a b)
  | 0xE6 => some (.classify c a b)
  | 0xE8 => some (.mtacc c a b)
  | 0xE9 => some (.mfacc c a b)
  | 0xEA => some (.feq c a b)
  | 0xEB => some (.deq c a b)
  | 0xEC => some (.fgt c a b)
  | 0xED => some (.dgt c a b)
  | 0xEE => some (.fge c a b)
  | 0xEF => some (.dge c a b)
  | 0xF0 => some (.fadd c a b)
  | 0xF1 => some (.dadd c a b)
  | 0xF2 => some (.fsub c a b)
  | 0xF3 => some (.dsub c a b)
  | 0xF4 => some (.fmul c a b)
  | 0xF5 => some (.dmul c a b)
  | 0xF6 => some (.fdiv c a b)
  | 0xF7 => some (.ddiv c a b)
  | 0xF9 => some (.fdmul c a b)
  | _ => none

/-- R244: the instruction an operation code selects, if it is implemented. -/
def decodeFields (op : Nat) (c a b : Byte) : Option Instr :=
  if op < 0x40 then decodeBlock0 op c a b
  else if op < 0x80 then decodeBlock1 op c a b
  else if op < 0xC0 then decodeBlock2 op c a b
  else decodeBlock3 op c a b

/-- Decoding (R244 to R246): every word is an instruction, or is rejected by name. -/
def decode (w : Word) : Except DecodeError Instr :=
  match decodeFields (opField w).toNat (cField w) (aField w) (bField w) with
  | some i => .ok i
  | none =>
    match emulationVector (opField w).toNat with
    | some vn => .error (.reservedForEmulation (opField w) vn)
    | none => .error (.illegalOpcode (opField w))

/-- The instruction word with the four given fields (R230). -/
def wordOf (op c a b : Byte) : Word := op ++ c ++ a ++ b

/-- Bits 7-0 of an operand (R234). -/
def Opnd.field : Opnd → Byte
  | .reg r => r
  | .imm i => i

/-- The operation code with the M bit of the operand (R231). -/
def Opnd.op (b : Opnd) (even : Byte) : Byte :=
  match b with
  | .reg _ => even
  | .imm _ => even ||| 1

/-- The operation code with the A bit (R231). -/
def absOp (a : Bool) (even : Byte) : Byte := if a then even ||| 1 else even

/-- I15..I8 of a 16-bit field (R232). -/
def hi8 (i : BitVec 16) : Byte := i.extractLsb' 8 8
/-- I7..I0 of a 16-bit field (R234). -/
def lo8 (i : BitVec 16) : Byte := i.extractLsb' 0 8

/-- The word of an instruction (R235, R244): reserved fields are 0. -/
def encode : Instr → Word
  | .add rc ra b => wordOf (b.op 0x14) rc ra b.field
  | .addc rc ra b => wordOf (b.op 0x1C) rc ra b.field
  | .addcs rc ra b => wordOf (b.op 0x18) rc ra b.field
  | .addcu rc ra b => wordOf (b.op 0x1A) rc ra b.field
  | .adds rc ra b => wordOf (b.op 0x10) rc ra b.field
  | .addu rc ra b => wordOf (b.op 0x12) rc ra b.field
  | .sub rc ra b => wordOf (b.op 0x24) rc ra b.field
  | .subc rc ra b => wordOf (b.op 0x2C) rc ra b.field
  | .subcs rc ra b => wordOf (b.op 0x28) rc ra b.field
  | .subcu rc ra b => wordOf (b.op 0x2A) rc ra b.field
  | .subs rc ra b => wordOf (b.op 0x20) rc ra b.field
  | .subu rc ra b => wordOf (b.op 0x22) rc ra b.field
  | .subr rc ra b => wordOf (b.op 0x34) rc ra b.field
  | .subrc rc ra b => wordOf (b.op 0x3C) rc ra b.field
  | .subrcs rc ra b => wordOf (b.op 0x38) rc ra b.field
  | .subrcu rc ra b => wordOf (b.op 0x3A) rc ra b.field
  | .subrs rc ra b => wordOf (b.op 0x30) rc ra b.field
  | .subru rc ra b => wordOf (b.op 0x32) rc ra b.field
  | .mul rc ra b => wordOf (b.op 0x64) rc ra b.field
  | .mull rc ra b => wordOf (b.op 0x66) rc ra b.field
  | .mulu rc ra b => wordOf (b.op 0x74) rc ra b.field
  | .div0 rc b => wordOf (b.op 0x68) rc 0 b.field
  | .div rc ra b => wordOf (b.op 0x6A) rc ra b.field
  | .divl rc ra b => wordOf (b.op 0x6C) rc ra b.field
  | .divrem rc ra b => wordOf (b.op 0x6E) rc ra b.field
  | .multiply rc ra rb => wordOf 0xE0 rc ra rb
  | .multiplu rc ra rb => wordOf 0xE2 rc ra rb
  | .multm rc ra rb => wordOf 0xDE rc ra rb
  | .multmu rc ra rb => wordOf 0xDF rc ra rb
  | .divide rc ra rb => wordOf 0xE1 rc ra rb
  | .dividu rc ra rb => wordOf 0xE3 rc ra rb
  | .cpeq rc ra b => wordOf (b.op 0x60) rc ra b.field
  | .cpneq rc ra b => wordOf (b.op 0x62) rc ra b.field
  | .cplt rc ra b => wordOf (b.op 0x40) rc ra b.field
  | .cpltu rc ra b => wordOf (b.op 0x42) rc ra b.field
  | .cple rc ra b => wordOf (b.op 0x44) rc ra b.field
  | .cpleu rc ra b => wordOf (b.op 0x46) rc ra b.field
  | .cpgt rc ra b => wordOf (b.op 0x48) rc ra b.field
  | .cpgtu rc ra b => wordOf (b.op 0x4A) rc ra b.field
  | .cpge rc ra b => wordOf (b.op 0x4C) rc ra b.field
  | .cpgeu rc ra b => wordOf (b.op 0x4E) rc ra b.field
  | .cpbyte rc ra b => wordOf (b.op 0x2E) rc ra b.field
  | .aseq vn ra b => wordOf (b.op 0x70) vn ra b.field
  | .asneq vn ra b => wordOf (b.op 0x72) vn ra b.field
  | .aslt vn ra b => wordOf (b.op 0x50) vn ra b.field
  | .asltu vn ra b => wordOf (b.op 0x52) vn ra b.field
  | .asle vn ra b => wordOf (b.op 0x54) vn ra b.field
  | .asleu vn ra b => wordOf (b.op 0x56) vn ra b.field
  | .asgt vn ra b => wordOf (b.op 0x58) vn ra b.field
  | .asgtu vn ra b => wordOf (b.op 0x5A) vn ra b.field
  | .asge vn ra b => wordOf (b.op 0x5C) vn ra b.field
  | .asgeu vn ra b => wordOf (b.op 0x5E) vn ra b.field
  | .and rc ra b => wordOf (b.op 0x90) rc ra b.field
  | .andn rc ra b => wordOf (b.op 0x9C) rc ra b.field
  | .nand rc ra b => wordOf (b.op 0x9A) rc ra b.field
  | .nor rc ra b => wordOf (b.op 0x98) rc ra b.field
  | .or rc ra b => wordOf (b.op 0x92) rc ra b.field
  | .orn rc ra b => wordOf (b.op 0xAA) rc ra b.field
  | .xnor rc ra b => wordOf (b.op 0x96) rc ra b.field
  | .xor rc ra b => wordOf (b.op 0x94) rc ra b.field
  | .sll rc ra b => wordOf (b.op 0x80) rc ra b.field
  | .srl rc ra b => wordOf (b.op 0x82) rc ra b.field
  | .sra rc ra b => wordOf (b.op 0x86) rc ra b.field
  | .extract rc ra b => wordOf (b.op 0x7A) rc ra b.field
  | .load ctl ra b => wordOf (b.op 0x16) ctl ra b.field
  | .loadl ctl ra b => wordOf (b.op 0x06) ctl ra b.field
  | .loadset ctl ra b => wordOf (b.op 0x26) ctl ra b.field
  | .loadm ctl ra b => wordOf (b.op 0x36) ctl ra b.field
  | .store ctl ra b => wordOf (b.op 0x1E) ctl ra b.field
  | .storel ctl ra b => wordOf (b.op 0x0E) ctl ra b.field
  | .storem ctl ra b => wordOf (b.op 0x3E) ctl ra b.field
  | .exbyte rc ra b => wordOf (b.op 0x0A) rc ra b.field
  | .exhw rc ra b => wordOf (b.op 0x7C) rc ra b.field
  | .exhws rc ra => wordOf 0x7E rc ra 0
  | .inbyte rc ra b => wordOf (b.op 0x0C) rc ra b.field
  | .inhw rc ra b => wordOf (b.op 0x78) rc ra b.field
  | .mfsr rc sa => wordOf 0xC6 rc sa 0
  | .mtsr sa rb => wordOf 0xCE 0 sa rb
  | .mtsrim sa i => wordOf 0x04 (hi8 i) sa (lo8 i)
  | .mftlb rc ra => wordOf 0xB6 rc ra 0
  | .mttlb ra rb => wordOf 0xBE 0 ra rb
  | .const ra i => wordOf 0x03 (hi8 i) ra (lo8 i)
  | .consth ra i => wordOf 0x02 (hi8 i) ra (lo8 i)
  | .consthz ra i => wordOf 0x05 (hi8 i) ra (lo8 i)
  | .constn ra i => wordOf 0x01 (hi8 i) ra (lo8 i)
  | .fadd rc ra rb => wordOf 0xF0 rc ra rb
  | .dadd rc ra rb => wordOf 0xF1 rc ra rb
  | .fsub rc ra rb => wordOf 0xF2 rc ra rb
  | .dsub rc ra rb => wordOf 0xF3 rc ra rb
  | .fmul rc ra rb => wordOf 0xF4 rc ra rb
  | .dmul rc ra rb => wordOf 0xF5 rc ra rb
  | .fdiv rc ra rb => wordOf 0xF6 rc ra rb
  | .ddiv rc ra rb => wordOf 0xF7 rc ra rb
  | .fdmul rc ra rb => wordOf 0xF9 rc ra rb
  | .feq rc ra rb => wordOf 0xEA rc ra rb
  | .deq rc ra rb => wordOf 0xEB rc ra rb
  | .fgt rc ra rb => wordOf 0xEC rc ra rb
  | .dgt rc ra rb => wordOf 0xED rc ra rb
  | .fge rc ra rb => wordOf 0xEE rc ra rb
  | .dge rc ra rb => wordOf 0xEF rc ra rb
  | .fmac fn ra rb => wordOf 0xD8 fn ra rb
  | .dmac fn ra rb => wordOf 0xD9 fn ra rb
  | .fmsm rc ra rb => wordOf 0xDA rc ra rb
  | .dmsm rc ra rb => wordOf 0xDB rc ra rb
  | .convert rc ra fn => wordOf 0xE4 rc ra fn
  | .sqrt rc ra fn => wordOf 0xE5 rc ra fn
  | .classify rc ra fn => wordOf 0xE6 rc ra fn
  | .mtacc rc ra fn => wordOf 0xE8 rc ra fn
  | .mfacc rc ra fn => wordOf 0xE9 rc ra fn
  | .call a ra i => wordOf (absOp a 0xA8) (hi8 i) ra (lo8 i)
  | .calli ra rb => wordOf 0xC8 0 ra rb
  | .jmp a i => wordOf (absOp a 0xA0) (hi8 i) 0 (lo8 i)
  | .jmpf a ra i => wordOf (absOp a 0xA4) (hi8 i) ra (lo8 i)
  | .jmpfdec a ra i => wordOf (absOp a 0xB4) (hi8 i) ra (lo8 i)
  | .jmpfi ra rb => wordOf 0xC4 0 ra rb
  | .jmpi rb => wordOf 0xC0 0 0 rb
  | .jmpt a ra i => wordOf (absOp a 0xAC) (hi8 i) ra (lo8 i)
  | .jmpti ra rb => wordOf 0xCC 0 ra rb
  | .clz rc b => wordOf (b.op 0x08) rc 0 b.field
  | .emulate vn ra rb => wordOf 0xD7 vn ra rb
  | .setip rc ra rb => wordOf 0x9E rc ra rb
  | .inv => wordOf 0x9F 0 0 0
  | .iret => wordOf 0x88 0 0 0
  | .iretinv => wordOf 0x8C 0 0 0
  | .halt => wordOf 0x89 0 0 0

/-- Bits 31-24 of an instruction, what EXOP records (R231, 60_exceptions.md R682). -/
def Instr.opcode (i : Instr) : Byte := opField (encode i)

/-- The four bytes of an instruction word as they lie in memory, the first at the lowest address (log entry 7). -/
def wordBytes (w : Word) : List Byte := [opField w, cField w, aField w, bField w]

/-- The word whose bytes lie in memory in this order (log entry 7). -/
def wordOfBytes : List Byte → Option Word
  | [x, y, z, t] => some (wordOf x y z t)
  | _ => none

/-- The instruction the decoder reads from the opcode table's numbering of an instruction word: bit 0 is the least
significant bit of the word, bits above `nbits` are 0. -/
def decodeTableWord (nbits w : Nat) : Option Instr :=
  match wordOfBytes (wordBytes (BitVec.ofNat 32 (w % 2 ^ nbits))) with
  | none => none
  | some x =>
    match decode x with
    | .ok i => some i
    | .error _ => none

end Sys2Proof
end

