-- ==== Sys2Proof/Machine/Bits.lean ====
section
/-! DEFINITION. Bit fields of a word (00_scope.md R13, R14): bit 31 is the most significant. -/

namespace Sys2Proof.Machine

/-- Bit `k` of a word, as `x[k]` of R14. -/
def bitOf (w : Word) (k : Nat) : Bool := w.getLsbD k

/-- The `len` bits of a word from bit `lo` up, zero-extended: `x[lo+len-1 : lo]` of R14. -/
def fieldOf (w : Word) (lo len : Nat) : Word := (w >>> lo) &&& BitVec.ofNat 32 (2 ^ len - 1)

/-- The word with bit `k` set to `b`. -/
def putBit (w : Word) (k : Nat) (b : Bool) : Word :=
  let m := BitVec.ofNat 32 (2 ^ k)
  if b then w ||| m else w &&& ~~~m

/-- The word with the `len` bits from bit `lo` up replaced by the low bits of `v`. -/
def putField (w : Word) (lo len : Nat) (v : Word) : Word :=
  let m := BitVec.ofNat 32 ((2 ^ len - 1) * 2 ^ lo)
  (w &&& ~~~m) ||| ((v <<< lo) &&& m)

/-- A Boolean as one bit in a word. -/
def boolBit (b : Bool) : Word := if b then 1 else 0

/-- R15: the Boolean words TRUE = 0x80000000 and FALSE = 0. -/
def boolWord (b : Bool) : Word := if b then 0x80000000 else 0

/-- The low 8 bits of a word. -/
def lowByte (w : Word) : Byte := w.extractLsb' 0 8

/-- The word with bits 1-0 cleared: a word address (10_state.md R36, R39). -/
def alignWord (w : Word) : Word := w &&& 0xFFFFFFFC

end Sys2Proof.Machine
end

