-- ==== Sys2Proof/Config.lean ====
section
/-! DEFINITION. What an implementation or the platform fixes and the spec does not (00_scope.md R6,
92_eei_decisions.md), and the free values: opaque constants without a body, of which Lean can prove no value. -/

namespace Sys2Proof

/-- A free 32-bit value, one for each number of the counter `State.fresh`: a value that the spec leaves undefined
(93_implementation_defined.md, treatment "any value"; log entry 12). -/
opaque Config.freeWord : Nat → BitVec 32

/-- A free choice, one for each number of the counter `State.fresh`: which of several outcomes the spec allows
happens (Branch Target Cache replacement, a stale prefetched word, when a change of RE, PI, SM binds; log entry 12). -/
opaque Config.freeChoice : Nat → Nat

/-- R42: CFG.PRL, the processor release level, an 8-bit number the source does not give (`PRL_VALUE`; log entry 13). -/
opaque Config.prl : BitVec 8

/-- CPS at reset, 0x00000573: RE = FZ = PD = PI = SM = DI = DA = 1. PRESUMED (Figure 3-55 is lost; the spec's
decision D2; log entry 3). -/
def Config.cpsAtReset : Word := 0x00000573

/-- The bits of CPS that taking an interrupt or trap keeps: MM, CA, IP and IM (60_exceptions.md R681). PRESUMED (Figure 3-50 is lost;
decision D1; log entry 4). -/
def Config.trapKeepMask : Word := 0x0001C00C

/-- The bits of CPS that taking an interrupt or trap sets: FZ, PD, PI, SM, DI, DA (R681). PRESUMED (decision D1; log
entry 4). -/
def Config.trapSetBits : Word := 0x00000473

/-- The bit of a vector-table word that is the R bit (60_exceptions.md R644). PRESUMED (Figure 3-49 is lost; decision
D3; log entry 5). -/
def Config.vectorRomBit : Nat := 1

/-- `MAC_PRODUCT_ROUNDING` (00_scope.md R6): the product of the multiply-accumulate group is rounded before the
addition. The spec's default is `exact` (decision D25). DESIGN CHOICE (log entry 32). -/
def Config.macProductRounded : Bool := false

/-- `DERR_TRAP_DELAY_MAX` (R6, 60_exceptions.md R690): the largest number of instructions executed between an access
answered with DERR and its trap. The spec's default (decision D15; log entry 16). -/
def Config.derrTrapDelayMax : Nat := 8

/-- What a byte of memory that nothing has written reads as (20_memory.md R151). DESIGN CHOICE, unsafe: 0 (log
entry 2). -/
def Config.memoryFill : BitVec 8 := 0

end Sys2Proof
end

