-- ==== Sys2Proof/Machine/State.lean ====
section
/-! DEFINITION. The state of the machine as plain data, its faults and refusals, and the state after reset
(10_state.md). Log entry 1 is about the reset values the spec does not give. -/

namespace Sys2Proof.Machine

/-- A memory: (address, byte) pairs in canonical form, addresses strictly rising and no byte equal to what an unlisted
address reads as (`Config.memoryFill`; log entries 2 and 7). -/
abbrev Memory := List Host.Cell

/-- The special-purpose registers other than CPS and ALU (10_state.md R41), each as the 32 bits MFSR returns; reserved
bits are 0 (R40). -/
structure SpecialRegs where
  /-- 0, VAB (R43). -/
  vab : Word
  /-- 1, OPS (R44). -/
  ops : Word
  /-- 3, CFG without its read-only PRL field (R42; log entry 13). -/
  cfg : Word
  /-- 4, CHA (R46). -/
  cha : Word
  /-- 5, CHD (R47). -/
  chd : Word
  /-- 6, CHC (R48); 135, CR, is its field CR (R69). -/
  chc : Word
  /-- 7, RBP (R49). -/
  rbp : Word
  /-- 8, TMC (R50). -/
  tmc : Word
  /-- 9, TMR (R51). -/
  tmr : Word
  /-- 10, PC0 (R52). -/
  pc0 : Word
  /-- 11, PC1 (R53). -/
  pc1 : Word
  /-- 12, PC2 (R54). -/
  pc2 : Word
  /-- 13, MMU (R55). -/
  mmu : Word
  /-- 14, LRU (R56). -/
  lru : Word
  /-- 15, RSN (R57). -/
  rsn : Word
  /-- 16, RMA0 (R58). -/
  rma0 : Word
  /-- 17, RMC0 (R59). -/
  rmc0 : Word
  /-- 18, RMA1 (R58). -/
  rma1 : Word
  /-- 19, RMC1 (R59). -/
  rmc1 : Word
  /-- 20, SPC0 (R60). -/
  spc0 : Word
  /-- 21, SPC1 (R60). -/
  spc1 : Word
  /-- 22, SPC2 (R60). -/
  spc2 : Word
  /-- 23, IBA0 (R61). -/
  iba0 : Word
  /-- 24, IBC0 (R62). -/
  ibc0 : Word
  /-- 25, IBA1 (R61). -/
  iba1 : Word
  /-- 26, IBC1 (R62). -/
  ibc1 : Word
  /-- 128, IPC (R64). -/
  ipc : Word
  /-- 129, IPA (R64). -/
  ipa : Word
  /-- 130, IPB (R64). -/
  ipb : Word
  /-- 131, Q (R65). -/
  q : Word
  /-- 160, FPE (R70). -/
  fpe : Word
  /-- 161, INTE (R71). -/
  inte : Word
  /-- 162, FPS (R72). -/
  fps : Word
  /-- 164, EXOP (R73). -/
  exop : Word
deriving DecidableEq, Repr

/-- The hazard record `hz` (10_state.md R138): what the immediately preceding instruction did that has a delayed
effect (70_reset_and_hazards.md R780 to R782; U16 for `multiple`). -/
structure Hazards where
  /-- It wrote GR[1] (R780). -/
  sp : Bool
  /-- It set IPA (R781). -/
  ipa : Bool
  /-- It set IPB (R781). -/
  ipb : Bool
  /-- It set IPC (R781). -/
  ipc : Bool
  /-- It changed MMU.PS (R782). -/
  ps : Bool
  /-- It was a LOADM or STOREM (44_data_movement.md R438 (f)). -/
  multiple : Bool
deriving DecidableEq, Repr

/-- No hazard: `hz` after reset, after a trap entry and after most instructions (R138). -/
def Hazards.none : Hazards := ⟨false, false, false, false, false, false⟩

/-- One record of external inputs, those of one step (00_scope.md R10, log entry 14). The first three are levels. -/
structure Input where
  /-- INTR3 to INTR0 (60_exceptions.md R710). -/
  intr : BitVec 4
  /-- TRAP1, TRAP0 (R710). -/
  trap : BitVec 2
  /-- CNTL1, CNTL0 (R743): 00 Load Test Instruction, 01 Step, 10 Halt, 11 Normal. -/
  cntl : BitVec 2
  /-- An inactive-to-active transition of WARN before this step (R705). -/
  warn : Bool
  /-- RESET was asserted, and is released before this step (70_reset_and_hazards.md R761). -/
  reset : Bool
  /-- The instruction access of this step is answered with IERR (60_exceptions.md R661). -/
  ierr : Bool
  /-- The number, within the step, of the data access answered with DERR (R660). -/
  derr : Option Nat
  /-- The vector fetch of this step is answered with DERR (D31). -/
  vectorDerr : Bool
  /-- Processor cycles of this step beyond the first (R720). -/
  cycles : Nat
deriving DecidableEq, Repr

/-- No input active, CNTL = 11. -/
def Input.quiet : Input := ⟨0, 0, 3, false, false, false, .none, false, 0⟩

/-- The address spaces of the platform (20_memory.md R150): instruction/data memory as data accesses and as
instruction fetches see it, input/output, the coprocessor and the instruction ROM. -/
inductive MapSpace where
  | data
  | instr
  | io
  | cop
  | irom
deriving DecidableEq, Repr

/-- A range of physical addresses that do not exist, from `lo` up to and without `hi` (`MEMORY_MAP`, 00_scope.md R6;
log entry 47). -/
structure Hole where
  space : MapSpace
  lo : Nat
  hi : Nat
deriving DecidableEq, Repr

/-- One block frame of the Branch Target Cache (10_state.md R133): an instruction word with its Valid bit is an
`Option`; a frame holds four words with CFG.CO = 0 and two (the first two) with CFG.CO = 1. -/
structure BtcBlock where
  /-- CFG.CO when the frame was opened: the organization its tag and words belong to (log entry 10). -/
  co : Bool
  /-- Address bits 31-6. -/
  tag : BitVec 26
  /-- The Space ID: RE, PI, SM at the fetch. -/
  space : BitVec 3
  /-- The words that are valid. -/
  words : Vector (Option Word) 4
deriving DecidableEq, Repr

/-- The Branch Target Cache (R133; log entry 10). -/
structure Btc where
  /-- The block frames: frames 0 to 63 with CFG.CO = 0, 0 to 127 with CFG.CO = 1. -/
  blocks : Vector BtcBlock 128
  /-- The frame that the present run of fetches fills, and whether it may supply words (CD was 0). -/
  stream : Option (Fin 128 × Bool)
  /-- CFG.CD as sampled at the last non-sequential fetch. -/
  disabled : Bool
  /-- An INV waits for the next successful branch (48_miscellaneous.md R603). -/
  pendingInv : Bool
deriving DecidableEq, Repr

/-- An instruction word that may already have been prefetched when a store replaced it (10_state.md R132,
20_memory.md R222; log entry 10). -/
structure Prefetched where
  /-- The address of the word in instruction/data memory. -/
  addr : Nat
  /-- The word before the store. -/
  old : Word
  /-- How many more instruction fetches may find it; above 4, a non-sequential one too, for the words it fills the Branch
  Target Cache with (48_miscellaneous.md R606, steps 6 to 10). -/
  left : Nat
deriving DecidableEq, Repr

/-- Why the model stops. Each stands for behaviour the spec calls unpredictable (or gives none for) and itself maps to
a model fault (93_implementation_defined.md); all are safe: the model stops where the hardware does something. -/
inductive Fault where
  /-- U1: general register 4 to 63 accessed. Raised by reading or writing a register. Safe. -/
  | unimplementedRegister
  /-- U2: indirect access through a pointer that holds 0. Raised by reading or writing a register. Safe. -/
  | nullPointer
  /-- U3: local register named while the shadow Stack Pointer is not valid. Raised by operand resolution. Safe. -/
  | stackShadowInvalid
  /-- U4: a Condition Code Accumulator restriction broken. Raised by reading or writing a register. Safe. -/
  | ccaRestriction
  /-- U5: a double-precision operand in an odd-numbered register. Raised by the floating-point meanings. Safe. -/
  | oddDouble
  /-- U7: unused bits of an RMA register not 0. Raised by translation. Safe. -/
  | regionUnusedBits
  /-- U8: MTSR or MTSRIM to special registers 112 to 127. Safe. -/
  | testRegisterWrite
  /-- U9: write of an unimplemented protected special register, or any access to 163 or 165 to 255. Safe. -/
  | unimplementedSpecial
  /-- U10: both TLB entries of a line match. Raised by translation. Safe. -/
  | tlbDoubleMatch
  /-- U12: LOADM or STOREM of bytes or half-words. Safe. -/
  | multipleNarrow
  /-- U14: LOADM or STOREM while the channel registers are frozen. Safe. -/
  | multipleFrozen
  /-- U15: a single load or store while CHC.ML is 1. Safe. -/
  | multipleFlagSet
  /-- U16: LOADM or STOREM right after another. Safe. -/
  | multipleBackToBack
  /-- U17: CONVERT with a reserved RND or FD = FS. Safe. -/
  | convertReserved
  /-- U18: MFACC or MTACC with a reserved FPE.ACF and FMT 01 or 10. Safe. -/
  | accumulatorFormat
  /-- U19: DMAC, FMSM or DMSM with an FPE.ACF they may not have. Safe. -/
  | multiplyFormat
  /-- U21: IRET or IRETINV with FZ = 0. Safe. -/
  | returnUnfrozen
  /-- U22: an instruction-caused trap that Monitor mode ignores. Raised by taking an exception. Safe. -/
  | ignoredTrap
  /-- U25: a local register named right after GR[1] was written. Raised by operand resolution. Safe. -/
  | hazardStackPointer
  /-- U25: an indirect pointer used right after it was set. Raised by operand resolution. Safe. -/
  | hazardPointer
  /-- U25: an address translated right after MMU.PS was changed. Raised by data accesses, taken branches and interrupt
  returns. Safe. -/
  | hazardPageSize
  /-- D31: DERR answers a vector fetch. Raised by taking an exception. Safe. -/
  | vectorFetchError
deriving DecidableEq, Repr

/-- Where instructions come from (20_memory.md R153); a translation may redirect to input/output (R178). -/
inductive FetchSpace where
  | idmem
  | irom
  | io
deriving DecidableEq, Repr

/-- What step 6 or 8 of an interrupt return finds for an instruction, before it resumes a sequence of loads or stores
(48_miscellaneous.md R606). -/
inductive EarlyFetch where
  /-- The place of the instruction, and the word of instruction/data memory at its address then. -/
  | found (sp : FetchSpace) (paddr : Word) (w : Word)
  /-- A trap, taken when the instruction is to execute, and the LRU field that comes with it. -/
  | trap (vn : Byte) (lru : BitVec 6)
  /-- A model fault of the translation, raised when the instruction is to execute. -/
  | fault (f : Fault)
deriving DecidableEq, Repr

/-- The CPS bits RE, PI and SM as they were before an MTSR changed them, which instruction fetches still use (R784 (c),
D16; log entry 11). -/
structure OldFetch where
  re : Bool
  pi : Bool
  sm : Bool
  /-- How many more instructions are fetched under these bits. -/
  left : Nat
deriving DecidableEq, Repr

/-- The modes of operation a program can be stopped in (00_scope.md R9, 60_exceptions.md R742, R745). -/
inductive OpMode where
  /-- Executing (or Wait, when CPS.WM is 1). -/
  | executing
  /-- A HALT has executed; the fetch of the next instruction may still trap (R607). -/
  | haltPending
  /-- Halt mode. -/
  | halted
  /-- Step mode. -/
  | stepping
deriving DecidableEq, Repr

/-- The state of the processor, its memories, and the inputs of the steps to come. -/
structure State where
  /-- The address of the instruction being executed (10_state.md R36). -/
  pc : Word
  /-- The address of the instruction executed after it (R36). -/
  npc : Word
  /-- The address of the last instruction that completed (R38). -/
  lastpc : Word
  /-- Whether `lastpc` is known (D29: it is not after an interrupt return). -/
  lastpcKnown : Bool
  /-- Whether the fetch at `pc` is sequential (log entry 10). -/
  pcSeq : Bool
  /-- Whether the fetch at `npc` is sequential (log entry 10). -/
  npcSeq : Bool
  /-- GR[1], the Stack Pointer (R20). -/
  sp : Word
  /-- SPsh, the shadow copy of bits 8-2 of the Stack Pointer (R29). -/
  spShadow : BitVec 7
  /-- SPsh_valid (R29). -/
  spValid : Bool
  /-- The Condition Code Accumulator (R30). -/
  cca : Word
  /-- GR[64] to GR[127] (R20). -/
  globals : Vector Word 64
  /-- GR[128] to GR[255] (R20). -/
  locals : Vector Word 128
  /-- ACC[0] to ACC[3] (R33), each in the double-precision encoding (D27). -/
  acc : Vector DWord 4
  /-- CPS, with bit 14 (IP) always 0 here: IP is computed when CPS is read (R45, R710 (d); log entry 18). -/
  cps : Word
  /-- ALU Status (R66). -/
  alu : Word
  /-- The other special-purpose registers (R41). -/
  sr : SpecialRegs
  /-- The TLB registers, the U bit of every Word 1 held as 0 here (R80 to R82). -/
  tlb : Vector Word 128
  /-- The Usage bit of each TLB line (R82, D10). -/
  tlbUsage : Vector Bool 32
  /-- Instruction/data memory as data accesses see it, and instruction fetches too unless `imem` is another storage
  (20_memory.md R150; log entries 7 and 47). -/
  idmem : Memory
  /-- Instruction/data memory as instruction fetches see it, on a platform with two storages (R150, `MEMORY_MAP`; log
  entry 47). -/
  imem : Option Memory
  /-- Instruction ROM (R150). -/
  irom : Memory
  /-- The Branch Target Cache (R133). -/
  btc : Btc
  /-- Words of the Instruction Prefetch Buffer that a store has overtaken (R132). -/
  prefetched : List Prefetched
  /-- The instructions at `pc` and `npc`, as far as an interrupt return has fetched them before it resumed a sequence, the
  next one first (48_miscellaneous.md R606, steps 6 and 8; log entry 59). -/
  early : List EarlyFetch
  /-- RE, PI, SM before each change by MTSR that has not taken effect on fetches yet, the latest change first (D16). -/
  oldFetch : List OldFetch
  /-- The hazard record (R138). -/
  hz : Hazards
  /-- The hazard record the executing instruction leaves for the next one. -/
  hzNext : Hazards
  /-- Instructions still to complete after FZ went from 1 to 0 (R783). -/
  fzWindow : Nat
  /-- `derr_event` with the vector of its trap (60_exceptions.md R660 (c)). -/
  derrEvent : Option Byte
  /-- How many more instructions may execute before the trap of `derrEvent` (R690). -/
  derrLeft : Nat
  /-- The destination register of the load that `derrEvent` stands for, if it is a load (R690). -/
  derrLoad : Option Byte
  /-- `warn_pending` (R136). -/
  warnPending : Bool
  /-- The mode of operation (00_scope.md R9). -/
  opMode : OpMode
  /-- `DEBUGGER_PRESENT` (60_exceptions.md R742). -/
  debugger : Bool
  /-- `MEMORY_MAP`: the addresses that do not exist (00_scope.md R6; log entry 47). -/
  holes : List Hole
  /-- The inputs of the step being made. -/
  cur : Input
  /-- The inputs of the steps to come (log entry 14). -/
  inputs : List Input
  /-- Data accesses made so far in this step (log entry 14). -/
  accesses : Nat
  /-- The number of the next free value (log entry 12). -/
  fresh : Nat
deriving DecidableEq, Repr

/-- Why the model refuses to go on. -/
inductive Refusal where
  /-- No meaning for the instruction yet. Raised by an arm of `exec` only. Safe. -/
  | notModelled (mnemonic : String)
  /-- U23: CNTL1-0 = 00 after reset or WARN, or a transition of CNTL1-0 that R743 does not allow, which the platform
  must not produce.
  Raised by the step. Safe. -/
  | controlInput
  /-- R4 (c), R746: the Load Test Instruction mode, in which an external system drives the processor. Raised by the
  step. Safe. -/
  | loadTestMode
deriving DecidableEq, Repr

/-- The step's answer. -/
abbrev Out := Host.Outcome State Fault Refusal

/-- The special registers after reset (10_state.md R140): CFG has CD = 1, INTE has DO = MO = 1; the others, which the
spec gives no value or only some bits of, are 0. DESIGN CHOICE, unsafe (log entries 1 and 6). -/
def SpecialRegs.reset : SpecialRegs where
  vab := 0
  ops := 0
  cfg := 1
  cha := 0
  chd := 0
  chc := 0
  rbp := 0
  tmc := 0
  tmr := 0
  pc0 := 0
  pc1 := 0
  pc2 := 0
  mmu := 0
  lru := 0
  rsn := 0
  rma0 := 0
  rmc0 := 0
  rma1 := 0
  rmc1 := 0
  spc0 := 0
  spc1 := 0
  spc2 := 0
  iba0 := 0
  ibc0 := 0
  iba1 := 0
  ibc1 := 0
  ipc := 0
  ipa := 0
  ipb := 0
  q := 0
  fpe := 0
  inte := 3
  fps := 0
  exop := 0

/-- The Branch Target Cache after reset: unused (CD = 1); its undefined contents are taken as invalid. DESIGN CHOICE,
unsafe (log entry 10). -/
def Btc.reset : Btc where
  blocks := Vector.replicate 128 ⟨false, 0, 0, Vector.replicate 4 .none⟩
  stream := .none
  disabled := true
  pendingInv := false

/-- The machine right after reset (10_state.md R140, 70_reset_and_hazards.md R760). Values the spec does not give are
0. DESIGN CHOICE, unsafe (log entry 1). -/
def State.reset : State where
  pc := 0
  npc := 4
  lastpc := 0
  lastpcKnown := true
  pcSeq := false
  npcSeq := true
  sp := 0
  spShadow := 0
  spValid := false
  cca := 0
  globals := Vector.replicate 64 0
  locals := Vector.replicate 128 0
  acc := Vector.replicate 4 0
  cps := Config.cpsAtReset
  alu := 0
  sr := SpecialRegs.reset
  tlb := Vector.replicate 128 0
  tlbUsage := Vector.replicate 32 false
  idmem := []
  imem := .none
  irom := []
  btc := Btc.reset
  prefetched := []
  early := []
  oldFetch := []
  hz := Hazards.none
  hzNext := Hazards.none
  fzWindow := 0
  derrEvent := .none
  derrLeft := 0
  derrLoad := .none
  warnPending := false
  opMode := .executing
  debugger := false
  holes := []
  cur := Input.quiet
  inputs := []
  accesses := 0
  fresh := 0

end Sys2Proof.Machine
end

