-- ==== Sys2Proof/Machine/Memory.lean ====
section
/-! DEFINITION. Memory as a canonical list of cells (20_memory.md R150, R151; log entries 2 and 7). A word is stored
with its most significant byte at its lowest address; byte lane k of a word (bits 8k+7 to 8k, R160) therefore lies at
the word's address + 3 - k whatever CFG.BO says. -/

namespace Sys2Proof.Machine

/-- The byte at an address; an unlisted address reads `Config.memoryFill` (log entry 2). -/
def readByte : Memory → Nat → BitVec 8
  | [], _ => Config.memoryFill
  | (k, b) :: m, a => if k = a then b else readByte m a

/-- The memory without an entry for an address. -/
def eraseByte : Memory → Nat → Memory
  | [], _ => []
  | (k, b) :: m, a => if k = a then eraseByte m a else (k, b) :: eraseByte m a

/-- The memory with an entry placed before the first higher address. -/
def insertByte : Memory → Nat → BitVec 8 → Memory
  | [], a, v => [(a, v)]
  | (k, b) :: m, a, v => if a < k then (a, v) :: (k, b) :: m else (k, b) :: insertByte m a v

/-- The memory with one byte written; writing the fill value lists nothing, so equal memories are equal lists. -/
def writeByte (m : Memory) (a : Nat) (v : BitVec 8) : Memory :=
  if v = Config.memoryFill then eraseByte m a else insertByte (eraseByte m a) a v

/-- The canonical form: addresses below 2^32, strictly rising, and no byte equal to the fill value. -/
def Memory.wf : Memory → Bool
  | [] => true
  | (k, b) :: m => decide (k < 4294967296) && b != Config.memoryFill && m.all (fun c => decide (k < c.1)) && Memory.wf m

/-- The address of the aligned word an address lies in (R151). -/
def wordBase (a : Word) : Nat := (alignWord a).toNat

/-- The word of a plain memory at `a & 0xFFFFFFFC` (R151). -/
def readWord (m : Memory) (a : Word) : Word :=
  let p := wordBase a
  wordOf (readByte m p) (readByte m (p + 1)) (readByte m (p + 2)) (readByte m (p + 3))

/-- The whole word of a plain memory at `a & 0xFFFFFFFC` replaced (R167). -/
def writeWord (m : Memory) (a : Word) (w : Word) : Memory :=
  let p := wordBase a
  writeByte (writeByte (writeByte (writeByte m p (opField w)) (p + 1) (cField w)) (p + 2) (aField w)) (p + 3) (bField w)

/-- Byte lane `k` (0 the least significant) of the word at `a & 0xFFFFFFFC` replaced (R160, R167). -/
def writeLane (m : Memory) (a : Word) (k : Nat) (v : Byte) : Memory :=
  writeByte m (wordBase a + 3 - k) v

/-- Half-word lane `k` (0 is bits 15-0) of the word at `a & 0xFFFFFFFC` replaced (R161, R167). -/
def writeHalf (m : Memory) (a : Word) (k : Nat) (h : BitVec 16) : Memory :=
  writeLane (writeLane m a (2 * k + 1) (hi8 h)) a (2 * k) (lo8 h)

end Sys2Proof.Machine
end

