-- ==== Sys2Proof/Machine/Ops.lean ====
section
/-! DEFINITION. The named operations of the machine: modes, free values, general and special registers, taking an
interrupt or trap and returning from one, and the timer (10_state.md, 60_exceptions.md). -/

namespace Sys2Proof.Machine

/-! ### Status fields (10_state.md R45, 60_exceptions.md R640) -/

/-- CPS.DA. -/
def State.da (s : State) : Bool := bitOf s.cps 0
/-- CPS.DI. -/
def State.di (s : State) : Bool := bitOf s.cps 1
/-- CPS.IM. -/
def State.im (s : State) : Nat := (fieldOf s.cps 2 2).toNat
/-- CPS.MM. -/
def State.mm (s : State) : Bool := bitOf s.cps 16
/-- CPS.TE. -/
def State.te (s : State) : Bool := bitOf s.cps 13
/-- CPS.TP. -/
def State.tp (s : State) : Bool := bitOf s.cps 12
/-- CPS.TU. -/
def State.tu (s : State) : Bool := bitOf s.cps 11
/-- CPS.WM. -/
def State.wm (s : State) : Bool := bitOf s.cps 7
/-- The effective Freeze bit eFZ = FZ or MM (R640). -/
def State.frozen (s : State) : Bool := bitOf s.cps 10 || s.mm
/-- eRE (R640). -/
def State.eRE (s : State) : Bool := bitOf s.cps 8 || s.mm
/-- ePD (R640). -/
def State.ePD (s : State) : Bool := bitOf s.cps 6 || s.mm
/-- ePI (R640). -/
def State.ePI (s : State) : Bool := bitOf s.cps 5 || s.mm
/-- eSM (R640). -/
def State.eSM (s : State) : Bool := bitOf s.cps 4 || s.mm
/-- `Mode() == User` (R640): neither Monitor nor Supervisor mode. -/
def State.user (s : State) : Bool := !s.eSM

/-- R642 (a): INTRn is enabled. -/
def State.intrEnabled (s : State) (n : Nat) : Bool := !s.da && !s.di && decide (n ≤ s.im)

/-- R710 (d): CPS.IP, set iff some INTRn is active and not enabled. -/
def State.interruptPending (s : State) : Bool :=
  (List.range 4).any fun n => s.cur.intr.getLsbD n && !s.intrEnabled n

/-- CPS as MFSR and the copy into OPS see it: IP is computed (R45, R710 (d)). -/
def State.cpsRead (s : State) : Word := putBit s.cps 14 s.interruptPending

/-- `MEMORY_MAP`: an address of a space does not exist (00_scope.md R6; log entry 47). -/
def State.missing (s : State) (sp : MapSpace) (a : Word) : Bool :=
  s.holes.any fun h => h.space == sp && decide (h.lo ≤ a.toNat) && decide (a.toNat < h.hi)

/-! ### Free values (log entry 12) -/

/-- The next free 32-bit value. -/
def State.drawWord (s : State) : Word × State := (Config.freeWord s.fresh, { s with fresh := s.fresh + 1 })

/-! ### General registers by absolute number (10_state.md R20, R32) -/

/-- What a general register is written by (R29, R30, 60_exceptions.md R690): the class decides whether a write of GR[1] sets the shadow
Stack Pointer and whether registers 2 and 3 may be the destination. -/
inductive WriteClass where
  /-- Integer arithmetic executed by the ALU, or logical, that may not have gr2 as destination. -/
  | alu
  /-- ADD and SUB, which may (R30 (b)). -/
  | aluCca
  /-- The constant instructions, which may, and do not set the shadow (R30 (b)). -/
  | constant
  /-- Loads, which may have neither gr2 nor gr3 (R30 (d)). -/
  | load
  /-- Instructions of the Floating-Point Unit: gr3 only in fast-float mode (R30 (f), D6). -/
  | fpu
  /-- Every other instruction. -/
  | other
deriving DecidableEq, Repr

/-- R29: the write sets the shadow Stack Pointer. -/
def WriteClass.setsShadow : WriteClass → Bool
  | .alu | .aluCca => true
  | _ => false

/-- ReadGR (R32) of a register that may be read: the Stack Pointer, the Condition Code Accumulator, a global or a local
register. The numbers that fault are checked before (`Operands.lean`); they read 0 here. -/
def State.getGR (s : State) (n : Byte) : Word :=
  if n = 1#8 then s.sp
  else if n = 2#8 then s.cca
  else if n.toNat < 64 then 0
  else if n.toNat < 128 then s.globals.getD (n.toNat - 64) 0
  else s.locals.getD (n.toNat - 128) 0

/-- WriteGR (R32): register 1 updates the shadow Stack Pointer by R29 and starts the delay of R780, 2 and 3 are the
Condition Code Accumulator and its shifted view (R30). -/
def State.putGR (s : State) (c : WriteClass) (n : Byte) (v : Word) : State :=
  if n = 1#8 then
    { s with
      sp := v
      spShadow := if c.setsShadow then v.extractLsb' 2 7 else s.spShadow
      spValid := c.setsShadow
      hzNext := { s.hzNext with sp := true } }
  else if n = 2#8 then { s with cca := v }
  else if n = 3#8 then { s with cca := (s.cca <<< 1) ||| (v >>> 31) }
  else if n.toNat < 64 then s
  else if n.toNat < 128 then { s with globals := s.globals.setIfInBounds (n.toNat - 64) v }
  else { s with locals := s.locals.setIfInBounds (n.toNat - 128) v }

/-- R26: in User mode, a register in a bank that RBP protects. -/
def State.bankProtected (s : State) (n : Byte) : Bool :=
  s.user && decide (4 ≤ n.toNat) && bitOf s.sr.rbp (n.toNat / 16)

/-! ### How an instruction ends -/

/-- The program-counter kind of an interrupt or trap (60_exceptions.md R641, 10_state.md R38). -/
inductive TrapKind where
  /-- Taken between instructions. -/
  | async
  /-- Raised by an instruction that did not execute. -/
  | curr
  /-- Raised by an instruction that reached execution. -/
  | next
deriving DecidableEq, Repr

/-- Why an instruction does not complete. -/
inductive Stop where
  /-- A model fault. -/
  | fault (f : Fault)
  /-- It raises a trap, in the state that holds what the rule says a trapping instruction writes. -/
  | trap (vn : Byte) (kind : TrapKind) (s : State)
deriving DecidableEq, Repr

/-- How an instruction completes. -/
inductive Done where
  /-- It is followed by the instruction at `npc`, then the one at `npc + 4`. -/
  | seq (s : State)
  /-- It is a taken branch to a target (10_state.md R37). -/
  | branch (s : State) (target : Word)
  /-- It is a move to CPS, followed like `seq` (44_data_movement.md R456 (e)). -/
  | status (s : State)
  /-- It has set `pc` and `npc` itself (an interrupt return, 48_miscellaneous.md R606). -/
  | returned (s : State)
deriving DecidableEq, Repr

/-! ### Branch Target Cache (10_state.md R133, 48_miscellaneous.md R603) -/

/-- All Valid bits reset. -/
def Btc.invalidate (b : Btc) : Btc :=
  { b with blocks := Vector.replicate 128 ⟨false, 0, 0, Vector.replicate 4 none⟩, stream := none, pendingInv := false }

/-- R603: at a taken branch, a trap entry or an interrupt return, a pending INV takes effect. -/
def Btc.redirect (b : Btc) : Btc := if b.pendingInv then b.invalidate else b

/-! ### Taking an interrupt or trap (60_exceptions.md R680, R700, R702) -/

/-- R680: execution goes on at an address, fetched non-sequentially; the delayed effects are over (10_state.md R138), and
the Instruction Prefetch Buffer and instructions fetched early are discarded (20_memory.md R222). -/
def State.goto (s : State) (a b : Word) (bSeq : Bool) : State :=
  { s with
    pc := a, npc := b, pcSeq := false, npcSeq := bSeq
    btc := s.btc.redirect
    hz := Hazards.none, hzNext := Hazards.none
    fzWindow := 0
    prefetched := []
    early := []
    oldFetch := [] }

/-- The address of the last instruction completed; a free value after an interrupt return (D29). -/
def State.lastAddress (s : State) : Word × State :=
  if s.lastpcKnown then (s.lastpc, s)
  else ((s.drawWord).1 &&& 0xFFFFFFFC, (s.drawWord).2)

/-- The PC0, PC1, PC2 values of a trap (10_state.md R38 (a) to (c)). -/
def State.pcTriple (s : State) (kind : TrapKind) : Word × Word × Word × State :=
  match kind with
  | .next => (s.npc + 4, s.npc, s.pc, s)
  | .async => (s.npc, s.pc, s.lastAddress.1, s.lastAddress.2)
  | .curr => (s.npc, s.pc, s.lastAddress.1, s.lastAddress.2)

/-- R38 (f), R141: the frozen registers PC0 to PC2 record the trap only when FZ is 0; within two instructions of FZ
going from 1 to 0 they are free values (70_reset_and_hazards.md R783, U26). -/
def State.recordPcs (s : State) (p0 p1 p2 : Word) : State :=
  if bitOf s.cps 10 then s
  else if s.fzWindow = 0 then { s with sr := { s.sr with pc0 := p0, pc1 := p1, pc2 := p2 } }
  else
    { s with
      sr := { s.sr with
        pc0 := alignWord (Config.freeWord s.fresh)
        pc1 := alignWord (Config.freeWord (s.fresh + 1))
        pc2 := alignWord (Config.freeWord (s.fresh + 2)) }
      fresh := s.fresh + 3 }

/-- R730 (a): CPS with TE copied to TP. In Monitor mode the copy does not clear a TP that is 1: a Trace trap stays
pending there (R702 (d)) and the Monitor routine clears TP itself (R730 (b)). DEDUCED (log entry 24). -/
def State.tracedCps (s : State) : Word := putBit s.cps 12 (s.te || (s.mm && s.tp))

/-- R730 (a): TE is copied to TP when an instruction completes or traps with kind Next. -/
def State.copyTrace (s : State) : State := { s with cps := s.tracedCps }

/-- Both trap sequences: PC0 to PC2, SPC0 to SPC2, and the trace copy (R680, R700). -/
def State.saveContext (s : State) (kind : TrapKind) : State :=
  let t := s.pcTriple kind
  let s1 := t.2.2.2.recordPcs t.1 t.2.1 t.2.2.1
  let s2 := { s1 with sr := { s1.sr with spc0 := t.1, spc1 := t.2.1, spc2 := t.2.2.1 } }
  if kind = .next then s2.copyTrace else s2

/-- R681: the Current Processor Status after an interrupt or trap, before RE is set by step 7. -/
def afterTrap (c : Word) : Word := (c &&& Config.trapKeepMask) ||| Config.trapSetBits

/-- Steps 4 and 5 of R680: OPS and CPS. -/
def State.switchStatus (s : State) : State :=
  { s with sr := { s.sr with ops := fieldOf s.cpsRead 0 16 }, cps := afterTrap s.cps }

/-- R643 (a): the physical address of a vector in the table. -/
def vectorAddress (vab : Word) (vn : Byte) : Word := (vab &&& 0xFFFFFC00) ||| (vn.setWidth 32 <<< 2)

/-- R643 (b): the address of a handler block. -/
def blockAddress (vab : Word) (vn : Byte) : Word := (vab &&& 0xFFFF0000) ||| (vn.setWidth 32 <<< 8)

/-- CFG.VF (10_state.md R42). -/
def State.vf (s : State) : Bool := bitOf s.sr.cfg 4

/-- Steps 6 and 7 of R680: the handler's address and the new RE bit (R643, R644). -/
def State.handler (s : State) (vn : Byte) : Word × Bool :=
  if s.vf then
    let w := readWord s.idmem (vectorAddress s.sr.vab vn)
    (alignWord w, bitOf w Config.vectorRomBit)
  else (blockAddress s.sr.vab vn, bitOf s.sr.cfg 3)

/-- R680: the ordinary trap sequence, outside Monitor mode. -/
def State.ordinaryTrap (s : State) (vn : Byte) (kind : TrapKind) : State :=
  let s1 := (s.saveContext kind).switchStatus
  let h := s1.handler vn
  { s1 with cps := putBit s1.cps 8 h.2 }.goto h.1 (h.1 + 4) true

/-- R700, R742: the Monitor trap sequence, from outside Monitor mode; with a debugger attached the processor then
halts. -/
def State.monitorTrap (s : State) (vn : Byte) (kind : TrapKind) : State :=
  let s1 := s.saveContext kind
  let s2 := { s1 with sr := { s1.sr with rsn := vn.setWidth 32 }, cps := putBit s1.cps 16 true }.goto 16 20 true
  if s2.debugger then { s2 with opMode := .halted } else s2

/-- R702 (a): another Monitor trap, from Monitor mode: only the program counter changes. With a debugger attached the
processor then halts (R742). -/
def State.monitorAgain (s : State) : State :=
  { s.goto 16 20 true with opMode := if s.debugger then .halted else s.opMode }

/-- The vector fetch is answered with DERR, by the inputs or because the address does not exist (log entry 47). -/
def State.vectorFails (s : State) (vn : Byte) : Bool :=
  s.vf && (s.cur.vectorDerr || s.missing .data (vectorAddress s.sr.vab vn))

/-- `Take` of R647, outside Monitor mode: an ordinary trap when DA = 0, a Monitor trap when DA = 1. A vector fetch
answered with DERR faults (D31). -/
def State.takeTrap (s : State) (vn : Byte) (kind : TrapKind) : Out :=
  if s.da then .next (s.monitorTrap vn kind)
  else if s.vectorFails vn then .fault .vectorFetchError
  else .next (s.ordinaryTrap vn kind)

/-- A trap raised by an instruction that was fetched and decoded: EXOP receives the operation code (R682, D30); in
Monitor mode such a trap is ignored, and what the instruction does then is not said (R702 (e), U22). -/
def State.takeInstTrap (s : State) (op : Byte) (vn : Byte) (kind : TrapKind) : Out :=
  if s.mm then .fault .ignoredTrap
  else { s with sr := { s.sr with exop := op.setWidth 32 } }.takeTrap vn kind

/-- A trap of the instruction fetch (R661, R664): in Monitor mode it is another Monitor trap (R702). -/
def State.takeFetchTrap (s : State) (vn : Byte) : Out :=
  if s.mm then .next s.monitorAgain else s.takeTrap vn .curr

/-- R705: the mode of operation at the WARN handler: Halt or Step mode when CNTL is 10 or 01. -/
def warnMode (cntl : BitVec 2) : OpMode :=
  if cntl = 2 then .halted else if cntl = 1 then .stepping else .executing

/-- R705: the WARN trap, never masked, without a vector fetch; it ends Halt and Step mode unless CNTL asks for them. -/
def State.takeWarn (s0 : State) : State :=
  let s := { s0 with warnPending := false, opMode := warnMode s0.cur.cntl }
  if s.mm then s.monitorAgain
  else if s.da then s.monitorTrap 16 .async
  else
    let s1 := (s.saveContext .async).switchStatus
    { s1 with cps := putBit s1.cps 8 true }.goto 16 20 true

/-! ### Returning from an interrupt or trap (48_miscellaneous.md R606) -/

/-- Steps 3, 4, 6 to 9 and 12 of R606: the status and the program counters, from OPS and PC1, PC0, or from Monitor
mode by clearing MM and taking SPC1, SPC0. The access of steps 5 and 10 is restarted elsewhere; that MMU.PS has just
changed stays on record for it (U25, 70_reset_and_hazards.md R782; log entry 58). -/
def State.restoreContext (s : State) (invalidate : Bool) : State :=
  let a := if s.mm then s.sr.spc1 else s.sr.pc1
  let b := if s.mm then s.sr.spc0 else s.sr.pc0
  let c := if s.mm then putBit s.cps 16 false else s.sr.ops &&& 0x0000BFFF
  let s1 := { s with cps := c, btc := if invalidate then s.btc.invalidate else s.btc, lastpcKnown := false }
  { s1.goto (alignWord a) (alignWord b) (alignWord b == alignWord a + 4) with hz := { Hazards.none with ps := s.hz.ps } }

/-! ### Completing an instruction (00_scope.md R8 (5), 10_state.md R37) -/

/-- The bookkeeping of a completed instruction: TE to TP, `lastpc`, the hazard record and the FZ window. -/
def State.retire (s : State) : State :=
  let s1 := s.copyTrace
  { s1 with
    lastpc := s.pc
    lastpcKnown := true
    hz := s.hzNext
    hzNext := Hazards.none
    fzWindow := s.fzWindow - 1 }

/-- R456 (e), R730: CPS after a move to it: TP is set by TE and also when the move wrote 1 to TP itself, so that a Trace
trap follows at once. DESIGN CHOICE (R730 (a) alone would let TE = 0 clear it; log entry 24). After a move that sets TE
the trap comes before the next instruction, as R730 (a) and (b) have it, not after it, as R456 (e) says. DESIGN CHOICE
(log entry 24). -/
def State.movedCps (s : State) : Word := putBit s.cps 12 (s.te || s.tp)

/-- R37: the next instruction is the one at `npc`; after it comes `npc + 4`, or the target of a taken branch. An
interrupt return has set both and does not copy TE (R730). -/
def Done.advance : Done → State
  | .status s =>
    let s1 := s.retire
    { s1 with cps := s.movedCps, pc := s.npc, npc := s.npc + 4, pcSeq := s.npcSeq, npcSeq := true }
  | .seq s =>
    let s1 := s.retire
    { s1 with pc := s.npc, npc := s.npc + 4, pcSeq := s.npcSeq, npcSeq := true }
  | .branch s t =>
    let s1 := s.retire
    { s1 with pc := s.npc, npc := alignWord t, pcSeq := s.npcSeq, npcSeq := false, btc := s.btc.redirect }
  | .returned s => { s with hz := Hazards.none, hzNext := Hazards.none }

/-- The step of an executed instruction with operation code `op`: it completes, traps, or is a model fault. -/
def finish (op : Byte) : Except Stop Done → Out
  | .ok d => .next d.advance
  | .error (.fault f) => .fault f
  | .error (.trap vn kind s) => s.takeInstTrap op vn kind

/-! ### The timer (60_exceptions.md R720) -/

/-- R720: one processor cycle of the Timer Facility. -/
def State.timerTick (s : State) : State :=
  if s.sr.tmc = 0 then
    { s with sr := { s.sr with tmc := fieldOf s.sr.tmr 0 24, tmr := putBit s.sr.tmr 25 true } }
  else
    let t := s.sr.tmc - 1
    { s with sr := { s.sr with
        tmc := t
        tmr := if t = 0 && bitOf s.sr.tmr 25 then putBit s.sr.tmr 26 true else s.sr.tmr } }

/-- A number of cycles of the Timer Facility. -/
def timerTicks : Nat → State → State
  | 0, s => s
  | n + 1, s => timerTicks n s.timerTick

/-! ### Channel registers (10_state.md R48) -/

/-- CHC.CV. -/
def State.cv (s : State) : Bool := bitOf s.sr.chc 0
/-- CHC.NN. -/
def State.nn (s : State) : Bool := bitOf s.sr.chc 1
/-- CHC.TF. -/
def State.tf (s : State) : Bool := bitOf s.sr.chc 10
/-- CHC.ML. -/
def State.ml (s : State) : Bool := bitOf s.sr.chc 14
/-- CHC.CR (10_state.md R69). -/
def State.countRemaining (s : State) : Nat := (fieldOf s.sr.chc 16 8).toNat

end Sys2Proof.Machine
end

