-- ==== Sys2Proof/Machine/Operands.lean ====
section
/-! DEFINITION. Register fields and operands: resolution to absolute-register numbers, the order of the checks made on
them, and their values (10_state.md R24 to R32, 30_encoding.md R236 to R243). -/

namespace Sys2Proof.Machine

/-- Which register field a number stands in; RC is served by the pointer IPC, RA by IPA, RB by IPB (R27). -/
inductive Pos where
  | a
  | b
  | c
deriving DecidableEq, Repr

/-- The 8-bit number an indirect-pointer register holds in bits 9-2 (R64). -/
def pointerOf (w : Word) : Byte := w.extractLsb' 2 8

/-- The indirect-pointer register that holds an absolute-register number (R64). -/
def pointerWord (n : Byte) : Word := n.setWidth 32 <<< 2

/-- The pointer that serves a field position (R27). -/
def State.pointer (s : State) : Pos → Byte
  | .a => pointerOf s.sr.ipa
  | .b => pointerOf s.sr.ipb
  | .c => pointerOf s.sr.ipc

/-- R25: the absolute number of local register `f mod 128`, by the shadow Stack Pointer. -/
def State.localNumber (s : State) (f : Byte) : Byte := 0x80#8 ||| ((f.setWidth 7 + s.spShadow).setWidth 8)

/-- R24: `AbsReg`, the absolute-register number of a register field. -/
def State.absReg (s : State) (p : Pos) (f : Byte) : Byte :=
  if f = 0#8 then s.pointer p
  else if f.getLsbD 7 then s.localNumber f
  else f

/-- R781: the pointer that serves the position was set by the preceding instruction. -/
def State.pointerHazard (s : State) : Pos → Bool
  | .a => s.hz.ipa
  | .b => s.hz.ipb
  | .c => s.hz.ipc

/-- Why a register field cannot be resolved: a pointer just set (U25, R781), an invalid shadow Stack Pointer (U3, R29), or a Stack
Pointer just written (U25, R780). -/
def State.fieldFault (s : State) (p : Pos) (f : Byte) : Option Fault :=
  if f = 0#8 then if s.pointerHazard p then some .hazardPointer else none
  else if f.getLsbD 7 then
    if !s.spValid then some .stackShadowInvalid
    else if s.hz.sp then some .hazardStackPointer
    else none
  else none

/-- How an instruction uses a register field. -/
inductive Use where
  /-- Source of an instruction outside the Floating-Point Unit. -/
  | src
  /-- Source of a Floating-Point Unit instruction (R30 (a)). -/
  | fpuSrc
  /-- Double-precision source: the even register of a pair (R31). -/
  | doubleSrc
  /-- Destination. -/
  | dst (c : WriteClass)
  /-- Double-precision destination (R31). -/
  | doubleDst
  /-- Only the absolute number is used, for an indirect pointer (R28 (b)). -/
  | number
deriving DecidableEq, Repr

/-- A register field an instruction uses. -/
structure RegUse where
  pos : Pos
  field : Byte
  use : Use
deriving DecidableEq, Repr

/-- CPS or FPE: fast-float mode, FPE.FF (R70). -/
def State.fastFloat (s : State) : Bool := bitOf s.sr.fpe 8

/-- Registers 4 to 63 (U1) and a pointer holding 0 (U2). -/
def numberFault (n : Byte) : Option Fault :=
  if n = 0#8 then some .nullPointer
  else if 4 ≤ n.toNat && n.toNat < 64 then some .unimplementedRegister
  else none

/-- R30 (b), (d), (f): the Condition Code Accumulator as a destination. -/
def State.dstFault (s : State) (c : WriteClass) (n : Byte) : Option Fault :=
  match numberFault n with
  | some f => some f
  | none =>
    if n = 2#8 then if c = .aluCca || c = .constant then none else some .ccaRestriction
    else if n = 3#8 then
      if c = .load || (c = .fpu && !s.fastFloat) then some .ccaRestriction else none
    else none

/-- R30 (a), (c): the Condition Code Accumulator as a source. -/
def srcFault (fpu : Bool) (n : Byte) : Option Fault :=
  match numberFault n with
  | some f => some f
  | none => if n = 3#8 || (fpu && n = 2#8) then some .ccaRestriction else none

/-- R31: a double-precision operand is an even register from 64 on. -/
def doubleFault (n : Byte) : Option Fault :=
  match srcFault true n with
  | some f => some f
  | none => if n.getLsbD 0 then some .oddDouble else none

/-- The fault a register use ends in, once its field is resolved. -/
def State.useFault (s : State) (u : RegUse) : Option Fault :=
  match s.fieldFault u.pos u.field with
  | some f => some f
  | none =>
    let n := s.absReg u.pos u.field
    match u.use with
    | .src => srcFault false n
    | .fpuSrc => srcFault true n
    | .doubleSrc => doubleFault n
    | .dst c => s.dstFault c n
    | .doubleDst => doubleFault n
    | .number => none

/-- R30 (e): the Condition Code Accumulator is both source and destination. -/
def State.ccaBoth (s : State) (us : List RegUse) : Bool :=
  us.any (fun u => match u.use with
    | .dst _ => s.absReg u.pos u.field = 2#8 || s.absReg u.pos u.field = 3#8
    | _ => false) &&
  us.any (fun u => match u.use with
    | .src => s.absReg u.pos u.field = 2#8
    | _ => false)

/-- R26: a used register field that resolves to a protected register. -/
def State.useProtected (s : State) (u : RegUse) : Bool :=
  (s.fieldFault u.pos u.field).isNone && s.bankProtected (s.absReg u.pos u.field)

/-- R243 (3), (4): what stops an instruction before its own rule: a Protection Violation, of which `prot` says whether
the instruction has another cause than its register banks, then the model faults of its register fields. -/
def State.regStop (s : State) (prot : Bool) (us : List RegUse) : Option Stop :=
  if prot || us.any s.useProtected then some (.trap 5 .curr s)
  else
    match us.findSome? s.useFault with
    | some f => some (.fault f)
    | none => if s.ccaBoth us then some (.fault .ccaRestriction) else none

/-- An instruction's own rule behind the checks of R243. -/
def State.guarded (s : State) (prot : Bool) (us : List RegUse) (body : Except Stop Done) : Except Stop Done :=
  match s.regStop prot us with
  | some x => .error x
  | none => body

/-- SRCA, or SRCB of an instruction without an M bit (R237). -/
def State.src (s : State) (p : Pos) (f : Byte) : Word := s.getGR (s.absReg p f)

/-- `DReg` (10_state.md R31): the even register is the most-significant word (D7; log entry 21). -/
def State.srcDouble (s : State) (p : Pos) (f : Byte) : DWord :=
  let n := s.absReg p f
  s.getGR n ++ s.getGR (n + 1)

/-- A double-precision result in a register pair (R31). -/
def State.putDouble (s : State) (n : Byte) (v : DWord) : State :=
  (s.putGR .fpu n (v.extractLsb' 32 32)).putGR .fpu (n + 1) (v.extractLsb' 0 32)

/-- SRCB of an instruction with an M bit (R237). -/
def State.opnd (s : State) : Opnd → Word
  | .reg r => s.src .b r
  | .imm i => i.setWidth 32

/-- The register field SRCB uses, if any (R237). -/
def opndUses : Opnd → List RegUse
  | .reg r => [⟨.b, r, .src⟩]
  | .imm _ => []

/-- The register fields of a three-operand instruction (format RRM). -/
def usesRRM (c : WriteClass) (rc ra : Byte) (b : Opnd) : List RegUse :=
  [⟨.a, ra, .src⟩] ++ opndUses b ++ [⟨.c, rc, .dst c⟩]

/-- DEST (R238): the register named by RC. -/
def State.setDest (s : State) (c : WriteClass) (rc : Byte) (v : Word) : State := s.putGR c (s.absReg .c rc) v

/-- The three indirect pointers set from the fields of an instruction (R28 (b)). -/
def State.setPointers (s : State) (rc ra rb : Byte) : State :=
  { s with sr := { s.sr with
      ipc := pointerWord (s.absReg .c rc)
      ipa := pointerWord (s.absReg .a ra)
      ipb := pointerWord (s.absReg .b rb) } }

end Sys2Proof.Machine
end

