-- ==== Sys2Proof/Machine/Flags.lean ====
section
/-! DEFINITION. The ALU Status flags (10_state.md R66, 40_integer_arithmetic.md R301, R302, 42_logical.md R400) and the
add primitive. -/

namespace Sys2Proof.Machine

/-- ALU.C. -/
def State.carry (s : State) : Bool := bitOf s.alu 7
/-- ALU.N. -/
def State.negative (s : State) : Bool := bitOf s.alu 9
/-- ALU.DF. -/
def State.divideFlag (s : State) : Bool := bitOf s.alu 11
/-- ALU.BP. -/
def State.bytePointer (s : State) : Nat := (fieldOf s.alu 5 2).toNat
/-- ALU.FC. -/
def State.funnelCount (s : State) : Nat := (fieldOf s.alu 0 5).toNat

/-- The result of the add primitive: the word, two's-complement overflow and carry-out (R301). -/
structure Sum where
  r : Word
  v : Bool
  cout : Bool
deriving DecidableEq, Repr

/-- R301: `AddCore`. The carries are read off the exact sums. -/
def addCore (a b : Word) (cin : Bool) : Sum :=
  let c := if cin then 1 else 0
  let full := a.toNat + b.toNat + c
  let low := a.toNat % 2 ^ 31 + b.toNat % 2 ^ 31 + c
  let cout := decide (2 ^ 32 ≤ full)
  ⟨BitVec.ofNat 32 full, cout != decide (2 ^ 31 ≤ low), cout⟩

/-- R301: x + y. -/
def addOf (x y : Word) : Sum := addCore x y false

/-- R301: x - y, by the two's-complement. -/
def subOf (x y : Word) : Sum := addCore x (~~~y) true

/-- R301: V, N, Z, C, unless the register is frozen (R302). `w` is the word written to DEST. -/
def State.setVNZC (s : State) (x : Sum) (w : Word) : State :=
  if s.frozen then s
  else { s with alu := putBit (putBit (putBit (putBit s.alu 10 x.v) 9 (bitOf x.r 31)) 8 (w == 0)) 7 x.cout }

/-- R400: N and Z of a logical instruction, unless frozen. -/
def State.setNZ (s : State) (r : Word) : State :=
  if s.frozen then s else { s with alu := putBit (putBit s.alu 9 (bitOf r 31)) 8 (r == 0) }

/-- R305, R333, R334: the Divide Flag, unless frozen (R302). -/
def State.setDF (s : State) (b : Bool) : State :=
  if s.frozen then s else { s with alu := putBit s.alu 11 b }

end Sys2Proof.Machine
end

