-- ==== Sys2Proof/Machine/Arith.lean ====
section
/-! DEFINITION. Integer arithmetic (40_integer_arithmetic.md): add and subtract, the multiply and divide steps, and the
multiply and divide instructions. -/

namespace Sys2Proof.Machine

/-- No Out of Range trap. -/
def neverTraps (_ : Sum) : Bool := false
/-- R303: the forms ending in S trap on two's-complement overflow. -/
def signedOverflow (x : Sum) : Bool := x.v
/-- R303: ADDU and ADDCU trap on a carry. -/
def unsignedOverflow (x : Sum) : Bool := x.cout
/-- R303: SUBU, SUBCU, SUBRU, SUBRCU trap on a borrow. -/
def unsignedUnderflow (x : Sum) : Bool := !x.cout

/-- The state an add or subtract leaves, whether or not it then traps (R301, R303). -/
def State.afterSum (s : State) (c : WriteClass) (rc : Byte) (x : Sum) : State := (s.setDest c rc x.r).setVNZC x x.r

/-- The add and subtract instructions (R300 to R303): DEST and the flags are written, then the Out of Range trap is
taken if `bad` holds of the sum. -/
def addSub (i : Instr) (c : WriteClass) (rc ra : Byte) (b : Opnd) (sum : Word → Word → Sum) (bad : Sum → Bool)
    (s : State) : Out :=
  let x := sum (s.src .a ra) (s.opnd b)
  finish i.opcode (s.guarded false (usesRRM c rc ra b)
    (if bad x then .error (.trap 2 .next (s.afterSum c rc x)) else .ok (.seq (s.afterSum c rc x))))

/-- ADD (R310): DEST <- SRCA + SRCB. -/
def execAdd (rc ra : Byte) (b : Opnd) (s : State) : Out :=
  addSub (.add rc ra b) .aluCca rc ra b addOf neverTraps s

/-- ADDC (R311): DEST <- SRCA + SRCB + C. -/
def execAddc (rc ra : Byte) (b : Opnd) (s : State) : Out :=
  addSub (.addc rc ra b) .alu rc ra b (fun x y => addCore x y s.carry) neverTraps s

/-- ADDCS (R312): DEST <- SRCA + SRCB + C, Out of Range on signed overflow. -/
def execAddcs (rc ra : Byte) (b : Opnd) (s : State) : Out :=
  addSub (.addcs rc ra b) .alu rc ra b (fun x y => addCore x y s.carry) signedOverflow s

/-- ADDCU (R313): DEST <- SRCA + SRCB + C, Out of Range on unsigned overflow. -/
def execAddcu (rc ra : Byte) (b : Opnd) (s : State) : Out :=
  addSub (.addcu rc ra b) .alu rc ra b (fun x y => addCore x y s.carry) unsignedOverflow s

/-- ADDS (R314): DEST <- SRCA + SRCB, Out of Range on signed overflow. -/
def execAdds (rc ra : Byte) (b : Opnd) (s : State) : Out :=
  addSub (.adds rc ra b) .alu rc ra b addOf signedOverflow s

/-- ADDU (R315): DEST <- SRCA + SRCB, Out of Range on unsigned overflow. -/
def execAddu (rc ra : Byte) (b : Opnd) (s : State) : Out :=
  addSub (.addu rc ra b) .alu rc ra b addOf unsignedOverflow s

/-- SUB (R316): DEST <- SRCA - SRCB. -/
def execSub (rc ra : Byte) (b : Opnd) (s : State) : Out :=
  addSub (.sub rc ra b) .aluCca rc ra b subOf neverTraps s

/-- SUBC (R317): DEST <- SRCA - SRCB - 1 + C. -/
def execSubc (rc ra : Byte) (b : Opnd) (s : State) : Out :=
  addSub (.subc rc ra b) .alu rc ra b (fun x y => addCore x (~~~y) s.carry) neverTraps s

/-- SUBCS (R318): DEST <- SRCA - SRCB - 1 + C, Out of Range on signed overflow. -/
def execSubcs (rc ra : Byte) (b : Opnd) (s : State) : Out :=
  addSub (.subcs rc ra b) .alu rc ra b (fun x y => addCore x (~~~y) s.carry) signedOverflow s

/-- SUBCU (R319): DEST <- SRCA - SRCB - 1 + C, Out of Range on unsigned underflow. -/
def execSubcu (rc ra : Byte) (b : Opnd) (s : State) : Out :=
  addSub (.subcu rc ra b) .alu rc ra b (fun x y => addCore x (~~~y) s.carry) unsignedUnderflow s

/-- SUBS (R320): DEST <- SRCA - SRCB, Out of Range on signed overflow. -/
def execSubs (rc ra : Byte) (b : Opnd) (s : State) : Out :=
  addSub (.subs rc ra b) .alu rc ra b subOf signedOverflow s

/-- SUBU (R321): DEST <- SRCA - SRCB, Out of Range on unsigned underflow. -/
def execSubu (rc ra : Byte) (b : Opnd) (s : State) : Out :=
  addSub (.subu rc ra b) .alu rc ra b subOf unsignedUnderflow s

/-- SUBR (R322): DEST <- SRCB - SRCA. -/
def execSubr (rc ra : Byte) (b : Opnd) (s : State) : Out :=
  addSub (.subr rc ra b) .alu rc ra b (fun x y => subOf y x) neverTraps s

/-- SUBRC (R323): DEST <- SRCB - SRCA - 1 + C. -/
def execSubrc (rc ra : Byte) (b : Opnd) (s : State) : Out :=
  addSub (.subrc rc ra b) .alu rc ra b (fun x y => addCore y (~~~x) s.carry) neverTraps s

/-- SUBRCS (R324): DEST <- SRCB - SRCA - 1 + C, Out of Range on signed overflow. -/
def execSubrcs (rc ra : Byte) (b : Opnd) (s : State) : Out :=
  addSub (.subrcs rc ra b) .alu rc ra b (fun x y => addCore y (~~~x) s.carry) signedOverflow s

/-- SUBRCU (R325): DEST <- SRCB - SRCA - 1 + C, Out of Range on unsigned underflow. -/
def execSubrcu (rc ra : Byte) (b : Opnd) (s : State) : Out :=
  addSub (.subrcu rc ra b) .alu rc ra b (fun x y => addCore y (~~~x) s.carry) unsignedUnderflow s

/-- SUBRS (R326): DEST <- SRCB - SRCA, Out of Range on signed overflow. -/
def execSubrs (rc ra : Byte) (b : Opnd) (s : State) : Out :=
  addSub (.subrs rc ra b) .alu rc ra b (fun x y => subOf y x) signedOverflow s

/-- SUBRU (R327): DEST <- SRCB - SRCA, Out of Range on unsigned underflow. -/
def execSubru (rc ra : Byte) (b : Opnd) (s : State) : Out :=
  addSub (.subru rc ra b) .alu rc ra b (fun x y => subOf y x) unsignedUnderflow s

/-- What a multiply or divide step leaves: DEST, Q and the flags V, N, Z, C (R305). `w` is the word written to DEST. -/
def State.afterStep (s : State) (rc : Byte) (x : Sum) (w q : Word) : State :=
  let t := s.setDest .alu rc w
  { t with sr := { t.sr with q := q } }.setVNZC x w

/-- SRCA if bit 0 of Q is 1, else a zero word (R330 to R332). -/
def State.multiplicand (s : State) (ra : Byte) : Word := if bitOf s.sr.q 0 then s.src .a ra else 0

/-- The right shift of a multiply step: `f` fills the vacated bit (R330). -/
def shiftIn (f : Bool) (r : Word) : Word := (boolBit f <<< 31) ||| (r >>> 1)

/-- A multiply step (R330 to R332): the sum and the bit that fills the vacated position. -/
def multiplyStep (i : Instr) (rc ra : Byte) (b : Opnd) (x : Sum) (f : Bool) (s : State) : Out :=
  finish i.opcode (s.guarded false (usesRRM .alu rc ra b)
    (.ok (.seq (s.afterStep rc x (shiftIn f x.r) (shiftIn (bitOf x.r 0) s.sr.q)))))

/-- MUL (R330): add, and shift in the true sign of the sum. -/
def execMul (rc ra : Byte) (b : Opnd) (s : State) : Out :=
  let x := addOf (s.multiplicand ra) (s.opnd b)
  multiplyStep (.mul rc ra b) rc ra b x (bitOf x.r 31 != x.v) s

/-- MULL (R331): subtract, and shift in the true sign of the difference. -/
def execMull (rc ra : Byte) (b : Opnd) (s : State) : Out :=
  let x := subOf (s.opnd b) (s.multiplicand ra)
  multiplyStep (.mull rc ra b) rc ra b x (bitOf x.r 31 != x.v) s

/-- MULU (R332): add, and shift in the carry. -/
def execMulu (rc ra : Byte) (b : Opnd) (s : State) : Out :=
  let x := addOf (s.multiplicand ra) (s.opnd b)
  multiplyStep (.mulu rc ra b) rc ra b x x.cout s

/-- DIV0 (R333): DF is set, N is the sign of SRCB, SRCB // Q is shifted left; V and C are 0 (D21; log entry 46). -/
def execDiv0 (rc : Byte) (b : Opnd) (s : State) : Out :=
  let y := s.opnd b
  let w := (y <<< 1) ||| (s.sr.q >>> 31)
  finish (Instr.div0 rc b).opcode (s.guarded false (opndUses b ++ [⟨.c, rc, .dst .alu⟩])
    (.ok (.seq ((s.afterStep rc ⟨y, false, false⟩ w (s.sr.q <<< 1)).setDF true))))

/-- The add or subtract of a divide step, by the Divide Flag (R334). -/
def State.divideSum (s : State) (ra : Byte) (b : Opnd) : Sum :=
  if s.divideFlag then subOf (s.src .a ra) (s.opnd b) else addOf (s.src .a ra) (s.opnd b)

/-- The new Divide Flag of a divide step (R334). -/
def State.divideBit (s : State) (x : Sum) : Bool := !(x.cout ^^ (s.divideFlag ^^ s.negative))

/-- DIV (R334): one step of a non-restoring division. -/
def execDiv (rc ra : Byte) (b : Opnd) (s : State) : Out :=
  let x := s.divideSum ra b
  let d := s.divideBit x
  let w := (x.r <<< 1) ||| (s.sr.q >>> 31)
  finish (Instr.div rc ra b).opcode (s.guarded false (usesRRM .alu rc ra b)
    (.ok (.seq ((s.afterStep rc x w ((s.sr.q <<< 1) ||| boolBit d)).setDF d))))

/-- DIVL (R335): the last step, whose result is not shifted. -/
def execDivl (rc ra : Byte) (b : Opnd) (s : State) : Out :=
  let x := s.divideSum ra b
  let d := s.divideBit x
  finish (Instr.divl rc ra b).opcode (s.guarded false (usesRRM .alu rc ra b)
    (.ok (.seq ((s.afterStep rc x x.r ((s.sr.q <<< 1) ||| boolBit d)).setDF d))))

/-- DIVREM (R336): the remainder corrected when DF = 0; DF and Q are unchanged (D21 for DF = 1; log entry 46). -/
def execDivrem (rc ra : Byte) (b : Opnd) (s : State) : Out :=
  let x := addOf (s.src .a ra) (if s.divideFlag then 0 else s.opnd b)
  finish (Instr.divrem rc ra b).opcode (s.guarded false (usesRRM .alu rc ra b)
    (.ok (.seq (s.afterSum .alu rc x))))

/-- R304 (d), U13: Q after an instruction of the MULTIPLY class is a free value (log entry 39). -/
def State.loseQ (s : State) : State :=
  { s with sr := { s.sr with q := Config.freeWord s.fresh }, fresh := s.fresh + 1 }

/-- The register uses of the MULTIPLY class (R304 (b)). -/
def usesMultiply (rc ra rb : Byte) : List RegUse := [⟨.a, ra, .fpuSrc⟩, ⟨.b, rb, .fpuSrc⟩, ⟨.c, rc, .dst .fpu⟩]

/-- The MULTIPLY class (R304): a word of the product goes to DEST, or the Out of Range trap is taken with the indirect
pointers set and DEST unchanged. No flag changes. -/
def multiplyClass (i : Instr) (rc ra rb : Byte) (result : Word) (overflow : Bool) (s : State) : Out :=
  finish i.opcode (s.guarded false (usesMultiply rc ra rb)
    (if overflow then .error (.trap 2 .next (s.setPointers rc ra rb).loseQ)
     else .ok (.seq (s.setDest .fpu rc result).loseQ)))

/-- The exact signed product, 64 bits (R340). -/
def signedProduct (x y : Word) : DWord := x.signExtend 64 * y.signExtend 64

/-- The exact unsigned product, 64 bits (R341). -/
def unsignedProduct (x y : Word) : DWord := x.setWidth 64 * y.setWidth 64

/-- INTE.MO (10_state.md R71). -/
def State.multiplyMask (s : State) : Bool := bitOf s.sr.inte 0

/-- MULTIPLY (R340): the low word of the signed product. -/
def execMultiply (rc ra rb : Byte) (s : State) : Out :=
  let p := signedProduct (s.src .a ra) (s.src .b rb)
  let r : Word := p.extractLsb' 0 32
  multiplyClass (.multiply rc ra rb) rc ra rb r (!s.multiplyMask && p != r.signExtend 64) s

/-- MULTIPLU (R341): the low word of the unsigned product. -/
def execMultiplu (rc ra rb : Byte) (s : State) : Out :=
  let p := unsignedProduct (s.src .a ra) (s.src .b rb)
  multiplyClass (.multiplu rc ra rb) rc ra rb (p.extractLsb' 0 32)
    (!s.multiplyMask && p.extractLsb' 32 32 != 0#32) s

/-- MULTM (R342): the high word of the signed product. -/
def execMultm (rc ra rb : Byte) (s : State) : Out :=
  multiplyClass (.multm rc ra rb) rc ra rb ((signedProduct (s.src .a ra) (s.src .b rb)).extractLsb' 32 32) false s

/-- MULTMU (R343): the high word of the unsigned product. -/
def execMultmu (rc ra rb : Byte) (s : State) : Out :=
  multiplyClass (.multmu rc ra rb) rc ra rb ((unsignedProduct (s.src .a ra) (s.src .b rb)).extractLsb' 32 32) false s

/-- The register fields of an instruction left to software: only their absolute numbers are used (R28 (b)). -/
def usesNumbers (rc ra rb : Byte) : List RegUse := [⟨.a, ra, .number⟩, ⟨.b, rb, .number⟩, ⟨.c, rc, .number⟩]

/-- R344, R345, R247: an instruction left to software sets the indirect pointers and traps. -/
def emulated (i : Instr) (vn : Byte) (rc ra rb : Byte) (s : State) : Out :=
  finish i.opcode (s.guarded false (usesNumbers rc ra rb) (.error (.trap vn .next (s.setPointers rc ra rb))))

/-- DIVIDE (R344): the DIVIDE trap, vector 33. -/
def execDivide (rc ra rb : Byte) (s : State) : Out := emulated (.divide rc ra rb) 33 rc ra rb s

/-- DIVIDU (R345): the DIVIDU trap, vector 35. -/
def execDividu (rc ra rb : Byte) (s : State) : Out := emulated (.dividu rc ra rb) 35 rc ra rb s

end Sys2Proof.Machine
end

