-- ==== Sys2Proof/Machine/Compare.lean ====
section
/-! DEFINITION. Compare and assert (41_compare.md). -/

namespace Sys2Proof.Machine

/-- A three-operand instruction whose result goes to DEST and that changes no flag: compares, shifts and the byte and
half-word moves (R360, 43_shift.md R420, 44_data_movement.md). -/
def plainResult (i : Instr) (rc ra : Byte) (b : Opnd) (r : Word) (s : State) : Out :=
  finish i.opcode (s.guarded false (usesRRM .other rc ra b) (.ok (.seq (s.setDest .other rc r))))

/-- R360: a compare writes TRUE or FALSE to DEST. -/
def compareOp (i : Instr) (rc ra : Byte) (b : Opnd) (rel : Word → Word → Bool) (s : State) : Out :=
  plainResult i rc ra b (boolWord (rel (s.src .a ra) (s.opnd b))) s

/-- CPEQ (R362): TRUE iff SRCA = SRCB. -/
def execCpeq (rc ra : Byte) (b : Opnd) (s : State) : Out :=
  compareOp (.cpeq rc ra b) rc ra b (fun x y => x == y) s

/-- CPNEQ (R363): TRUE iff SRCA differs from SRCB. -/
def execCpneq (rc ra : Byte) (b : Opnd) (s : State) : Out :=
  compareOp (.cpneq rc ra b) rc ra b (fun x y => x != y) s

/-- CPLT (R364): TRUE iff SRCA < SRCB, signed. -/
def execCplt (rc ra : Byte) (b : Opnd) (s : State) : Out :=
  compareOp (.cplt rc ra b) rc ra b (fun x y => x.slt y) s

/-- CPLTU (R365): TRUE iff SRCA < SRCB, unsigned. -/
def execCpltu (rc ra : Byte) (b : Opnd) (s : State) : Out :=
  compareOp (.cpltu rc ra b) rc ra b (fun x y => x.ult y) s

/-- CPLE (R366): TRUE iff SRCA <= SRCB, signed. -/
def execCple (rc ra : Byte) (b : Opnd) (s : State) : Out :=
  compareOp (.cple rc ra b) rc ra b (fun x y => x.sle y) s

/-- CPLEU (R367): TRUE iff SRCA <= SRCB, unsigned. -/
def execCpleu (rc ra : Byte) (b : Opnd) (s : State) : Out :=
  compareOp (.cpleu rc ra b) rc ra b (fun x y => x.ule y) s

/-- CPGT (R368): TRUE iff SRCA > SRCB, signed. -/
def execCpgt (rc ra : Byte) (b : Opnd) (s : State) : Out :=
  compareOp (.cpgt rc ra b) rc ra b (fun x y => y.slt x) s

/-- CPGTU (R369): TRUE iff SRCA > SRCB, unsigned. -/
def execCpgtu (rc ra : Byte) (b : Opnd) (s : State) : Out :=
  compareOp (.cpgtu rc ra b) rc ra b (fun x y => y.ult x) s

/-- CPGE (R370): TRUE iff SRCA >= SRCB, signed. -/
def execCpge (rc ra : Byte) (b : Opnd) (s : State) : Out :=
  compareOp (.cpge rc ra b) rc ra b (fun x y => y.sle x) s

/-- CPGEU (R371): TRUE iff SRCA >= SRCB, unsigned. -/
def execCpgeu (rc ra : Byte) (b : Opnd) (s : State) : Out :=
  compareOp (.cpgeu rc ra b) rc ra b (fun x y => y.ule x) s

/-- R372: some byte of `x` equals the byte of `y` in the same position. -/
def anyByteEqual (x y : Word) : Bool :=
  opField x == opField y || cField x == cField y || aField x == aField y || bField x == bField y

/-- CPBYTE (R372). -/
def execCpbyte (rc ra : Byte) (b : Opnd) (s : State) : Out := compareOp (.cpbyte rc ra b) rc ra b anyByteEqual s

/-- R361: an assert instruction traps to VN, or in User mode with VN below 64 with a Protection Violation, when its
relation does not hold. -/
def assertOp (i : Instr) (vn ra : Byte) (b : Opnd) (rel : Word → Word → Bool) (s : State) : Out :=
  finish i.opcode (s.guarded false ([⟨.a, ra, .src⟩] ++ opndUses b)
    (if rel (s.src .a ra) (s.opnd b) then .ok (.seq s)
     else if s.user && decide (vn.toNat < 64) then .error (.trap 5 .curr s)
     else .error (.trap vn .next s)))

/-- ASEQ (R380): asserts SRCA = SRCB. -/
def execAseq (vn ra : Byte) (b : Opnd) (s : State) : Out :=
  assertOp (.aseq vn ra b) vn ra b (fun x y => x == y) s

/-- ASNEQ (R381): asserts SRCA differs from SRCB. -/
def execAsneq (vn ra : Byte) (b : Opnd) (s : State) : Out :=
  assertOp (.asneq vn ra b) vn ra b (fun x y => x != y) s

/-- ASLT (R382): asserts SRCA < SRCB, signed. -/
def execAslt (vn ra : Byte) (b : Opnd) (s : State) : Out :=
  assertOp (.aslt vn ra b) vn ra b (fun x y => x.slt y) s

/-- ASLTU (R383): asserts SRCA < SRCB, unsigned. -/
def execAsltu (vn ra : Byte) (b : Opnd) (s : State) : Out :=
  assertOp (.asltu vn ra b) vn ra b (fun x y => x.ult y) s

/-- ASLE (R384): asserts SRCA <= SRCB, signed. -/
def execAsle (vn ra : Byte) (b : Opnd) (s : State) : Out :=
  assertOp (.asle vn ra b) vn ra b (fun x y => x.sle y) s

/-- ASLEU (R385): asserts SRCA <= SRCB, unsigned. -/
def execAsleu (vn ra : Byte) (b : Opnd) (s : State) : Out :=
  assertOp (.asleu vn ra b) vn ra b (fun x y => x.ule y) s

/-- ASGT (R386): asserts SRCA > SRCB, signed. -/
def execAsgt (vn ra : Byte) (b : Opnd) (s : State) : Out :=
  assertOp (.asgt vn ra b) vn ra b (fun x y => y.slt x) s

/-- ASGTU (R387): asserts SRCA > SRCB, unsigned. -/
def execAsgtu (vn ra : Byte) (b : Opnd) (s : State) : Out :=
  assertOp (.asgtu vn ra b) vn ra b (fun x y => y.ult x) s

/-- ASGE (R388): asserts SRCA >= SRCB, signed. -/
def execAsge (vn ra : Byte) (b : Opnd) (s : State) : Out :=
  assertOp (.asge vn ra b) vn ra b (fun x y => y.sle x) s

/-- ASGEU (R389): asserts SRCA >= SRCB, unsigned. -/
def execAsgeu (vn ra : Byte) (b : Opnd) (s : State) : Out :=
  assertOp (.asgeu vn ra b) vn ra b (fun x y => y.ule x) s

end Sys2Proof.Machine
end

