-- ==== Sys2Proof/Machine/Mmu.lean ====
section
/-! DEFINITION. Address translation and protection: the two Region Mapping Units and the TLB
(20_memory.md R175 to R184, 10_state.md R55 to R59, R80 to R83). -/

namespace Sys2Proof.Machine

/-- What an access wants to do (R180). -/
inductive AccessKind where
  | load
  | store
  | loadset
  | fetch
deriving DecidableEq, Repr

/-- The result of a translation. -/
inductive Translated where
  /-- Valid and allowed: the physical address, and whether it is in the input/output space. -/
  | ok (paddr : Word) (io : Bool) (s : State)
  /-- No valid translation; LRU is written (R181). -/
  | miss (s : State)
  /-- Valid, but the protection bits forbid the access (R180). -/
  | violation (s : State)
  /-- A model fault. -/
  | fault (f : Fault)
deriving DecidableEq, Repr

/-- MMU.PS (10_state.md R55). -/
def State.pageSize (s : State) : Nat := (fieldOf s.sr.mmu 8 2).toNat
/-- MMU.PID. -/
def State.pid (s : State) : Word := fieldOf s.sr.mmu 0 8

/-- R176, R177: the process number a TID is compared with. -/
def State.processNumber (s : State) (user : Bool) : Word := if user then s.pid else 0

/-- R180: the protection bits SR SW SE UR UW UE, bits 13 to 8 of a TLB Word 0 or an RMC register, allow the access. -/
def allowed (w : Word) (user : Bool) (k : AccessKind) : Bool :=
  let d := if user then 3 else 0
  match k with
  | .load => bitOf w (13 - d)
  | .store => bitOf w (12 - d)
  | .loadset => bitOf w (13 - d) && bitOf w (12 - d)
  | .fetch => bitOf w (11 - d)

/-- The low `n` bits of an address below the high bits of another word. -/
def splice (hi : Word) (lo : Word) (n : Nat) : Word :=
  let m := BitVec.ofNat 32 (2 ^ n - 1)
  (hi &&& ~~~m) ||| (lo &&& m)

/-- RMC.RGS (10_state.md R59). -/
def regionSize (rmc : Word) : Nat := (fieldOf rmc 17 4).toNat

/-- R177: the translation by a Region Mapping Unit is valid. -/
def regionValid (rma rmc vaddr pn : Word) : Bool :=
  let n := 16 + regionSize rmc
  bitOf rmc 14 && vaddr >>> n == rma >>> n && fieldOf rmc 0 8 == pn

/-- U7: the unit has unused bits of VBA or PBA that are not 0 (10_state.md R58). Where R58 speaks of a translation that
uses the unit and U7 of one that consults it, an enabled unit (RMC.VE = 1) faults for every address that comes to it,
whether it matches or not, and one with VE = 0, which R177 never finds valid, for none. DESIGN CHOICE (log entry 60). -/
def regionUnused (rma rmc : Word) : Bool :=
  let g := regionSize rmc
  bitOf rmc 14 && (fieldOf rma 0 g != 0 || fieldOf rma 16 g != 0)

/-- R177: the physical address of a valid region translation. -/
def regionAddress (rma rmc vaddr : Word) : Word := splice (rma <<< 16) vaddr (16 + regionSize rmc)

/-- R178: the TLB line of an address. -/
def tlbLine (p : Nat) (vaddr : Word) : Nat := (fieldOf vaddr (10 + p) 5).toNat

/-- The TLB register a number names, without the Usage bit. -/
def State.tlbWord (s : State) (n : Nat) : Word := s.tlb.getD n 0

/-- R178: an entry (Word 0) is valid for the access. -/
def entryValid (p : Nat) (w0 vaddr pn : Word) : Bool :=
  bitOf w0 14 && vaddr >>> (15 + p) == w0 >>> (15 + p) && fieldOf w0 0 8 == pn

/-- R181: LRU after a TLB miss. -/
def State.missLru (s : State) (line : Nat) : State :=
  let u := s.tlbUsage.getD line false
  { s with sr := { s.sr with lru := (boolBit u <<< 6) ||| (BitVec.ofNat 32 line <<< 1) } }

/-- 10_state.md R56: LRU after a protection violation has no interpretation: a free value (log entry 38). -/
def State.violationLru (s : State) : State :=
  { s with sr := { s.sr with lru := Config.freeWord s.fresh &&& 0x7E }, fresh := s.fresh + 1 }

/-- Protection after a valid translation (R180). -/
def State.protect (s : State) (w : Word) (user : Bool) (k : AccessKind) (paddr : Word) (io : Bool) : Translated :=
  if allowed w user k then .ok paddr io s else .violation s.violationLru

/-- R178, R181: a hit in set 0 or set 1 of a line writes the Usage bit. -/
def State.useSet (s : State) (line : Nat) (set1 : Bool) : State :=
  { s with tlbUsage := s.tlbUsage.setIfInBounds line (!set1) }

/-- R178: translation by the TLB. -/
def State.tlbTranslate (s : State) (vaddr : Word) (user : Bool) (k : AccessKind) : Translated :=
  let p := s.pageSize
  let line := tlbLine p vaddr
  let pn := s.processNumber user
  let v0 := entryValid p (s.tlbWord (2 * line)) vaddr pn
  let v1 := entryValid p (s.tlbWord (64 + 2 * line)) vaddr pn
  if v0 && v1 then .fault .tlbDoubleMatch
  else if v0 || v1 then
    let n := if v1 then 64 + 2 * line else 2 * line
    let w1 := s.tlbWord (n + 1)
    (s.useSet line v1).protect (s.tlbWord n) user k (splice w1 vaddr (10 + p)) (bitOf w1 0)
  else .miss (s.missLru line)

/-- R177, R178: RMU0, then RMU1, then the TLB. -/
def State.translate (s : State) (vaddr : Word) (user : Bool) (k : AccessKind) : Translated :=
  let pn := s.processNumber user
  if regionUnused s.sr.rma0 s.sr.rmc0 then .fault .regionUnusedBits
  else if regionValid s.sr.rma0 s.sr.rmc0 vaddr pn then
    s.protect s.sr.rmc0 user k (regionAddress s.sr.rma0 s.sr.rmc0 vaddr) (bitOf s.sr.rmc0 16)
  else if regionUnused s.sr.rma1 s.sr.rmc1 then .fault .regionUnusedBits
  else if regionValid s.sr.rma1 s.sr.rmc1 vaddr pn then
    s.protect s.sr.rmc1 user k (regionAddress s.sr.rma1 s.sr.rmc1 vaddr) (bitOf s.sr.rmc1 16)
  else s.tlbTranslate vaddr user k

/-- The bits of a TLB register that software writes: Word 0 all, Word 1 without the reserved bits and the Usage bit
(10_state.md R81, R82). -/
def tlbMask (n : Nat) : Word := if n % 2 = 0 then 0xFFFFFFFF else 0xFFFFFCC1

/-- R453: MFTLB reads a TLB register; Word 1 shows the line's Usage bit (R82, D10; log entry 28). -/
def State.readTlb (s : State) (n : Nat) : Word :=
  if n % 2 = 0 then s.tlbWord n else putBit (s.tlbWord n) 1 (s.tlbUsage.getD (n % 64 / 2) false)

/-- R454: MTTLB writes a TLB register; Word 1 writes the line's Usage bit (R82, D10; log entry 28). -/
def State.writeTlb (s : State) (n : Nat) (v : Word) : State :=
  let t := { s with tlb := s.tlb.setIfInBounds n (v &&& tlbMask n) }
  if n % 2 = 0 then t else { t with tlbUsage := t.tlbUsage.setIfInBounds (n % 64 / 2) (bitOf v 1) }

end Sys2Proof.Machine
end

