-- ==== Sys2Proof/Machine/Fetch.lean ====
section
/-! DEFINITION. Fetching an instruction: the space, the translation, the Branch Target Cache and the prefetched words
(20_memory.md R153, R175, R200, R220 to R222, 10_state.md R132, R133), and the breakpoint comparison
(60_exceptions.md R731). -/

namespace Sys2Proof.Machine

/-- RE as instruction fetches see it: the value before the earliest change that has not taken effect (D16; log entry
11). -/
def State.fetchRE (s : State) : Bool := match s.oldFetch.getLast? with | some o => o.re | none => s.eRE
/-- PI as instruction fetches see it. -/
def State.fetchPI (s : State) : Bool := match s.oldFetch.getLast? with | some o => o.pi | none => s.ePI
/-- SM as instruction fetches see it. -/
def State.fetchSM (s : State) : Bool := match s.oldFetch.getLast? with | some o => o.sm | none => s.eSM

/-- D16: the changes that have not taken effect after one more fetch, the latest first. One that takes effect ends the
delay of those before it. -/
def agedFetch (os : List OldFetch) : List OldFetch :=
  (os.takeWhile fun o => decide (1 < o.left)).map fun o => { o with left := o.left - 1 }

/-- D16: one more instruction fetched under the old RE, PI, SM. -/
def State.ageOldFetch (s : State) : State := { s with oldFetch := agedFetch s.oldFetch }

/-- The memory that instruction fetches to instruction/data memory read (20_memory.md R150; log entry 47). -/
def State.fetchMemory (s : State) : Memory := s.imem.getD s.idmem

/-- Where the instruction at `pc` is, or why it cannot be fetched (R200). -/
inductive FetchPlace where
  | at (sp : FetchSpace) (paddr : Word) (s : State)
  | trap (vn : Byte) (s : State)
  | fault (f : Fault)
deriving DecidableEq, Repr

/-- R153, R175, R200: the place of the instruction at an address; traps 8 or 10 (miss) and 12 (violation). -/
def State.placeOf (s : State) (a : Word) : FetchPlace :=
  if s.fetchRE then .at .irom a s
  else if s.fetchPI then .at .idmem a s
  else
    match s.translate a (!s.fetchSM) .fetch with
    | .ok p io t => .at (if io then .io else .idmem) p t
    | .miss t => .trap (if s.fetchSM then 10 else 8) t
    | .violation t => .trap 12 t
    | .fault f => .fault f

/-- The place of the instruction at `pc`: the one that an interrupt return has found (48_miscellaneous.md R606), else that
of the address now. -/
def State.fetchPlace (s : State) : FetchPlace :=
  match s.early with
  | [] => s.placeOf s.pc
  | .found sp p _ :: _ => .at sp p s
  | .trap vn lru :: _ => .trap vn { s with sr := { s.sr with lru := lru.setWidth 32 <<< 1 } }
  | .fault f :: _ => .fault f

/-! ### The fetches of an interrupt return (48_miscellaneous.md R606, steps 6 and 8) -/

/-- One of them: the translation writes the Usage bit now; a trap or a model fault waits until the instruction is to
execute (R606 (d), 10_state.md R132), and the LRU of its miss with it. DESIGN CHOICE (log entry 59). -/
def State.fetchEarly (s : State) (a : Word) : EarlyFetch × State :=
  match s.placeOf a with
  | .at sp p t => (.found sp p (readWord s.fetchMemory p), { s with tlbUsage := t.tlbUsage })
  | .trap vn t => (.trap vn (t.sr.lru.extractLsb' 1 6), { s with tlbUsage := t.tlbUsage, fresh := t.fresh })
  | .fault f => (.fault f, s)

/-- Both, in this order, at the two addresses returned to. -/
def State.fetchReturned (s : State) : State :=
  let x := s.fetchEarly s.pc
  let y := x.2.fetchEarly s.npc
  { y.2 with early := [x.1, y.1] }

/-! ### The Branch Target Cache (10_state.md R133; log entry 10) -/

/-- CFG.CO: 128 frames of two words instead of 64 of four. -/
def State.co (s : State) : Bool := bitOf s.sr.cfg 6

/-- The frame of an address in set 0 or 1. DEDUCED: the line is given by the address bits above the block. -/
def btcFrame (co : Bool) (a : Word) (set1 : Bool) : Fin 128 :=
  let line := if co then (fieldOf a 3 6).toNat else (fieldOf a 4 5).toNat
  let n := if co then 64 else 32
  Fin.ofNat 128 (line + if set1 then n else 0)

/-- The word within its block. -/
def btcIndex (co : Bool) (a : Word) : Nat := if co then (fieldOf a 2 1).toNat else (fieldOf a 2 2).toNat

/-- The Space ID of a fetch: RE, PI, SM. -/
def State.spaceId (s : State) : BitVec 3 :=
  BitVec.ofBool s.fetchRE ++ BitVec.ofBool s.fetchPI ++ BitVec.ofBool s.fetchSM

/-- Address bits 31-6. -/
def btcTag (a : Word) : BitVec 26 := a.extractLsb' 6 26

/-- The frame holds the block of an address. One opened under the other organization holds none: CFG.CO is a matter of
performance only (10_state.md R42), so that a hit must give words of the same address (log entry 10). -/
def State.btcMatches (s : State) (f : Fin 128) : Bool :=
  s.btc.blocks[f].co == s.co && s.btc.blocks[f].tag == btcTag s.pc && s.btc.blocks[f].space == s.spaceId

/-- The frame whose tag matches, if any. -/
def State.btcLookup (s : State) : Option (Fin 128) :=
  let f0 := btcFrame s.co s.pc false
  let f1 := btcFrame s.co s.pc true
  if s.btcMatches f0 then some f0 else if s.btcMatches f1 then some f1 else none

/-- The frame a non-sequential fetch uses: the matching one, or one of the two of the line, emptied; which one is a
free choice (R133, `BTC_REPLACEMENT`). CFG.CD is sampled for the next non-sequential fetch. A matching frame without a
valid word for the address, a miss by R133, is used again and keeps its other words. DESIGN CHOICE (log entry 54). -/
def State.btcOpen (s : State) : State :=
  let cd := bitOf s.sr.cfg 0
  match s.btcLookup with
  | some f => { s with btc := { s.btc with stream := some (f, !s.btc.disabled), disabled := cd } }
  | none =>
    let f := btcFrame s.co s.pc (Config.freeChoice s.fresh % 2 == 1)
    { s with
      btc := { s.btc with
        blocks := s.btc.blocks.set f ⟨s.co, btcTag s.pc, s.spaceId, Vector.replicate 4 none⟩
        stream := some (f, !s.btc.disabled)
        disabled := cd }
      fresh := s.fresh + 1 }

/-- The cache before the fetch at `pc`: a non-sequential fetch opens a frame, a sequential one that enters a new block
leaves the cache. -/
def State.btcStart (s : State) : State :=
  if !s.pcSeq then s.btcOpen
  else
    match s.btc.stream with
    | some (f, _) =>
      if btcIndex s.btc.blocks[f].co s.pc = 0 then { s with btc := { s.btc with stream := none } } else s
    | none => s

/-- The word the cache supplies for `pc`, if it does: the one in the open frame, but none while an INV is pending
(48_miscellaneous.md R603). The Space ID is not compared again within a frame: words fetched sequentially after a move to
CPS changed RE, PI or SM are supplied from the frame opened before, and fill it. DESIGN CHOICE (log entry 50). -/
def State.btcWord (s : State) : Option Word :=
  if s.btc.pendingInv then none
  else
    match s.btc.stream with
    | some (f, true) => s.btc.blocks[f].words.toList.getD (btcIndex s.btc.blocks[f].co s.pc) none
    | _ => none

/-- The space of the platform's memory map that a fetch goes to (20_memory.md R150, R153). -/
def FetchSpace.map : FetchSpace → MapSpace
  | .idmem => .instr
  | .irom => .irom
  | .io => .io

/-- The number of words in a block. -/
def blockWords (co : Bool) : Nat := if co then 2 else 4

/-! ### Prefetched words (10_state.md R132, 20_memory.md R222; log entry 10) -/

/-- The words of the Instruction Prefetch Buffer that the fetch at `pc` finds there: a non-sequential fetch discards them
(R222), but not those that the two fetches of an interrupt return, made before a resumed sequence of stores, may have
filled the Branch Target Cache with (48_miscellaneous.md R606). -/
def State.buffered (s : State) : List Prefetched := s.prefetched.filter fun p => s.pcSeq || decide (4 < p.left)

/-- The old words that the fetch of the word at an address may still find. -/
def State.stale (s : State) (addr : Nat) : List Word := (s.buffered.filter fun p => p.addr == addr).map (·.old)

/-- A word of instruction/data memory as a fetch finds it: the memory's, or an old one, by the free choice `c`. -/
def State.foundWord (s : State) (c : Nat) (paddr : Word) : Word :=
  let old := s.stale (wordBase paddr)
  old.getD (c % (old.length + 1)) (readWord s.fetchMemory paddr)

/-- Word `k` of a block as a prefetch from an instruction address finds it: of instruction/data memory perhaps an old
one, of input/output a free value of its own (log entry 10). -/
def State.prefetchWord (s : State) (sp : FetchSpace) (paddr : Word) (k : Nat) : Word :=
  match sp with
  | .irom => readWord s.irom paddr
  | .idmem => s.foundWord (Config.freeChoice (s.fresh + 1 + k)) paddr
  | .io => Config.freeWord (s.fresh + k)

/-- Word `k` of a frame when word `i`, `w`, has been fetched from `paddr` (20_memory.md R222 (a), D17: the fill is
nondeterministic): word `i`, and each later word of the block that exists, which may have been prefetched, is made valid
by a bit of the free choice `c`. -/
def State.filledWord (s : State) (co : Bool) (c i : Nat) (w : Word) (sp : FetchSpace) (paddr : Word)
    (old : Option Word) (k : Nat) : Option Word :=
  let a := paddr + BitVec.ofNat 32 (4 * (k - i))
  if c.testBit k then
    if k = i then some w
    else if i < k && decide (k < blockWords co) && !s.missing sp.map a then some (s.prefetchWord sp a k)
    else old
  else old

/-- A word fetched from memory fills the open frame (R222 (a); the Space ID: log entry 50). -/
def State.btcFill (s : State) (sp : FetchSpace) (paddr w : Word) : State :=
  match s.btc.stream with
  | some (f, _) =>
    let b := s.btc.blocks[f]
    let ws := Vector.ofFn fun k : Fin 4 =>
      s.filledWord b.co (Config.freeChoice s.fresh) (btcIndex b.co s.pc) w sp paddr b.words[k] k
    { s with btc := { s.btc with blocks := s.btc.blocks.set f { b with words := ws } }, fresh := s.fresh + 5 }
  | none => s

/-- The prefetched words, and the instructions fetched early, after a fetch. -/
def State.agePrefetched (s : State) : State :=
  { s with
    prefetched := (s.buffered.map fun p => { p with left := p.left - 1 }).filter fun p => p.left != 0
    early := s.early.tail }

/-- The word a fetch from instruction/data memory delivers: the memory's, or an old one by a free choice; for an
instruction that an interrupt return has fetched early, the one of then (48_miscellaneous.md R606). -/
def State.memoryFetch (s : State) (paddr : Word) : Word × State :=
  match s.early with
  | .found _ _ w :: _ => (w, s)
  | _ =>
    if (s.stale (wordBase paddr)).isEmpty then (readWord s.fetchMemory paddr, s)
    else (s.foundWord (Config.freeChoice s.fresh) paddr, { s with fresh := s.fresh + 1 })

/-- The word an external instruction access delivers (R200). -/
def State.externalFetch (s : State) (sp : FetchSpace) (paddr : Word) : Word × State :=
  match sp with
  | .irom => (readWord s.irom paddr, s)
  | .idmem => s.memoryFetch paddr
  | .io => s.drawWord

/-- How a fetch ends. -/
inductive Fetched where
  | ok (w : Word) (s : State)
  | trap (vn : Byte) (s : State)
  | fault (f : Fault)
deriving DecidableEq, Repr

/-- The fetch once the place of the instruction is known: from the cache, or by an external access, which IERR may
answer (R661), and does at an address that does not exist (log entry 47). An access answered with IERR is a fetch for
the sampling of CFG.CD too (10_state.md R133). -/
def State.fetchAt (s : State) (sp : FetchSpace) (paddr : Word) : Fetched :=
  let t := s.btcStart
  match t.btcWord with
  | some w => .ok w t.agePrefetched.ageOldFetch
  | none =>
    if s.cur.ierr || s.missing sp.map paddr then .trap 6 t
    else
      let r := t.externalFetch sp paddr
      .ok r.1 (r.2.btcFill sp paddr r.1).agePrefetched.ageOldFetch

/-- R200: the fetch of the instruction at `pc`. -/
def State.fetch (s : State) : Fetched :=
  match s.fetchPlace with
  | .at sp p t => t.fetchAt sp p
  | .trap vn t => .trap vn t
  | .fault f => .fault f

/-! ### Instruction breakpoints (60_exceptions.md R731) -/

/-- R731: the address and mode conditions of one breakpoint unit hold for the instruction at `pc`. -/
def State.encounter (s : State) (iba ibc : Word) : Bool :=
  iba >>> 2 == s.pc >>> 2
    && bitOf ibc 11
    && bitOf ibc 9 == bitOf s.cps 8
    && bitOf ibc 8 == !(bitOf s.cps 5)
    && (bitOf s.cps 5 || fieldOf ibc 0 8 == (if s.user then s.pid else 0))

/-- The control register of a unit after the comparison, and whether it breaks. -/
def breakUnit (met : Bool) (ibc : Word) : Word × Bool :=
  if !met then (ibc, false)
  else if bitOf ibc 12 then (putBit ibc 12 false, false)
  else if bitOf ibc 10 then (putBit ibc 12 true, true)
  else (ibc, false)

/-- R731: both comparisons, outside Monitor mode. -/
def State.breakpoints (s : State) : Bool × State :=
  if s.mm then (false, s)
  else
    let u0 := breakUnit (s.encounter s.sr.iba0 s.sr.ibc0) s.sr.ibc0
    let u1 := breakUnit (s.encounter s.sr.iba1 s.sr.ibc1) s.sr.ibc1
    (u0.2 || u1.2, { s with sr := { s.sr with ibc0 := u0.1, ibc1 := u1.1 } })

end Sys2Proof.Machine
end

