-- ==== Sys2Proof/Machine/Access.lean ====
section
/-! DEFINITION. One data access and the load-multiple and store-multiple sequence, as the load and store instructions
and the interrupt return make them (20_memory.md R150 to R171, R190, 44_data_movement.md R430 to R439,
60_exceptions.md R660, R690, R691). -/

namespace Sys2Proof.Machine

/-- A transfer: the CE//CNTL byte, the direction, LOADSET and lock, the data register, the address, the store data. -/
structure Xfer where
  ctl : Byte
  load : Bool
  set : Bool
  lock : Bool
  reg : Byte
  addr : Word
  data : Word
deriving DecidableEq, Repr

/-- CE, bit 23 of the instruction (R430). -/
def ctlCE (c : Byte) : Bool := c.getLsbD 7
/-- AS, bit 22. -/
def ctlAS (c : Byte) : Bool := c.getLsbD 6
/-- PA, bit 21; SA of a coprocessor transfer (R439). -/
def ctlPA (c : Byte) : Bool := c.getLsbD 5
/-- SB, bit 20. -/
def ctlSB (c : Byte) : Bool := c.getLsbD 4
/-- UA, bit 19. -/
def ctlUA (c : Byte) : Bool := c.getLsbD 3
/-- OPT, bits 18-16 (20_memory.md R156). -/
def ctlOPT (c : Byte) : Nat := (c.extractLsb' 0 3).toNat

/-- CFG.DW (10_state.md R42). -/
def State.dw (s : State) : Bool := bitOf s.sr.cfg 5
/-- CFG.BO. -/
def State.bo (s : State) : Bool := bitOf s.sr.cfg 2
/-- CFG.CP. -/
def State.cp (s : State) : Bool := bitOf s.sr.cfg 1

/-- R160: the byte lane a 2-bit selector names. -/
def State.byteLane (s : State) (x : Nat) : Nat := if s.bo then x else 3 - x
/-- R161: the half-word lane a 1-bit selector names. -/
def State.halfLane (s : State) (x : Nat) : Nat := if s.bo then x else 1 - x

/-- Address bits 1-0. -/
def addrByte (a : Word) : Nat := (fieldOf a 0 2).toNat
/-- Address bit 1. -/
def addrHalf (a : Word) : Nat := (fieldOf a 1 1).toNat

/-- Byte lane `k` of a word. -/
def laneByte (w : Word) (k : Nat) : Byte := w.extractLsb' (8 * k) 8
/-- Half-word lane `k` of a word. -/
def laneHalf (w : Word) (k : Nat) : BitVec 16 := w.extractLsb' (16 * k) 16

/-- R152, R156: the physical spaces of data accesses. -/
inductive Space where
  /-- Instruction/data memory. -/
  | idmem
  /-- Instruction ROM, reached with OPT = 100 (log entry 9). -/
  | irom
  /-- Input/output. -/
  | io
  /-- A coprocessor transfer. -/
  | cop
deriving DecidableEq, Repr

/-- R156: OPT = 100 with AS = 0 is an instruction ROM access (log entry 9). -/
def memSpace (c : Byte) : Space := if ctlOPT c = 4 then .irom else .idmem

/-- R175: a data access is translated. -/
def State.dataTranslated (s : State) (c : Byte) : Bool := !s.ePD && !ctlPA c

/-- R176: the program mode of a data access is User. -/
def State.dataUser (s : State) (c : Byte) : Bool := s.user || ctlUA c

/-- R162: an access to instruction/data memory is unaligned and TU is 1. -/
def State.unaligned (s : State) (c : Byte) (a : Word) : Bool :=
  s.tu && ((ctlOPT c = 0 && addrByte a != 0) || (ctlOPT c = 2 && bitOf a 0))

/-- The space of the platform's memory map that a data access goes to (R150, R152). -/
def Space.map : Space → MapSpace
  | .idmem => .data
  | .irom => .irom
  | .io => .io
  | .cop => .cop

/-- Where an access goes, or why it is not performed (R170 (4), (5)). -/
inductive Located where
  | found (sp : Space) (paddr : Word) (s : State)
  /-- It goes to an address that does not exist: the platform answers DERR (log entry 47). -/
  | absent (s : State)
  | trap (vn : Byte) (s : State)
  | fault (f : Fault)
deriving DecidableEq, Repr

/-- R180: the kind of access a transfer is. -/
def Xfer.kind (x : Xfer) : AccessKind := if x.set then .loadset else if x.load then .load else .store

/-- The place of an access in the platform's memory map (R6, R150; log entry 47). -/
def State.place (s : State) (sp : Space) (p : Word) : Located :=
  if s.missing sp.map p then .absent s else .found sp p s

/-- R170 (4), (5): translation, then alignment on the translated space (D11; log entry 45). The miss vector follows the program mode
(D13). -/
def State.locate (s : State) (x : Xfer) : Located :=
  if ctlCE x.ctl then s.place .cop x.addr
  else if s.dataTranslated x.ctl then
    if s.hz.ps then .fault .hazardPageSize
    else
      match s.translate x.addr (s.dataUser x.ctl) x.kind with
      | .ok p io t =>
        if io then t.place .io p
        else if t.unaligned x.ctl x.addr then .trap 1 t
        else t.place (memSpace x.ctl) p
      | .miss t => .trap (if s.user then 9 else 11) t
      | .violation t => .trap 13 t
      | .fault f => .fault f
  else if ctlAS x.ctl then s.place .io x.addr
  else if s.unaligned x.ctl x.addr then .trap 1 s
  else s.place (memSpace x.ctl) x.addr

/-- R166: what a load writes to its register, from the word the memory returns. -/
def State.loadValue (s : State) (c : Byte) (addr w : Word) : Word :=
  if ctlCE c then w
  else if s.dw && ctlOPT c = 1 then
    let b := laneByte w (s.byteLane (addrByte addr))
    if ctlSB c then b.signExtend 32 else b.setWidth 32
  else if s.dw && ctlOPT c = 2 then
    let h := laneHalf w (s.halfLane (addrHalf addr))
    if ctlSB c then h.signExtend 32 else h.setWidth 32
  else w

/-- R167, D12: what a plain memory holds after a store (log entry 7). -/
def State.storeMemory (s : State) (m : Memory) (c : Byte) (paddr v : Word) : Memory :=
  if s.dw && ctlOPT c = 1 then writeLane m paddr (s.byteLane (addrByte paddr)) (lowByte v)
  else if s.dw && ctlOPT c = 2 then writeHalf m paddr (s.halfLane (addrHalf paddr)) (v.extractLsb' 0 16)
  else writeWord m paddr v

/-- R151: the word a read returns; input/output and coprocessor answers are free values (log entry 8). -/
def State.readSpace (s : State) (sp : Space) (paddr : Word) : Word × State :=
  match sp with
  | .idmem => (readWord s.idmem paddr, s)
  | .irom => (readWord s.irom paddr, s)
  | .io => s.drawWord
  | .cop => s.drawWord

/-- R132, R222: a store to instruction/data memory that changes a word may leave its old value in the Instruction
Prefetch Buffer for the next four fetches (log entry 10), if instructions are fetched from the same storage. -/
def State.overtake (s : State) (paddr : Word) (m : Memory) : State :=
  let old := readWord s.idmem paddr
  if readWord m paddr = old || s.imem.isSome then { s with idmem := m }
  else { s with idmem := m, prefetched := ⟨wordBase paddr, old, 4⟩ :: s.prefetched }

/-- R167: a store; the ROM and the devices keep no contents here (log entries 8 and 9). -/
def State.writeSpace (s : State) (sp : Space) (c : Byte) (paddr v : Word) : State :=
  match sp with
  | .idmem => s.overtake paddr (s.storeMemory s.idmem c paddr v)
  | .irom => s
  | .io => s
  | .cop => s

/-- R660: the platform answers the next data access with DERR. -/
def State.derrNext (s : State) : Bool := s.cur.derr == some s.accesses

/-- One more data access made in this step. -/
def State.bumpAccess (s : State) : State := { s with accesses := s.accesses + 1 }

/-- R660 (b), (c): a DERR answer sets the event, and CHC.TF unless the channel registers are frozen. How many more
instructions execute before its trap is a free choice up to `DERR_TRAP_DELAY_MAX` (R690, D15; log entry 16). A LOADSET
counts as a load whichever half is answered so: an instruction that then writes its register sets CHC.NN. DESIGN CHOICE
(44_data_movement.md R433; log entry 55). -/
def State.derrReply (s : State) (x : Xfer) : State :=
  let t := { s with
    derrEvent := some (if ctlCE x.ctl then 4 else 7)
    derrLeft := Config.freeChoice s.fresh % (Config.derrTrapDelayMax + 1)
    derrLoad := if x.load then some x.reg else none
    fresh := s.fresh + 1 }
  if s.frozen then t else { t with sr := { t.sr with chc := putBit t.sr.chc 10 true } }

/-- R165, R168: the Byte Pointer after an access with SB = 1, unless frozen; never for a coprocessor transfer. -/
def State.setBytePointer (s : State) (c : Byte) (addr : Word) : State :=
  if ctlCE c || !ctlSB c || s.frozen then s
  else { s with alu := putField s.alu 5 2 (if s.dw then (if s.bo then 0 else 3) else fieldOf addr 0 2) }

/-- R439: CPS.CA after a coprocessor transfer with SA = 1: set by a store, reset by a load. -/
def State.setCoprocessorActive (s : State) (c : Byte) (load : Bool) : State :=
  if ctlCE c && ctlPA c then { s with cps := putBit s.cps 15 (!load) } else s

/-- How an access ends. -/
inductive AccessEnd where
  /-- It completed. -/
  | done (s : State)
  /-- The platform answered DERR (R660). -/
  | derr (s : State)
  /-- It was not performed: a trap. -/
  | trap (vn : Byte) (s : State)
  /-- A model fault. -/
  | fault (f : Fault)
deriving DecidableEq, Repr

/-- The effects of a completed access on BP and CA. -/
def State.afterAccess (s : State) (x : Xfer) : State :=
  (s.setBytePointer x.ctl x.addr).setCoprocessorActive x.ctl x.load

/-- The write half of LOADSET (R433). -/
def State.setHalf (s : State) (x : Xfer) (sp : Space) (p : Word) : AccessEnd :=
  if s.derrNext then .derr (s.bumpAccess.derrReply x)
  else .done ((s.bumpAccess.writeSpace sp x.ctl p 0xFFFFFFFF).afterAccess x)

/-- R170 (6), (7): the access itself, at its place. -/
def State.performAt (s : State) (x : Xfer) (sp : Space) (p : Word) : AccessEnd :=
  if s.derrNext then .derr (s.bumpAccess.derrReply x)
  else if x.load then
    let r := s.bumpAccess.readSpace sp p
    let t := r.2.putGR .load x.reg (s.loadValue x.ctl x.addr r.1)
    if x.set then t.setHalf x sp p else .done (t.afterAccess x)
  else .done ((s.bumpAccess.writeSpace sp x.ctl p x.data).afterAccess x)

/-- R170 (4) to (7). A coprocessor transfer with CFG.CP = 0 traps (R439). -/
def State.access (s : State) (x : Xfer) : AccessEnd :=
  if ctlCE x.ctl && !s.cp then .trap 3 s
  else
    match s.locate x with
    | .found sp p t => t.performAt x sp p
    | .absent t => .derr (t.bumpAccess.derrReply x)
    | .trap vn t => .trap vn t
    | .fault f => .fault f

/-! ### Channel registers (20_memory.md R171, 10_state.md R48) -/

/-- The CHC a transfer starts with: CR and TF are kept, CV is 1, NN is 0. -/
def startChc (old : Word) (x : Xfer) (ml : Bool) : Word :=
  (x.ctl.setWidth 32 <<< 24) ||| (old &&& 0x00FF0400) ||| (boolBit x.load <<< 15) ||| (boolBit ml <<< 14)
    ||| (boolBit x.set <<< 13) ||| (boolBit x.lock <<< 12) ||| (x.reg.setWidth 32 <<< 2) ||| 1

/-- R171: the channel registers at the start of a single access, unless frozen; CHD of a load is a free value
(10_state.md R47; log entry 38). -/
def State.startChannel (s : State) (x : Xfer) (ml : Bool) : State :=
  if s.frozen then s
  else if x.load then
    { s with
      sr := { s.sr with cha := x.addr, chd := Config.freeWord s.fresh, chc := startChc s.sr.chc x ml }
      fresh := s.fresh + 1 }
  else { s with sr := { s.sr with cha := x.addr, chd := x.data, chc := startChc s.sr.chc x ml } }

/-- R171: CHC.CV after a completed access, unless frozen. -/
def State.endChannel (s : State) : State :=
  if s.frozen then s else { s with sr := { s.sr with chc := putBit s.sr.chc 0 false } }

/-! ### Single accesses -/

/-- R170 (1): the Protection Violations of a load or store other than its register banks: PA or UA in User mode, AS
with translation (R183; log entry 45). -/
def State.accessProtected (s : State) (c : Byte) : Bool :=
  !ctlCE c && ((s.user && (ctlPA c || ctlUA c)) || (s.dataTranslated c && ctlAS c))

/-- How a single load or store instruction ends (R170). A DERR leaves the instruction complete; its trap is taken by a
later decision (60_exceptions.md R690; log entry 16). -/
def AccessEnd.toDone : AccessEnd → Except Stop Done
  | .done s => .ok (.seq s.endChannel)
  | .derr s => .ok (.seq s)
  | .trap vn s => .error (.trap vn .next s)
  | .fault f => .error (.fault f)

/-- A single load or store behind its checks (R170). CHC.ML = 1 with unfrozen channel registers is U15. -/
def State.single (s : State) (x : Xfer) : Except Stop Done :=
  if s.ml && !s.frozen then .error (.fault .multipleFlagSet)
  else ((s.startChannel x false).access x).toDone

/-! ### The load-multiple and store-multiple sequence (44_data_movement.md R438) -/

/-- The register after `r` in a sequence: 127 and 255 are followed by 128. -/
def nextRegister (r : Byte) : Byte := if r = 127 || r = 255 then 128 else r + 1

/-- CHC.TR. -/
def State.targetRegister (s : State) : Byte := s.sr.chc.extractLsb' 2 8

/-- The faults of a register that a sequence of loads or of stores reaches: 0 and 2 to 63 (R438, 10_state.md R23,
R30). -/
def sequenceFault (_load : Bool) (r : Byte) : Option Fault :=
  match numberFault r with
  | some f => some f
  | none => if r = 3 || r = 2 then some .ccaRestriction else none

/-- The faults of the register a sequence starts with. R438 speaks of a sequence that reaches register 2; one STOREM
that names it, like a store, may have it as data (R430, 10_state.md R30 (a), U4). DESIGN CHOICE (log entry 48). -/
def startFault (load : Bool) (r : Byte) : Option Fault :=
  if !load && r = 2 then none else sequenceFault load r

/-- One transfer of the sequence, described by the channel registers; CHD is the store data, or a free value. -/
def State.transfer (s : State) : Xfer :=
  let r := s.targetRegister
  ⟨s.sr.chc.extractLsb' 24 8, bitOf s.sr.chc 15, false, false, r, s.sr.cha, s.getGR r⟩

/-- CHD before a transfer of the sequence. -/
def State.transferData (s : State) (x : Xfer) : State :=
  if x.load then { s with sr := { s.sr with chd := Config.freeWord s.fresh }, fresh := s.fresh + 1 }
  else { s with sr := { s.sr with chd := x.data } }

/-- The channel registers after a transfer that others follow. -/
def State.nextTransfer (s : State) : State :=
  { s with sr := { s.sr with
      cha := s.sr.cha + 4
      chc := putField (putField s.sr.chc 16 8 (fieldOf s.sr.chc 16 8 - 1)) 2 8
        ((nextRegister s.targetRegister).setWidth 32) } }

/-- The channel registers after the last transfer: ML and CV are 0, CR stays 0 (D22; log entry 46). -/
def State.lastTransfer (s : State) : State :=
  { s with sr := { s.sr with chc := putBit (putBit s.sr.chc 14 false) 0 false } }

/-- The transfer loop of R438, at most `n` transfers. A Protection Violation inside it is of kind Curr (D23), so its
vector 5 is answered as such by the caller. `check` is about the register of the first transfer, `sequenceFault` about
those it reaches. -/
def transferLoop : Nat → (Bool → Byte → Option Fault) → State → AccessEnd
  | 0, _, s => .done s
  | n + 1, check, s =>
    if s.bankProtected s.targetRegister then .trap 5 s
    else
      let x := s.transfer
      match check x.load x.reg with
      | some f => .fault f
      | none =>
        match (s.transferData x).access x with
        | .done t => if t.countRemaining = 0 then .done t.lastTransfer else transferLoop n sequenceFault t.nextTransfer
        | e => e

/-- The sequence described by the channel registers: CHC.CR + 1 transfers. -/
def State.runSequence (s : State) : AccessEnd := transferLoop (s.countRemaining + 1) startFault s

/-- How a LOADM or STOREM instruction ends: like a single access, but a Protection Violation is of kind Curr (D23), the
channel registers already tell the end, and no instruction executes between a transfer answered with DERR and its trap:
the rest of the sequence holds the processor (R438, 70_reset_and_hazards.md R790 (b) 6). -/
def AccessEnd.toDoneMultiple : AccessEnd → Except Stop Done
  | .done s => .ok (.seq { s with hzNext := { s.hzNext with multiple := true } })
  | .derr s => .ok (.seq { s with derrLeft := 0, hzNext := { s.hzNext with multiple := true } })
  | .trap vn s => .error (.trap vn (if vn = 5 then .curr else .next) s)
  | .fault f => .error (.fault f)

/-- R438: what the model faults on before a sequence starts: frozen channel registers (U14), bytes or half-words (U12,
a memory access only), a LOADM or STOREM right before (U16). -/
def State.multipleFault (s : State) (c : Byte) : Option Fault :=
  if s.frozen then some .multipleFrozen
  else if !ctlCE c && (ctlOPT c = 1 || ctlOPT c = 2) then some .multipleNarrow
  else if s.hz.multiple then some .multipleBackToBack
  else none

/-- R438: LOADM and STOREM behind their checks. -/
def State.multiple (s : State) (x : Xfer) : Except Stop Done :=
  match s.multipleFault x.ctl with
  | some f => .error (.fault f)
  | none => ((s.startChannel x true).runSequence).toDoneMultiple

/-! ### Restart by an interrupt return (60_exceptions.md R691, 48_miscellaneous.md R606) -/

/-- The access the channel registers describe (R691). With CHC.LS = 0 and CHC.ST = 1, which only a move to CHC makes, it
is a store of CHD that needs the permissions of a LOADSET. DESIGN CHOICE (log entry 56). -/
def State.recorded (s : State) : Xfer :=
  ⟨s.sr.chc.extractLsb' 24 8, bitOf s.sr.chc 15, bitOf s.sr.chc 13, bitOf s.sr.chc 12, s.targetRegister, s.sr.cha,
    s.sr.chd⟩

/-- R606: a resumed sequence runs after the two instructions returned to have been fetched (steps 6 to 10), so that the
words these fetches fill the Branch Target Cache with may be ones its stores have replaced (log entry 10). -/
def State.keepFetched (s : State) : State :=
  { s with prefetched := s.prefetched.map fun p => { p with left := p.left + 2 } }

/-- The end of a resumed sequence. -/
def AccessEnd.keepFetched : AccessEnd → AccessEnd
  | .done s => .done s.keepFetched
  | .derr s => .derr s
  | .trap vn s => .trap vn s
  | .fault f => .fault f

/-- Steps 5 to 10 of R606: the access of valid, needed channel registers is made again. The two instructions returned to
are fetched before a sequence is resumed (R606 (d), 44_data_movement.md R438), else when they execute (10_state.md R132;
log entry 59). A sequence needs unfrozen channel registers (U14). One whose CHC holds CE = 0 and OPT = 001 or 010, which only a move to CHC makes, is resumed by
byte or half-word transfers when CFG.DW is 1, and does not fault: the loop of R438 writes whole words, and U12 names the
instructions LOADM and STOREM only. DESIGN CHOICE (log entry 57). -/
def State.restartAccess (s : State) : AccessEnd :=
  if !s.cv || s.nn then .done s
  else if s.ml then
    if s.frozen then .fault .multipleFrozen else s.fetchReturned.runSequence.keepFetched
  else
    let x := s.recorded
    match (if x.load then sequenceFault true x.reg else none) with
    | some f => .fault f
    | none =>
      match s.access x with
      | .done t => .done t.endChannel
      | e => e

end Sys2Proof.Machine
end

