-- ==== Sys2Proof/Machine/Control.lean ====
section
/-! DEFINITION. Constant, branch and miscellaneous instructions (45_constant.md, 47_branch.md, 48_miscellaneous.md). -/

namespace Sys2Proof.Machine

/-! ### Constants (45_constant.md R494) -/

/-- A constant instruction: the register named by RA is the destination. -/
def constantOp (i : Instr) (ra : Byte) (v : Word) (s : State) : Out :=
  finish i.opcode (s.guarded false [⟨.a, ra, .dst .constant⟩] (.ok (.seq (s.putGR .constant (s.absReg .a ra) v))))

/-- CONST (R490): the constant zero-extended. -/
def execConst (ra : Byte) (i : BitVec 16) (s : State) : Out := constantOp (.const ra i) ra (i.setWidth 32) s

/-- R491: register 3 may not be read (10_state.md R30 (c)). -/
def consthFault (n : Byte) : Bool := n = 3

/-- CONSTH (R491): the constant above the low half of the register. gr2 is read and written (C46); gr3 may not be
read. -/
def execConsth (ra : Byte) (i : BitVec 16) (s : State) : Out :=
  let v := (i.setWidth 32 <<< 16) ||| fieldOf (s.src .a ra) 0 16
  finish (Instr.consth ra i).opcode (s.guarded false [⟨.a, ra, .dst .constant⟩]
    (if consthFault (s.absReg .a ra) then .error (.fault .ccaRestriction)
     else .ok (.seq (s.putGR .constant (s.absReg .a ra) v))))

/-- CONSTHZ (R492): the constant above zeros. -/
def execConsthz (ra : Byte) (i : BitVec 16) (s : State) : Out :=
  constantOp (.consthz ra i) ra (i.setWidth 32 <<< 16) s

/-- CONSTN (R493): the constant ones-extended. -/
def execConstn (ra : Byte) (i : BitVec 16) (s : State) : Out :=
  constantOp (.constn ra i) ra (0xFFFF0000 ||| i.setWidth 32) s

/-! ### Branches (47_branch.md R580, R581) -/

/-- R240: TARGET of the direct forms, absolute or relative to the branch. -/
def State.target (s : State) (a : Bool) (i : BitVec 16) : Word :=
  if a then i.setWidth 32 <<< 2 else s.pc + (i.signExtend 32 <<< 2)

/-- The target of a branch, fetched after the delay instruction, is translated (20_memory.md R175, D16). -/
def State.targetTranslated (s : State) : Bool := !s.ageOldFetch.fetchPI && !s.ageOldFetch.fetchRE

/-- A taken branch (R581): it redirects the instruction after the next one. Right after MMU.PS changed, if its target is
translated, that is U25 (70_reset_and_hazards.md R782). -/
def State.takeBranch (s pre : State) (t : Word) : Except Stop Done :=
  if pre.hz.ps && pre.targetTranslated then .error (.fault .hazardPageSize) else .ok (.branch s t)

/-- R580 (c): a Boolean operand is bit 31. -/
def isTrue (w : Word) : Bool := bitOf w 31

/-- A conditional branch: taken, or followed by the next instruction. -/
def State.branchIf (s pre : State) (c : Bool) (t : Word) : Except Stop Done :=
  if c then s.takeBranch pre t else .ok (.seq s)

/-- CALL (R582): the return address is `pc + 8`. -/
def execCall (a : Bool) (ra : Byte) (i : BitVec 16) (s : State) : Out :=
  finish (Instr.call a ra i).opcode (s.guarded false [⟨.a, ra, .dst .other⟩]
    ((s.putGR .other (s.absReg .a ra) (s.pc + 8)).takeBranch s (s.target a i)))

/-- CALLI (R583): the target is read before the return address is written. -/
def execCalli (ra rb : Byte) (s : State) : Out :=
  finish (Instr.calli ra rb).opcode (s.guarded false [⟨.b, rb, .src⟩, ⟨.a, ra, .dst .other⟩]
    ((s.putGR .other (s.absReg .a ra) (s.pc + 8)).takeBranch s (s.src .b rb)))

/-- JMP (R584). -/
def execJmp (a : Bool) (i : BitVec 16) (s : State) : Out :=
  finish (Instr.jmp a i).opcode (s.guarded false [] (s.takeBranch s (s.target a i)))

/-- JMPF (R585). -/
def execJmpf (a : Bool) (ra : Byte) (i : BitVec 16) (s : State) : Out :=
  finish (Instr.jmpf a ra i).opcode (s.guarded false [⟨.a, ra, .src⟩]
    (s.branchIf s (!isTrue (s.src .a ra)) (s.target a i)))

/-- JMPFDEC (R586): the register is decremented, taken or not; the test uses the old value. -/
def execJmpfdec (a : Bool) (ra : Byte) (i : BitVec 16) (s : State) : Out :=
  finish (Instr.jmpfdec a ra i).opcode (s.guarded false [⟨.a, ra, .src⟩, ⟨.a, ra, .dst .other⟩]
    ((s.putGR .other (s.absReg .a ra) (s.src .a ra - 1)).branchIf s (!isTrue (s.src .a ra)) (s.target a i)))

/-- JMPFI (R587). -/
def execJmpfi (ra rb : Byte) (s : State) : Out :=
  finish (Instr.jmpfi ra rb).opcode (s.guarded false [⟨.a, ra, .src⟩, ⟨.b, rb, .src⟩]
    (s.branchIf s (!isTrue (s.src .a ra)) (s.src .b rb)))

/-- JMPI (R588). -/
def execJmpi (rb : Byte) (s : State) : Out :=
  finish (Instr.jmpi rb).opcode (s.guarded false [⟨.b, rb, .src⟩] (s.takeBranch s (s.src .b rb)))

/-- JMPT (R589). -/
def execJmpt (a : Bool) (ra : Byte) (i : BitVec 16) (s : State) : Out :=
  finish (Instr.jmpt a ra i).opcode (s.guarded false [⟨.a, ra, .src⟩]
    (s.branchIf s (isTrue (s.src .a ra)) (s.target a i)))

/-- JMPTI (R590). -/
def execJmpti (ra rb : Byte) (s : State) : Out :=
  finish (Instr.jmpti ra rb).opcode (s.guarded false [⟨.a, ra, .src⟩, ⟨.b, rb, .src⟩]
    (s.branchIf s (isTrue (s.src .a ra)) (s.src .b rb)))

/-! ### Miscellaneous (48_miscellaneous.md) -/

/-- R600: the number of 0 bits above the most significant 1 among bits `n - 1` to 0. -/
def leadingZeros (w : Word) : Nat → Nat
  | 0 => 0
  | n + 1 => if w.getLsbD n then 0 else 1 + leadingZeros w n

/-- CLZ (R600). -/
def execClz (rc : Byte) (b : Opnd) (s : State) : Out :=
  finish (Instr.clz rc b).opcode (s.guarded false (opndUses b ++ [⟨.c, rc, .dst .other⟩])
    (.ok (.seq (s.setDest .other rc (BitVec.ofNat 32 (leadingZeros (s.opnd b) 32))))))

/-- EMULATE (R601): IPA and IPB are set, IPC becomes a free value (U20; log entry 37), and the trap VN is taken. -/
def execEmulate (vn ra rb : Byte) (s : State) : Out :=
  finish (Instr.emulate vn ra rb).opcode
    (s.guarded (s.user && decide (vn.toNat < 64)) [⟨.a, ra, .number⟩, ⟨.b, rb, .number⟩]
      (.error (.trap vn .next { s with
        sr := { s.sr with
          ipa := pointerWord (s.absReg .a ra)
          ipb := pointerWord (s.absReg .b rb)
          ipc := Config.freeWord s.fresh &&& 0x3FC }
        fresh := s.fresh + 1 })))

/-- SETIP (R602). -/
def execSetip (rc ra rb : Byte) (s : State) : Out :=
  finish (Instr.setip rc ra rb).opcode
    (s.guarded false [⟨.a, ra, .number⟩, ⟨.b, rb, .number⟩, ⟨.c, rc, .number⟩]
      (.ok (.seq { s.setPointers rc ra rb with
        hzNext := { s.hzNext with ipa := true, ipb := true, ipc := true } })))

/-- INV (R603): the Valid bits are reset at the next successful branch. -/
def execInv (s : State) : Out :=
  finish Instr.inv.opcode (s.guarded s.user []
    (.ok (.seq { s with btc := { s.btc with pendingInv := true } })))

/-- R606 (d): a trap of the access an interrupt return restarts is taken after the return, before the next
instruction; the operation code that EXOP receives is not known: a free value (log entry 25). A protected register met
in the resumed sequence (D23) is answered in the same way, PC1 and PC0 the addresses returned to, because the address of
the LOADM or STOREM is no longer known. DESIGN CHOICE (log entry 49). TE is not copied to TP: no instruction of the
program has completed since the return (R730). DESIGN CHOICE (R680 copies for kind Next, and R606 (d) calls the trap Next
with respect to the first access; log entry 53). -/
def State.takeRestartTrap (s : State) (vn : Byte) : Out :=
  { s with sr := { s.sr with exop := Config.freeWord s.fresh &&& 0xFF }, fresh := s.fresh + 1 }.takeTrap vn .async

/-- R606: the interrupt return. A DERR answer to the restarted access traps before the next instruction (R606 (d)). With
FZ = 0 outside Monitor mode PC0 and PC1 are not stable (U21). Right after MMU.PS changed, a return whose restarted access
is translated is U25, and so is one that goes on at translated addresses, which its steps 6 and 8 fetch as a branch does
its target (70_reset_and_hazards.md R782). DEDUCED (log entry 58). A sequence is resumed
also where the fetch at the first address traps, and that trap is taken after it. DESIGN CHOICE (log entry 59). -/
def interruptReturn (i : Instr) (invalidate : Bool) (s : State) : Out :=
  match s.regStop s.user [] with
  | some x => finish i.opcode (.error x)
  | none =>
    if !s.frozen then .fault .returnUnfrozen
    else if s.hz.ps && (s.restoreContext invalidate).targetTranslated then .fault .hazardPageSize
    else
      match (s.restoreContext invalidate).restartAccess with
      | .done t => finish i.opcode (.ok (.returned t))
      | .derr t => finish i.opcode (.ok (.returned { t with derrLeft := 0 }))
      | .trap vn t => t.takeRestartTrap vn
      | .fault f => .fault f

/-- IRET (R604). -/
def execIret (s : State) : Out := interruptReturn .iret false s

/-- IRETINV (R605): all Valid bits of the Branch Target Cache are reset when the sequence begins. -/
def execIretinv (s : State) : Out := interruptReturn .iretinv true s

/-- HALT (R607): Halt mode is entered before the next instruction executes; in User mode it is a Protection Violation
unless a debugger announced itself (60_exceptions.md R742). -/
def execHalt (s : State) : Out :=
  finish Instr.halt.opcode (s.guarded (s.user && !s.debugger) []
    (.ok (.seq { s with opMode := .haltPending })))

end Sys2Proof.Machine
end

