-- ==== Sys2Proof/Machine/DataMove.lean ====
section
/-! DEFINITION. Loads and stores, and the byte and half-word moves between registers (44_data_movement.md R430 to
R444). -/

namespace Sys2Proof.Machine

/-- The register fields of a load: the address, then the destination (R430). -/
def usesLoad (ra : Byte) (b : Opnd) : List RegUse := opndUses b ++ [⟨.a, ra, .dst .load⟩]

/-- The register fields of a store: the data and the address (R430). -/
def usesStore (ra : Byte) (b : Opnd) : List RegUse := [⟨.a, ra, .src⟩] ++ opndUses b

/-- The transfer of a load instruction. -/
def State.loadXfer (s : State) (ctl ra : Byte) (b : Opnd) (set lock : Bool) : Xfer :=
  ⟨ctl, true, set, lock, s.absReg .a ra, s.opnd b, 0⟩

/-- The transfer of a store instruction. -/
def State.storeXfer (s : State) (ctl ra : Byte) (b : Opnd) (lock : Bool) : Xfer :=
  ⟨ctl, false, false, lock, s.absReg .a ra, s.opnd b, s.src .a ra⟩

/-- A single load (R431 to R433). -/
def loadOp (i : Instr) (ctl ra : Byte) (b : Opnd) (set lock : Bool) (s : State) : Out :=
  finish i.opcode (s.guarded (s.accessProtected ctl) (usesLoad ra b) (s.single (s.loadXfer ctl ra b set lock)))

/-- A single store (R435, R436). -/
def storeOp (i : Instr) (ctl ra : Byte) (b : Opnd) (lock : Bool) (s : State) : Out :=
  finish i.opcode (s.guarded (s.accessProtected ctl) (usesStore ra b) (s.single (s.storeXfer ctl ra b lock)))

/-- LOAD (R431). -/
def execLoad (ctl ra : Byte) (b : Opnd) (s : State) : Out := loadOp (.load ctl ra b) ctl ra b false false s

/-- LOADL (R432): a load that shows LOCK, recorded in CHC.LA. -/
def execLoadl (ctl ra : Byte) (b : Opnd) (s : State) : Out := loadOp (.loadl ctl ra b) ctl ra b false true s

/-- LOADSET (R433): a load, then the word 0xFFFFFFFF stored at the same place. -/
def execLoadset (ctl ra : Byte) (b : Opnd) (s : State) : Out := loadOp (.loadset ctl ra b) ctl ra b true false s

/-- LOADM (R434, R438). -/
def execLoadm (ctl ra : Byte) (b : Opnd) (s : State) : Out :=
  finish (Instr.loadm ctl ra b).opcode (s.guarded (s.accessProtected ctl) (usesLoad ra b)
    (s.multiple (s.loadXfer ctl ra b false false)))

/-- STORE (R435). -/
def execStore (ctl ra : Byte) (b : Opnd) (s : State) : Out := storeOp (.store ctl ra b) ctl ra b false s

/-- STOREL (R436): a store that shows LOCK, recorded in CHC.LA. -/
def execStorel (ctl ra : Byte) (b : Opnd) (s : State) : Out := storeOp (.storel ctl ra b) ctl ra b true s

/-- STOREM (R437, R438). -/
def execStorem (ctl ra : Byte) (b : Opnd) (s : State) : Out :=
  finish (Instr.storem ctl ra b).opcode (s.guarded (s.accessProtected ctl) (usesStore ra b)
    (s.multiple (s.storeXfer ctl ra b false)))

/-- The byte lane ALU.BP selects (R440). -/
def State.bpByte (s : State) : Nat := s.byteLane s.bytePointer

/-- The half-word lane the most significant bit of ALU.BP selects (R441). -/
def State.bpHalf (s : State) : Nat := s.halfLane (s.bytePointer / 2)

/-- EXBYTE (R440). -/
def execExbyte (rc ra : Byte) (b : Opnd) (s : State) : Out :=
  plainResult (.exbyte rc ra b) rc ra b (putField (s.opnd b) 0 8 ((laneByte (s.src .a ra) s.bpByte).setWidth 32)) s

/-- EXHW (R441). -/
def execExhw (rc ra : Byte) (b : Opnd) (s : State) : Out :=
  plainResult (.exhw rc ra b) rc ra b (putField (s.opnd b) 0 16 ((laneHalf (s.src .a ra) s.bpHalf).setWidth 32)) s

/-- EXHWS (R442): there is no SRCB. -/
def execExhws (rc ra : Byte) (s : State) : Out :=
  finish (Instr.exhws rc ra).opcode (s.guarded false [⟨.a, ra, .src⟩, ⟨.c, rc, .dst .other⟩]
    (.ok (.seq (s.setDest .other rc ((laneHalf (s.src .a ra) s.bpHalf).signExtend 32)))))

/-- INBYTE (R443). -/
def execInbyte (rc ra : Byte) (b : Opnd) (s : State) : Out :=
  plainResult (.inbyte rc ra b) rc ra b (putField (s.src .a ra) (8 * s.bpByte) 8 (s.opnd b)) s

/-- INHW (R444). -/
def execInhw (rc ra : Byte) (b : Opnd) (s : State) : Out :=
  plainResult (.inhw rc ra b) rc ra b (putField (s.src .a ra) (16 * s.bpHalf) 16 (s.opnd b)) s

end Sys2Proof.Machine
end

