-- ==== Sys2Proof/Machine/FloatFormat.lean ====
section
/-! DEFINITION. Floating-point formats, values, rounding and the output stage (46_floating_point.md R500 to R509,
R513). A finite value is held exactly, as a sign, a natural significand and an exponent of two. -/

namespace Sys2Proof.Machine

/-- R500: single- and double-precision. -/
inductive Fmt where
  | single
  | double
deriving DecidableEq, Repr

/-- The number of significant bits, the integer bit among them. -/
def Fmt.precision : Fmt → Nat
  | .single => 24
  | .double => 53

/-- The width of the biased exponent. -/
def Fmt.expBits : Fmt → Nat
  | .single => 8
  | .double => 11

/-- The bias; also the exponent of the largest finite numbers. -/
def Fmt.bias : Fmt → Nat
  | .single => 127
  | .double => 1023

/-- The exponent of the smallest normalized number: -126 or -1022 (R509). -/
def Fmt.minExp (f : Fmt) : Int := 1 - f.bias

/-- A value of R501. A finite value is `(-1)^neg * m * 2^e`; with `m = 0` it is a signed zero. The payload and the
sign of a NaN have no effect and are not kept. -/
inductive FpValue where
  | nan (signaling : Bool)
  | inf (neg : Bool)
  | fin (neg : Bool) (m : Nat) (e : Int)
deriving DecidableEq, Repr

/-- The three fields of a bit pattern (R500): sign, biased exponent, fraction. -/
structure FpFields where
  neg : Bool
  bexp : Nat
  frac : Nat
deriving DecidableEq, Repr

/-- R500: the fields of a pattern; a single-precision one stands in the low 32 bits. -/
def fpFields (f : Fmt) (w : DWord) : FpFields :=
  ⟨w.getLsbD (f.precision - 1 + f.expBits), w.toNat / 2 ^ (f.precision - 1) % 2 ^ f.expBits,
    w.toNat % 2 ^ (f.precision - 1)⟩

/-- R500, R501: the value of a bit pattern; with `flush`, a denormalized number counts as a zero of the same sign
(R504 (1)). -/
def unpack (f : Fmt) (flush : Bool) (w : DWord) : FpValue :=
  let x := fpFields f w
  if x.bexp = 2 ^ f.expBits - 1 then
    if x.frac = 0 then .inf x.neg else .nan (x.frac < 2 ^ (f.precision - 2))
  else if x.bexp = 0 then .fin x.neg (if flush then 0 else x.frac) (f.minExp - (f.precision - 1 : Nat))
  else .fin x.neg (2 ^ (f.precision - 1) + x.frac) ((x.bexp : Int) - f.bias - (f.precision - 1 : Nat))

/-- The number of bits of a significand. -/
def bitLength (m : Nat) : Nat := if m = 0 then 0 else Nat.log2 m + 1

/-- The exponent of a non-zero finite value: `2^k ≤ |x| < 2^(k+1)`. -/
def leadingExp (m : Nat) (e : Int) : Int := e + (bitLength m : Int) - 1

/-- The bit pattern with given fields (R500). -/
def fpBits (f : Fmt) (neg : Bool) (bexp frac : Nat) : DWord :=
  BitVec.ofNat 64 ((if neg then 2 ^ (f.precision - 1 + f.expBits) else 0) + bexp * 2 ^ (f.precision - 1) + frac)

/-- R500, R501: the bit pattern of a value that the format can represent; every NaN is AQNaN. -/
def pack (f : Fmt) : FpValue → DWord
  | .nan _ => fpBits f false (2 ^ f.expBits - 1) (3 * 2 ^ (f.precision - 3))
  | .inf neg => fpBits f neg (2 ^ f.expBits - 1) 0
  | .fin neg m e =>
    if m = 0 then fpBits f neg 0 0
    else
      let k := leadingExp m e
      if k < f.minExp then fpBits f neg 0 (m * 2 ^ (e - (f.minExp - (f.precision - 1 : Nat))).toNat)
      else
        let sig := if bitLength m ≤ f.precision then m * 2 ^ (f.precision - bitLength m)
          else m / 2 ^ (bitLength m - f.precision)
        fpBits f neg (k + f.bias).toNat (sig - 2 ^ (f.precision - 1))

/-! ### Rounding (R503) -/

/-- The rounding modes, in the order of their codes. -/
inductive Rounding where
  | nearest
  | down
  | up
  | zero
deriving DecidableEq, Repr

/-- FPE.FRM (R503). -/
def roundingOf (code : Nat) : Rounding :=
  match code % 4 with
  | 0 => .nearest
  | 1 => .down
  | 2 => .up
  | _ => .zero

/-- Whether rounding goes to the larger magnitude: `q` is the kept part and `r` of `2 * half` the part cut off. -/
def roundsAway (mode : Rounding) (neg : Bool) (q r half : Nat) : Bool :=
  match mode with
  | .nearest => decide (half < r) || (r == half && q % 2 == 1)
  | .down => neg && r != 0
  | .up => !neg && r != 0
  | .zero => false

/-- A magnitude after rounding, `m * 2^e`, and whether it is inexact. -/
structure Rounded where
  m : Nat
  e : Int
  inexact : Bool
deriving DecidableEq, Repr

/-- R503: `m * 2^e` rounded to a multiple of `2^g`. -/
def roundAt (mode : Rounding) (neg : Bool) (m : Nat) (e g : Int) : Rounded :=
  if g ≤ e then ⟨m, e, false⟩
  else
    let k := (g - e).toNat
    let q := m / 2 ^ k
    let r := m % 2 ^ k
    ⟨if roundsAway mode neg q r (2 ^ (k - 1)) then q + 1 else q, g, r != 0⟩

/-- R503: `Round`, to the precision of the format with unbounded exponent. -/
def roundTo (f : Fmt) (mode : Rounding) (neg : Bool) (m : Nat) (e : Int) : Rounded :=
  roundAt mode neg m e (leadingExp m e - (f.precision - 1 : Nat))

/-! ### Status (R508 to R510) -/

/-- A set of exceptions, in the order of the mask, sticky and trap bits from the most significant (R70, R72). -/
structure FpStatus where
  d : Bool
  x : Bool
  u : Bool
  v : Bool
  r : Bool
  n : Bool
deriving DecidableEq, Repr

/-- No exception. -/
def FpStatus.none : FpStatus := ⟨false, false, false, false, false, false⟩

/-- The six bits of a set, N lowest. -/
def FpStatus.bits (t : FpStatus) : Word :=
  boolBit t.n ||| boolBit t.r <<< 1 ||| boolBit t.v <<< 2 ||| boolBit t.u <<< 3 ||| boolBit t.x <<< 4 |||
    boolBit t.d <<< 5

/-- The set that the low six bits of a word stand for. -/
def fpStatusOf (w : Word) : FpStatus := ⟨bitOf w 5, bitOf w 4, bitOf w 3, bitOf w 2, bitOf w 1, bitOf w 0⟩

/-- The Floating-Point Environment an operation runs in (R70): the rounding mode, FFeff of R504, and the mask bits. -/
structure FpEnv where
  mode : Rounding
  ff : Bool
  mask : FpStatus
deriving DecidableEq, Repr

/-- The result of an operation (`none`: not written) and its status. -/
structure FpAnswer where
  result : Option FpValue
  status : FpStatus
deriving DecidableEq, Repr

/-- A result without status. -/
def exactly (v : FpValue) : FpAnswer := ⟨some v, FpStatus.none⟩

/-- R509: what an overflow delivers, infinity or the largest finite number. -/
def overflowValue (f : Fmt) (mode : Rounding) (neg : Bool) : FpValue :=
  let largest := FpValue.fin neg (2 ^ f.precision - 1) (f.bias - (f.precision - 1 : Nat) : Int)
  match mode with
  | .nearest => .inf neg
  | .zero => largest
  | .down => if neg then .inf neg else largest
  | .up => if neg then largest else .inf neg

/-- R509: the rounded result is larger than the largest finite number. -/
def overflows (f : Fmt) (r : Rounded) : Bool := decide ((f.bias : Int) < leadingExp r.m r.e)

/-- R509: `0 < |x| < 2^Emin`, for a non-zero x. -/
def isTiny (f : Fmt) (m : Nat) (e : Int) : Bool := decide (leadingExp m e < f.minExp)

/-- R509: `OutputStage`. In the row "tiny, FFeff = 0, UM = 0", inexact is `r ≠ x` (log entry 46). -/
def outputStage (f : Fmt) (env : FpEnv) (neg : Bool) (m : Nat) (e : Int) : FpAnswer :=
  if m = 0 then exactly (.fin neg 0 0)
  else
    let r := roundTo f env.mode neg m e
    if overflows f r then
      if env.mask.v then ⟨some (overflowValue f env.mode neg), { FpStatus.none with v := true, x := true }⟩
      else ⟨none, { FpStatus.none with v := true, x := r.inexact }⟩
    else if isTiny f m e then
      if env.ff then
        ⟨if env.mask.u then some (.fin neg 0 0) else none, { FpStatus.none with u := true, x := true }⟩
      else if env.mask.u then
        let d := roundAt env.mode neg m e (f.minExp - (f.precision - 1 : Nat))
        ⟨some (.fin neg d.m d.e), { FpStatus.none with u := d.inexact, x := d.inexact }⟩
      else ⟨none, { FpStatus.none with u := true, x := r.inexact }⟩
    else if r.inexact then
      ⟨if env.mask.x then some (.fin neg r.m r.e) else none, { FpStatus.none with x := true }⟩
    else exactly (.fin neg r.m r.e)

/-- R513, R553: the output stage of the instructions that never trap: the masks do not matter, and a tiny result is
flushed to zero. The multiply-accumulate group drops X. -/
def flushingStage (f : Fmt) (mode : Rounding) (neg : Bool) (m : Nat) (e : Int) : FpValue × FpStatus :=
  if m = 0 then (.fin neg 0 0, FpStatus.none)
  else
    let r := roundTo f mode neg m e
    if overflows f r then (overflowValue f mode neg, { FpStatus.none with v := true, x := true })
    else if isTiny f m e then (.fin neg 0 0, { FpStatus.none with u := true, x := true })
    else (.fin neg r.m r.e, { FpStatus.none with x := r.inexact })

end Sys2Proof.Machine
end

