-- ==== Sys2Proof/Machine/FloatOps.lean ====
section
/-! DEFINITION. The floating-point operations on values: the input-exception tables of 46_floating_point.md R508 in
front of the exact result and its output stage. -/

namespace Sys2Proof.Machine

/-- R508: AQNaN with N and R. -/
def invalidAnswer : FpAnswer := ⟨some (.nan false), { FpStatus.none with r := true, n := true }⟩

/-- R508: AQNaN with R. -/
def reservedAnswer : FpAnswer := ⟨some (.nan false), { FpStatus.none with r := true }⟩

/-- A NaN of either kind. -/
def FpValue.isNaN : FpValue → Bool
  | .nan _ => true
  | _ => false

/-- A signaling NaN. -/
def FpValue.isSNaN : FpValue → Bool
  | .nan sig => sig
  | _ => false

/-- A zero. -/
def FpValue.isZero : FpValue → Bool
  | .fin _ m _ => m == 0
  | _ => false

/-- The sign; that of a NaN has no significance (R501). -/
def FpValue.sign : FpValue → Bool
  | .nan _ => false
  | .inf neg => neg
  | .fin neg _ _ => neg

/-- The value with its sign changed (R508 (a), R540). -/
def FpValue.negate : FpValue → FpValue
  | .nan sig => .nan sig
  | .inf neg => .inf !neg
  | .fin neg m e => .fin (!neg) m e

/-- The value 1.0 (R540). -/
def FpValue.one : FpValue := .fin false 1 0

/-- The value +0.0 (R540). -/
def FpValue.plusZero : FpValue := .fin false 0 0

/-- The rows of R508 that a NaN operand selects. -/
def nanAnswer (xs : List FpValue) : Option FpAnswer :=
  if xs.any FpValue.isSNaN then some invalidAnswer
  else if xs.any FpValue.isNaN then some reservedAnswer
  else none

/-- A finite value as a multiple of `2^g`, for an exponent `e ≥ g`. -/
def scaled (neg : Bool) (m : Nat) (e g : Int) : Int :=
  let n : Int := m * 2 ^ (e - g).toNat
  if neg then -n else n

/-- The exact sum of two finite values; an exact zero takes the sign of R503. -/
def exactSum (mode : Rounding) (na : Bool) (ma : Nat) (ea : Int) (nb : Bool) (mb : Nat) (eb : Int) :
    Bool × Nat × Int :=
  let g := min ea eb
  let t := scaled na ma ea g + scaled nb mb eb g
  if t = 0 then (if na = nb then na else decide (mode = .down), 0, 0) else (decide (t < 0), t.natAbs, g)

/-- FADD, DADD (R508 (a), R509). -/
def fpAdd (f : Fmt) (env : FpEnv) (a b : FpValue) : FpAnswer :=
  match nanAnswer [a, b] with
  | some x => x
  | none =>
    match a, b with
    | .inf na, .inf nb => if na = nb then exactly (.inf na) else invalidAnswer
    | .inf na, _ => exactly (.inf na)
    | _, .inf nb => exactly (.inf nb)
    | .fin na ma ea, .fin nb mb eb =>
      let t := exactSum env.mode na ma ea nb mb eb
      outputStage f env t.1 t.2.1 t.2.2
    | _, _ => reservedAnswer

/-- FSUB, DSUB (R508 (a), R509). -/
def fpSub (f : Fmt) (env : FpEnv) (a b : FpValue) : FpAnswer := fpAdd f env a b.negate

/-- FMUL, DMUL, FDMUL (R508 (b), R509): the product of two finite values is held exactly. -/
def fpMul (f : Fmt) (env : FpEnv) (a b : FpValue) : FpAnswer :=
  match nanAnswer [a, b] with
  | some x => x
  | none =>
    match a, b with
    | .fin na ma ea, .fin nb mb eb => outputStage f env (na ^^ nb) (ma * mb) (ea + eb)
    | _, _ => if a.isZero || b.isZero then invalidAnswer else exactly (.inf (a.sign ^^ b.sign))

/-- A quotient to more bits than any format holds, with a last bit that is 1 exactly when a remainder is left: it
rounds like the infinitely precise quotient (R503). -/
def quotient (f : Fmt) (ma mb : Nat) (ea eb : Int) : Nat × Int :=
  let k := f.precision + 3 + bitLength mb
  let n := ma * 2 ^ k
  (2 * (n / mb) + (if n % mb = 0 then 0 else 1), ea - eb - k - 1)

/-- FDIV, DDIV (R508 (c), R509). -/
def fpDiv (f : Fmt) (env : FpEnv) (a b : FpValue) : FpAnswer :=
  match nanAnswer [a, b] with
  | some x => x
  | none =>
    let neg := a.sign ^^ b.sign
    match a, b with
    | .fin _ ma ea, .fin _ mb eb =>
      if mb = 0 then
        if ma = 0 then invalidAnswer else ⟨some (.inf neg), { FpStatus.none with d := true }⟩
      else if ma = 0 then exactly (.fin neg 0 0)
      else outputStage f env neg (quotient f ma mb ea eb).1 (quotient f ma mb ea eb).2
    | .inf _, .inf _ => invalidAnswer
    | .inf _, _ => exactly (.inf neg)
    | _, _ => exactly (.fin neg 0 0)

/-- The integer square root, bit by bit from bit `k - 1` down, of which `r` is known. -/
def rootBits (m : Nat) : Nat → Nat → Nat
  | 0, r => r
  | k + 1, r => rootBits m k (if (r + 2 ^ k) * (r + 2 ^ k) ≤ m then r + 2 ^ k else r)

/-- The integer square root. -/
def integerRoot (m : Nat) : Nat := rootBits m (bitLength m) 0

/-- A square root to more bits than any format holds, with a last bit that is 1 exactly when it is inexact. -/
def squareRoot (f : Fmt) (m : Nat) (e : Int) : Nat × Int :=
  let k := 2 * (f.precision + 3) + (e % 2).toNat
  let n := m * 2 ^ k
  let r := integerRoot n
  (2 * r + (if r * r = n then 0 else 1), (e - k) / 2 - 1)

/-- SQRT (R508 (f), R551). -/
def fpSqrt (f : Fmt) (env : FpEnv) (a : FpValue) : FpAnswer :=
  match nanAnswer [a] with
  | some x => x
  | none =>
    match a with
    | .fin neg m e =>
      if m = 0 then exactly (.fin neg 0 0)
      else if neg then invalidAnswer
      else outputStage f env false (squareRoot f m e).1 (squareRoot f m e).2
    | _ => if a.sign then invalidAnswer else exactly (.inf false)

/-- CONVERT between floating-point formats and MFACC (R508 (g), (j), R509). -/
def fpConvert (f : Fmt) (env : FpEnv) (a : FpValue) : FpAnswer :=
  match nanAnswer [a] with
  | some x => x
  | none =>
    match a with
    | .fin neg m e => outputStage f env neg m e
    | _ => exactly a

/-- The value of a 32-bit integer (R550): two's-complement, or unsigned. -/
def integerValue (unsigned : Bool) (w : Word) : FpValue :=
  if unsigned then .fin false w.toNat 0 else .fin (decide (w.toInt < 0)) w.toInt.natAbs 0

/-- The result of an operation as it is written (`none`: not written), a word standing in the low 32 bits, and its
status. -/
structure FpOutcome where
  result : Option DWord
  status : FpStatus
deriving DecidableEq, Repr

/-- A floating-point result in its format. -/
def FpAnswer.packed (f : Fmt) (x : FpAnswer) : FpOutcome := ⟨x.result.map (pack f), x.status⟩

/-- A word with no status but N. -/
def integerInvalid (w : Word) (r : Bool) : FpOutcome :=
  ⟨some (w.setWidth 64), { FpStatus.none with n := true, r := r }⟩

/-- R550, D24: an overflow into an integer, written only when NM and VM are both 1 (log entry 33). -/
def integerOverflow (env : FpEnv) (w : Word) : FpOutcome :=
  ⟨if env.mask.v then some (w.setWidth 64) else none, { FpStatus.none with n := true }⟩

/-- CONVERT from floating-point to integer (R508 (i), R550). -/
def fpToInteger (unsigned : Bool) (env : FpEnv) (a : FpValue) : FpOutcome :=
  match a with
  | .nan _ => integerInvalid 0 true
  | .inf neg =>
    integerInvalid (if unsigned then (if neg then 0 else 0xFFFFFFFF) else if neg then 0x80000000 else 0x7FFFFFFF) false
  | .fin neg m e =>
    if unsigned && neg && m != 0 then integerInvalid 0 false
    else
      let r := roundAt env.mode neg m e 0
      let n := r.m * 2 ^ r.e.toNat
      if unsigned && decide (2 ^ 32 ≤ n) then integerOverflow env 0xFFFFFFFF
      else if !unsigned && !neg && decide (2 ^ 31 ≤ n) then integerOverflow env 0x7FFFFFFF
      else if !unsigned && neg && decide (2 ^ 31 < n) then integerOverflow env 0x80000000
      else
        let w : Word := if neg then -(BitVec.ofNat 32 n) else BitVec.ofNat 32 n
        ⟨if r.inexact && !env.mask.x then none else some (w.setWidth 64), { FpStatus.none with x := r.inexact }⟩

/-- `a < b` of values that are not NaNs (R529). -/
def FpValue.below : FpValue → FpValue → Bool
  | .inf na, .inf nb => na && !nb
  | .inf na, _ => na
  | _, .inf nb => !nb
  | .fin na ma ea, .fin nb mb eb => decide (scaled na ma ea (min ea eb) < scaled nb mb eb (min ea eb))
  | _, _ => false

/-- `a = b` of values that are not NaNs (R529). -/
def FpValue.equals (a b : FpValue) : Bool := !a.below b && !b.below a

/-- A comparison (R508 (d), (e), R529): FALSE with a NaN operand, and N if `invalid` holds of an operand. -/
def fpCompare (rel : FpValue → FpValue → Bool) (invalid : FpValue → Bool) (a b : FpValue) : FpOutcome :=
  ⟨some ((boolWord (!(a.isNaN || b.isNaN) && rel a b)).setWidth 64),
    { FpStatus.none with n := invalid a || invalid b }⟩

/-- R6, D25: the product of two finite values as the addition takes it: exact, or rounded to the precision of the
result format when `MAC_PRODUCT_ROUNDING` is `rounded` (log entry 32). -/
def macProduct (f : Fmt) (mode : Rounding) (neg : Bool) (m : Nat) (e : Int) : Nat × Int :=
  if Config.macProductRounded && m != 0 then ((roundTo f mode neg m e).m, (roundTo f mode neg m e).e) else (m, e)

/-- The finite row of R513, one rounding of `OP1 * OP2 + OP3` (D25; log entry 32). X is not reported. -/
def macFinite (f : Fmt) (mode : Rounding) (neg : Bool) (m : Nat) (e : Int) (n3 : Bool) (m3 : Nat) (e3 : Int) :
    FpValue × FpStatus :=
  let t := exactSum mode neg m e n3 m3 e3
  let r := flushingStage f mode t.1 t.2.1 t.2.2
  (r.1, { r.2 with x := false })

/-- R508 (k), R513: `OP1 * OP2 + OP3`; the result is always written. Where two rows of the table fit, an infinity times
a zero with a quiet NaN as OP3, the row of the NaN, printed first, decides: R alone. DESIGN CHOICE (log entry 32). -/
def fpMac (f : Fmt) (mode : Rounding) (a b c : FpValue) : FpValue × FpStatus :=
  if a.isSNaN || b.isSNaN || c.isSNaN then (.nan false, { FpStatus.none with r := true, n := true })
  else if a.isNaN || b.isNaN || c.isNaN then (.nan false, { FpStatus.none with r := true })
  else
    let neg := a.sign ^^ b.sign
    match a, b with
    | .fin _ ma ea, .fin _ mb eb =>
      match c with
      | .fin nc mc ec =>
        let p := macProduct f mode neg (ma * mb) (ea + eb)
        macFinite f mode neg p.1 p.2 nc mc ec
      | _ => (c, FpStatus.none)
    | _, _ =>
      if a.isZero || b.isZero || c = .inf (!neg) then
        (.nan false, { FpStatus.none with r := true, n := true })
      else (.inf neg, FpStatus.none)

/-- MTACC (R508 (j), R553): the value put into an accumulator of format `f`; always written. -/
def fpToAcc (f : Fmt) (mode : Rounding) (a : FpValue) : FpValue × FpStatus :=
  match a with
  | .nan sig => (.nan false, { FpStatus.none with r := true, n := sig })
  | .inf neg => (.inf neg, FpStatus.none)
  | .fin neg m e => flushingStage f mode neg m e

/-- CLASS (R552): the classification code of a bit pattern, with OS in bit 5. -/
def classCode (f : Fmt) (w : DWord) : Word :=
  let x := fpFields f w
  let efc : Nat :=
    if x.bexp = 2 ^ f.expBits - 1 then
      if x.frac = 0 then 0x10 else if x.frac < 2 ^ (f.precision - 2) then 0x12 else 0x13
    else
      (if x.bexp = 0 then 0 else if x.bexp = 1 then 4 else if x.bexp = 2 ^ f.expBits - 2 then 0xC else 8) +
      (if x.frac = 0 then 0 else if x.frac = 2 ^ (f.precision - 1) - 1 then 3 else 2)
  (if x.neg then 0x20 else 0) ||| BitVec.ofNat 32 efc

end Sys2Proof.Machine
end

