-- ==== Sys2Proof/Machine/Float.lean ====
section
/-! DEFINITION. The floating-point instructions (46_floating_point.md R502 to R554). -/

namespace Sys2Proof.Machine

/-! ### Environment, status and trap -/

/-- FPE.ACF (R505). -/
def State.acf (s : State) : Nat := (fieldOf s.sr.fpe 9 2).toNat

/-- The environment of FPE (R503, R504, R70). -/
def State.fpEnv (s : State) : FpEnv := ⟨roundingOf (fieldOf s.sr.fpe 6 2).toNat, s.fastFloat, fpStatusOf s.sr.fpe⟩

/-- A single-precision source. -/
def State.srcSingle (s : State) (p : Pos) (f : Byte) : DWord := (s.src p f).setWidth 64

/-- The bit pattern of a source in a format (R502 (a)). -/
def State.fpBitsOf (s : State) (x : Fmt) (p : Pos) (f : Byte) : DWord :=
  match x with
  | .single => s.srcSingle p f
  | .double => s.srcDouble p f

/-- A floating-point source, denormalized numbers flushed in fast-float mode (R504 (1)). -/
def State.fpSrc (s : State) (flush : Bool) (x : Fmt) (p : Pos) (f : Byte) : FpValue :=
  unpack x flush (s.fpBitsOf x p f)

/-- A result written to the register or the pair that RC names. -/
def State.putFp (s : State) (x : Fmt) (rc : Byte) (v : DWord) : State :=
  match x with
  | .single => s.setDest .fpu rc (v.extractLsb' 0 32)
  | .double => s.putDouble (s.absReg .c rc) v

/-- The use of a source register in a format. -/
def srcUse : Fmt → Use
  | .single => .fpuSrc
  | .double => .doubleSrc

/-- The use of a destination register in a format. -/
def dstUse : Fmt → Use
  | .single => .dst .fpu
  | .double => .doubleDst

/-- The draw that a free number of each pointer uses: one of its own (log entry 12). -/
def Pos.draw : Pos → Nat
  | .a => 0
  | .b => 1
  | .c => 2

/-- R511 (3): what a floating-point trap puts into an indirect pointer, for a register field or (`code`) a function
code (D26; log entry 22). Where an unused register field, or a function code with bit 7 = 1, to which the Stack Pointer
is added, cannot be resolved, because the shadow Stack Pointer is invalid, GR[1] was written by the instruction before,
or the pointer was, the number is free: R511 does not say which value of the Stack Pointer is added then, and the trap is
taken all the same. DESIGN CHOICE (log entry 22). -/
def State.trapNumber (s : State) (p : Pos) (code : Bool) (f : Byte) : Byte :=
  if code && !f.getLsbD 7 then f
  else if (s.fieldFault p f).isNone then s.absReg p f
  else if f.getLsbD 7 then 0x80 ||| lowByte (Config.freeWord (s.fresh + p.draw))
  else lowByte (Config.freeWord (s.fresh + p.draw))

/-- Which of the three low fields of an instruction are function codes: bits 23-16, and bits 7-0 (R511). -/
structure CodeFields where
  c : Bool
  b : Bool
deriving DecidableEq, Repr

/-- No function code: formats RRR. -/
def CodeFields.none : CodeFields := ⟨false, false⟩
/-- The function code in bits 7-0. -/
def CodeFields.low : CodeFields := ⟨false, true⟩
/-- The function code in bits 23-16. -/
def CodeFields.high : CodeFields := ⟨true, false⟩

/-- R511 (3): the indirect pointers after a floating-point trap. The bank of a field that the instruction does not use
(RC of MTACC, RA of MFACC, RB of FMAC and DMAC with FUNC[3] = 1) is not checked: 10_state.md R26 does not check unused
fields, where R28 (b) has the numbers set checked. DESIGN CHOICE (log entry 52). -/
def State.trapPointers (s : State) (k : CodeFields) (fc fa fb : Byte) : State :=
  { s with
    sr := { s.sr with
      ipc := pointerWord (s.trapNumber .c k.c fc)
      ipa := pointerWord (s.trapNumber .a false fa)
      ipb := pointerWord (s.trapNumber .b k.b fb) }
    fresh := s.fresh + 3 }

/-- R510: the sticky bits of the masked exceptions of an operation. -/
def State.setSticky (s : State) (t : FpStatus) : State :=
  { s with sr := { s.sr with fps := s.sr.fps ||| (t.bits &&& fieldOf s.sr.fpe 0 6) } }

/-- R510: some exception of the operation is not masked. -/
def State.unmasked (s : State) (t : FpStatus) : Bool := t.bits &&& ~~~(fieldOf s.sr.fpe 0 6) != 0

/-- R510: all six trap status bits are written. -/
def State.setTrapStatus (s : State) (t : FpStatus) : State :=
  { s with sr := { s.sr with fps := putField s.sr.fps 8 6 t.bits } }

/-- R510, R511: `StatusAndTrap`. A result that is not written goes with the trap (D24 for the one case where the mask
bit of the status letter is 1). -/
def State.statusAndTrap (s : State) (k : CodeFields) (x : Fmt) (fc fa fb : Byte) (o : FpOutcome) : Except Stop Done :=
  let s1 := s.setSticky o.status
  match s.unmasked o.status, o.result with
  | false, some v => .ok (.seq (s1.putFp x fc v))
  | _, _ => .error (.trap 22 .next ((s1.setTrapStatus o.status).trapPointers k fc fa fb))

/-- R512: the trap of a reserved control-field value. -/
def State.reservedField (s : State) (vn : Byte) (k : CodeFields) (fc fa fb : Byte) : Except Stop Done :=
  .error (.trap vn .next (s.trapPointers k fc fa fb))

/-- The sticky bits of the instructions that never trap, whatever the masks (R513, R553). -/
def State.setAllSticky (s : State) (t : FpStatus) : State :=
  { s with sr := { s.sr with fps := s.sr.fps ||| t.bits } }

/-! ### Add, subtract, multiply, divide, compare (R520 to R535) -/

/-- The register uses of a two-operand instruction. -/
def usesFp (x y : Fmt) (rc ra rb : Byte) : List RegUse := [⟨.a, ra, srcUse x⟩, ⟨.b, rb, srcUse x⟩, ⟨.c, rc, dstUse y⟩]

/-- The common procedure of the two-operand instructions (R506): operands in format `x`, the result in format `y`. -/
def fpBinary (i : Instr) (x y : Fmt) (rc ra rb : Byte) (op : FpEnv → FpValue → FpValue → FpOutcome) (s : State) : Out :=
  let o := op s.fpEnv (s.fpSrc s.fastFloat x .a ra) (s.fpSrc s.fastFloat x .b rb)
  finish i.opcode (s.guarded false (usesFp x y rc ra rb) (s.statusAndTrap .none y rc ra rb o))

/-- FADD (R520): DEST <- SRCA + SRCB, single-precision. -/
def execFadd (rc ra rb : Byte) (s : State) : Out :=
  fpBinary (.fadd rc ra rb) .single .single rc ra rb (fun env a b => (fpAdd .single env a b).packed .single) s

/-- DADD (R521): DEST <- SRCA + SRCB, double-precision. -/
def execDadd (rc ra rb : Byte) (s : State) : Out :=
  fpBinary (.dadd rc ra rb) .double .double rc ra rb (fun env a b => (fpAdd .double env a b).packed .double) s

/-- FSUB (R522): DEST <- SRCA - SRCB, single-precision. -/
def execFsub (rc ra rb : Byte) (s : State) : Out :=
  fpBinary (.fsub rc ra rb) .single .single rc ra rb (fun env a b => (fpSub .single env a b).packed .single) s

/-- DSUB (R523): DEST <- SRCA - SRCB, double-precision. -/
def execDsub (rc ra rb : Byte) (s : State) : Out :=
  fpBinary (.dsub rc ra rb) .double .double rc ra rb (fun env a b => (fpSub .double env a b).packed .double) s

/-- FMUL (R524): DEST <- SRCA * SRCB, single-precision. -/
def execFmul (rc ra rb : Byte) (s : State) : Out :=
  fpBinary (.fmul rc ra rb) .single .single rc ra rb (fun env a b => (fpMul .single env a b).packed .single) s

/-- DMUL (R525): DEST <- SRCA * SRCB, double-precision. -/
def execDmul (rc ra rb : Byte) (s : State) : Out :=
  fpBinary (.dmul rc ra rb) .double .double rc ra rb (fun env a b => (fpMul .double env a b).packed .double) s

/-- FDIV (R526): DEST <- SRCA / SRCB, single-precision. -/
def execFdiv (rc ra rb : Byte) (s : State) : Out :=
  fpBinary (.fdiv rc ra rb) .single .single rc ra rb (fun env a b => (fpDiv .single env a b).packed .single) s

/-- DDIV (R527): DEST <- SRCA / SRCB, double-precision. -/
def execDdiv (rc ra rb : Byte) (s : State) : Out :=
  fpBinary (.ddiv rc ra rb) .double .double rc ra rb (fun env a b => (fpDiv .double env a b).packed .double) s

/-- FDMUL (R528): the exact double-precision product of two single-precision operands. -/
def execFdmul (rc ra rb : Byte) (s : State) : Out :=
  fpBinary (.fdmul rc ra rb) .single .double rc ra rb (fun env a b => (fpMul .double env a b).packed .double) s

/-- FEQ (R530): N only for an SNaN operand. -/
def execFeq (rc ra rb : Byte) (s : State) : Out :=
  fpBinary (.feq rc ra rb) .single .single rc ra rb (fun _ => fpCompare FpValue.equals FpValue.isSNaN) s

/-- DEQ (R531). -/
def execDeq (rc ra rb : Byte) (s : State) : Out :=
  fpBinary (.deq rc ra rb) .double .single rc ra rb (fun _ => fpCompare FpValue.equals FpValue.isSNaN) s

/-- FGT (R532): N for any NaN operand. -/
def execFgt (rc ra rb : Byte) (s : State) : Out :=
  fpBinary (.fgt rc ra rb) .single .single rc ra rb (fun _ => fpCompare (fun a b => b.below a) FpValue.isNaN) s

/-- DGT (R533). -/
def execDgt (rc ra rb : Byte) (s : State) : Out :=
  fpBinary (.dgt rc ra rb) .double .single rc ra rb (fun _ => fpCompare (fun a b => b.below a) FpValue.isNaN) s

/-- FGE (R534): N for any NaN operand. -/
def execFge (rc ra rb : Byte) (s : State) : Out :=
  fpBinary (.fge rc ra rb) .single .single rc ra rb (fun _ => fpCompare (fun a b => !a.below b) FpValue.isNaN) s

/-- DGE (R535). -/
def execDge (rc ra rb : Byte) (s : State) : Out :=
  fpBinary (.dge rc ra rb) .double .single rc ra rb (fun _ => fpCompare (fun a b => !a.below b) FpValue.isNaN) s

/-! ### Multiply-accumulate and multiply-sum (R540 to R543) -/

/-- An accumulator (R33). -/
def State.getAcc (s : State) (n : Nat) : DWord := s.acc.getD n 0

/-- An accumulator written (R33). -/
def State.putAcc (s : State) (n : Nat) (v : DWord) : State := { s with acc := s.acc.setIfInBounds n v }

/-- The value an accumulator holds, in the double-precision encoding (D27); the multiply-accumulate group counts a
denormalized one as zero (R513). -/
def State.accValue (s : State) (flush : Bool) (n : Nat) : FpValue := unpack .double flush (s.getAcc n)

/-- FUNC[k] of a multiply-accumulate function code (R507, R540). -/
def funcBit (fn : Byte) (k : Nat) : Bool := fn.getLsbD (k + 2)

/-- ACN, the accumulator a function code names (R507). -/
def accNumber (fn : Byte) : Nat := fn.toNat % 4

/-- A value with its sign changed if `b`. -/
def signIf (b : Bool) (v : FpValue) : FpValue := if b then v.negate else v

/-- OP2 of a multiply-accumulate (R540). -/
def State.macOp2 (s : State) (x : Fmt) (fn rb : Byte) : FpValue :=
  signIf (funcBit fn 0) (if funcBit fn 3 then .one else s.fpSrc true x .b rb)

/-- OP3 of a multiply-accumulate (R540). -/
def State.macOp3 (s : State) (fn : Byte) : FpValue :=
  signIf (funcBit fn 1) (if funcBit fn 2 then .plusZero else s.accValue true (accNumber fn))

/-- The register uses of a multiply-accumulate: RB is none with FUNC[3] = 1 (R540). -/
def usesMac (u : Use) (fn ra rb : Byte) : List RegUse := [⟨.a, ra, u⟩] ++ if funcBit fn 3 then [] else [⟨.b, rb, u⟩]

/-- A multiply-accumulate (R513, R540): operands in format `x`, the accumulator rounded to format `y`. -/
def State.multiplyAccumulate (s : State) (x y : Fmt) (fn ra rb : Byte) : State :=
  let t := fpMac y s.fpEnv.mode (s.fpSrc true x .a ra) (s.macOp2 x fn rb) (s.macOp3 fn)
  (s.setAllSticky t.2).putAcc (accNumber fn) (pack .double t.1)

/-- FMAC (R540): trap 24 if ACF is reserved (R512); with ACF = 10 the result is double-precision (log entry 27). -/
def execFmac (fn ra rb : Byte) (s : State) : Out :=
  finish (Instr.fmac fn ra rb).opcode
    (if s.acf = 0 || s.acf = 3 then s.guarded false (usesMac .number fn ra rb) (s.reservedField 24 .high fn ra rb)
    else s.guarded false (usesMac .fpuSrc fn ra rb)
      (.ok (.seq (s.multiplyAccumulate .single (if s.acf = 1 then .single else .double) fn ra rb))))

/-- DMAC (R541): trap 25 if ACF is reserved (R512); ACF = 01 faults (U19). -/
def execDmac (fn ra rb : Byte) (s : State) : Out :=
  finish (Instr.dmac fn ra rb).opcode
    (if s.acf = 0 || s.acf = 3 then s.guarded false (usesMac .number fn ra rb) (s.reservedField 25 .high fn ra rb)
    else s.guarded false (usesMac .doubleSrc fn ra rb)
      (if s.acf = 1 then .error (.fault .multiplyFormat)
      else .ok (.seq (s.multiplyAccumulate .double .double fn ra rb))))

/-- A multiply-sum (R513, R542): SRCA * ACC[0] + SRCB. -/
def State.multiplySum (s : State) (x : Fmt) (rc ra rb : Byte) : State :=
  let t := fpMac x s.fpEnv.mode (s.fpSrc true x .a ra) (s.accValue true 0) (s.fpSrc true x .b rb)
  (s.setAllSticky t.2).putFp x rc (pack x t.1)

/-- FMSM (R542): an ACF other than 01 faults (U19). -/
def execFmsm (rc ra rb : Byte) (s : State) : Out :=
  finish (Instr.fmsm rc ra rb).opcode (s.guarded false (usesFp .single .single rc ra rb)
    (if s.acf = 1 then .ok (.seq (s.multiplySum .single rc ra rb)) else .error (.fault .multiplyFormat)))

/-- DMSM (R543): an ACF other than 10 faults (U19). -/
def execDmsm (rc ra rb : Byte) (s : State) : Out :=
  finish (Instr.dmsm rc ra rb).opcode (s.guarded false (usesFp .double .double rc ra rb)
    (if s.acf = 2 then .ok (.seq (s.multiplySum .double rc ra rb)) else .error (.fault .multiplyFormat)))

/-! ### Conversion, square root, classification, accumulator moves (R550 to R554) -/

/-- FS, bits 1-0 of a function code; also ACN. -/
def fsField (fn : Byte) : Nat := fn.toNat % 4

/-- FD or FMT, bits 3-2 of a function code. -/
def fdField (fn : Byte) : Nat := fn.toNat / 4 % 4

/-- RND, bits 6-4 of a function code. -/
def rndField (fn : Byte) : Nat := fn.toNat / 16 % 8

/-- The registers of an operand whose format code is 00 (a word), 01 or 10. -/
def fmtOf (code : Nat) : Fmt := if code = 2 then .double else .single

/-- The result of CONVERT (R550). -/
def State.converted (s : State) (ra fn : Byte) : FpOutcome :=
  let env : FpEnv := { s.fpEnv with mode := if rndField fn = 4 then s.fpEnv.mode else roundingOf (rndField fn) }
  let unsigned := fn.getLsbD 7
  if fsField fn = 0 then (fpConvert (fmtOf (fdField fn)) env (integerValue unsigned (s.src .a ra))).packed (fmtOf (fdField fn))
  else
    let a := s.fpSrc s.fastFloat (fmtOf (fsField fn)) .a ra
    if fdField fn = 0 then fpToInteger unsigned env a
    else (fpConvert (fmtOf (fdField fn)) env a).packed (fmtOf (fdField fn))

/-- CONVERT (R550): trap 36 for FS or FD = 11 (R512); a reserved RND or FD = FS faults (U17). -/
def execConvert (rc ra fn : Byte) (s : State) : Out :=
  finish (Instr.convert rc ra fn).opcode
    (if fsField fn = 3 || fdField fn = 3 then
      s.guarded false [⟨.a, ra, .number⟩, ⟨.c, rc, .number⟩] (s.reservedField 36 .low rc ra fn)
    else s.guarded false [⟨.a, ra, srcUse (fmtOf (fsField fn))⟩, ⟨.c, rc, dstUse (fmtOf (fdField fn))⟩]
      (if fdField fn = fsField fn || 4 < rndField fn then .error (.fault .convertReserved)
      else s.statusAndTrap .low (fmtOf (fdField fn)) rc ra fn (s.converted ra fn)))

/-- SQRT (R551): trap 37 for FS = 00 or 11 (R512). -/
def execSqrt (rc ra fn : Byte) (s : State) : Out :=
  let x := fmtOf (fsField fn)
  finish (Instr.sqrt rc ra fn).opcode
    (if fsField fn = 0 || fsField fn = 3 then
      s.guarded false [⟨.a, ra, .number⟩, ⟨.c, rc, .number⟩] (s.reservedField 37 .low rc ra fn)
    else s.guarded false [⟨.a, ra, srcUse x⟩, ⟨.c, rc, dstUse x⟩]
      (s.statusAndTrap .low x rc ra fn ((fpSqrt x s.fpEnv (s.fpSrc s.fastFloat x .a ra)).packed x)))

/-- CLASS (R552): trap 38 for FS = 00 or 11 (R512); no exception, and no flush in fast-float mode. -/
def execClassify (rc ra fn : Byte) (s : State) : Out :=
  let x := fmtOf (fsField fn)
  finish (Instr.classify rc ra fn).opcode
    (if fsField fn = 0 || fsField fn = 3 then
      s.guarded false [⟨.a, ra, .number⟩, ⟨.c, rc, .number⟩] (s.reservedField 38 .low rc ra fn)
    else s.guarded false [⟨.a, ra, srcUse x⟩, ⟨.c, rc, .dst .fpu⟩]
      (.ok (.seq (s.setDest .fpu rc (classCode x (s.fpBitsOf x .a ra))))))

/-- FMT = 11, or FMT = 00 with a reserved ACF (R512). -/
def State.fmtReserved (s : State) (fn : Byte) : Bool :=
  fdField fn = 3 || (fdField fn = 0 && (s.acf = 0 || s.acf = 3))

/-- The format of the general-register side of an accumulator move (R553, R554). -/
def State.moveFmt (s : State) (fn : Byte) : Fmt := fmtOf (if fdField fn = 0 then s.acf else fdField fn)

/-- MTACC (R553): trap 40 (R512), a reserved ACF with FMT 01 or 10 faults (U18); the source is not flushed. -/
def execMtacc (rc ra fn : Byte) (s : State) : Out :=
  let x := s.moveFmt fn
  let t := fpToAcc (fmtOf s.acf) s.fpEnv.mode (s.fpSrc false x .a ra)
  finish (Instr.mtacc rc ra fn).opcode
    (if s.fmtReserved fn then s.guarded false [⟨.a, ra, .number⟩] (s.reservedField 40 .low rc ra fn)
    else s.guarded false [⟨.a, ra, srcUse x⟩]
      (if s.acf = 0 || s.acf = 3 then .error (.fault .accumulatorFormat)
      else .ok (.seq ((s.setAllSticky t.2).putAcc (accNumber fn) (pack .double t.1)))))

/-- MFACC (R554): trap 41 (R512), a reserved ACF with FMT 01 or 10 faults (U18). -/
def execMfacc (rc ra fn : Byte) (s : State) : Out :=
  let x := s.moveFmt fn
  finish (Instr.mfacc rc ra fn).opcode
    (if s.fmtReserved fn then s.guarded false [⟨.c, rc, .number⟩] (s.reservedField 41 .low rc ra fn)
    else s.guarded false [⟨.c, rc, dstUse x⟩]
      (if s.acf = 0 || s.acf = 3 then .error (.fault .accumulatorFormat)
      else s.statusAndTrap .low x rc ra fn
        ((fpConvert x s.fpEnv (s.accValue s.fastFloat (accNumber fn))).packed x)))

end Sys2Proof.Machine
end

