-- ==== Sys2Proof/Machine/Logical.lean ====
section
/-! DEFINITION. Logical and shift instructions (42_logical.md, 43_shift.md). -/

namespace Sys2Proof.Machine

/-- R400: the result goes to DEST, N and Z are set from it. -/
def logicalOp (i : Instr) (rc ra : Byte) (b : Opnd) (f : Word → Word → Word) (s : State) : Out :=
  let r := f (s.src .a ra) (s.opnd b)
  finish i.opcode (s.guarded false (usesRRM .alu rc ra b) (.ok (.seq ((s.setDest .alu rc r).setNZ r))))

/-- AND (R401). -/
def execAnd (rc ra : Byte) (b : Opnd) (s : State) : Out :=
  logicalOp (.and rc ra b) rc ra b (fun x y => x &&& y) s

/-- ANDN (R402). -/
def execAndn (rc ra : Byte) (b : Opnd) (s : State) : Out :=
  logicalOp (.andn rc ra b) rc ra b (fun x y => x &&& ~~~y) s

/-- NAND (R403). -/
def execNand (rc ra : Byte) (b : Opnd) (s : State) : Out :=
  logicalOp (.nand rc ra b) rc ra b (fun x y => ~~~(x &&& y)) s

/-- NOR (R404). -/
def execNor (rc ra : Byte) (b : Opnd) (s : State) : Out :=
  logicalOp (.nor rc ra b) rc ra b (fun x y => ~~~(x ||| y)) s

/-- OR (R405). -/
def execOr (rc ra : Byte) (b : Opnd) (s : State) : Out :=
  logicalOp (.or rc ra b) rc ra b (fun x y => x ||| y) s

/-- ORN (R406). -/
def execOrn (rc ra : Byte) (b : Opnd) (s : State) : Out :=
  logicalOp (.orn rc ra b) rc ra b (fun x y => x ||| ~~~y) s

/-- XNOR (R407). -/
def execXnor (rc ra : Byte) (b : Opnd) (s : State) : Out :=
  logicalOp (.xnor rc ra b) rc ra b (fun x y => ~~~(x ^^^ y)) s

/-- XOR (R408). -/
def execXor (rc ra : Byte) (b : Opnd) (s : State) : Out :=
  logicalOp (.xor rc ra b) rc ra b (fun x y => x ^^^ y) s

/-- R420: the shift count, bits 4-0 of SRCB. -/
def shiftCount (y : Word) : Nat := (fieldOf y 0 5).toNat

/-- SLL (R421). -/
def execSll (rc ra : Byte) (b : Opnd) (s : State) : Out :=
  plainResult (.sll rc ra b) rc ra b (s.src .a ra <<< shiftCount (s.opnd b)) s

/-- SRL (R422). -/
def execSrl (rc ra : Byte) (b : Opnd) (s : State) : Out :=
  plainResult (.srl rc ra b) rc ra b (s.src .a ra >>> shiftCount (s.opnd b)) s

/-- SRA (R423). -/
def execSra (rc ra : Byte) (b : Opnd) (s : State) : Out :=
  plainResult (.sra rc ra b) rc ra b ((s.src .a ra).sshiftRight (shiftCount (s.opnd b))) s

/-- R424: the high word of SRCA // SRCB shifted left by `n`. -/
def funnelShift (x y : Word) (n : Nat) : Word := ((x ++ y : DWord) <<< n).extractLsb' 32 32

/-- EXTRACT (R424): the count is ALU.FC. -/
def execExtract (rc ra : Byte) (b : Opnd) (s : State) : Out :=
  plainResult (.extract rc ra b) rc ra b (funnelShift (s.src .a ra) (s.opnd b) s.funnelCount) s

end Sys2Proof.Machine
end

