-- ==== Sys2Proof/Machine/Special.lean ====
section
/-! DEFINITION. Reading and writing the special-purpose registers and the TLB registers (44_data_movement.md R450 to
R456, 10_state.md R40 to R83). -/

namespace Sys2Proof.Machine

/-- R40: a protected special-register number. -/
def protectedSpecial (n : Byte) : Bool := decide (n.toNat < 128) || decide (165 ≤ n.toNat)

/-- U9: numbers 163 and 165 to 255, which Supervisor and Monitor mode may not access (10_state.md R74, 90_conflicts.md
C13). -/
def forbiddenSpecial (n : Byte) : Bool := n = 163 || decide (165 ≤ n.toNat)

/-- R455: the bits of a special register that software writes; the others read 0 (R40). CPS, CFG, the parts of other
registers and the unimplemented numbers are not in it. -/
def writableBits (n : Nat) : Word :=
  match n with
  | 0 => 0xFFFFFC00
  | 1 => 0x0000FFFF
  | 4 => 0xFFFFFFFF
  | 5 => 0xFFFFFFFF
  | 6 => 0xFFFFF7FF
  | 7 => 0x0000FFFF
  | 8 => 0x00FFFFFF
  | 9 => 0x07FFFFFF
  | 10 => 0xFFFFFFFC
  | 11 => 0xFFFFFFFC
  | 12 => 0xFFFFFFFC
  | 13 => 0x000003FF
  | 14 => 0x0000007E
  | 15 => 0x000000FF
  | 16 => 0xFFFFFFFF
  | 17 => 0x00DF7FFF
  | 18 => 0xFFFFFFFF
  | 19 => 0x00DF7FFF
  | 20 => 0xFFFFFFFC
  | 21 => 0xFFFFFFFC
  | 22 => 0xFFFFFFFC
  | 23 => 0xFFFFFFFC
  | 24 => 0x00001FFF
  | 25 => 0xFFFFFFFC
  | 26 => 0x00001FFF
  | 128 => 0x000003FC
  | 129 => 0x000003FC
  | 130 => 0x000003FC
  | 131 => 0xFFFFFFFF
  | 160 => 0x000007FF
  | 161 => 0x00000003
  | 162 => 0x00003F3F
  | 164 => 0x000000FF
  | _ => 0

/-- The stored special registers by number (R41). -/
def SpecialRegs.get (r : SpecialRegs) (n : Nat) : Option Word :=
  match n with
  | 0 => some r.vab
  | 1 => some r.ops
  | 4 => some r.cha
  | 5 => some r.chd
  | 6 => some r.chc
  | 7 => some r.rbp
  | 8 => some r.tmc
  | 9 => some r.tmr
  | 10 => some r.pc0
  | 11 => some r.pc1
  | 12 => some r.pc2
  | 13 => some r.mmu
  | 14 => some r.lru
  | 15 => some r.rsn
  | 16 => some r.rma0
  | 17 => some r.rmc0
  | 18 => some r.rma1
  | 19 => some r.rmc1
  | 20 => some r.spc0
  | 21 => some r.spc1
  | 22 => some r.spc2
  | 23 => some r.iba0
  | 24 => some r.ibc0
  | 25 => some r.iba1
  | 26 => some r.ibc1
  | 128 => some r.ipc
  | 129 => some r.ipa
  | 130 => some r.ipb
  | 131 => some r.q
  | 160 => some r.fpe
  | 161 => some r.inte
  | 162 => some r.fps
  | 164 => some r.exop
  | _ => none

/-- A stored special register replaced (R41). -/
def SpecialRegs.put (r : SpecialRegs) (n : Nat) (v : Word) : SpecialRegs :=
  match n with
  | 0 => { r with vab := v }
  | 1 => { r with ops := v }
  | 4 => { r with cha := v }
  | 5 => { r with chd := v }
  | 6 => { r with chc := v }
  | 7 => { r with rbp := v }
  | 8 => { r with tmc := v }
  | 9 => { r with tmr := v }
  | 10 => { r with pc0 := v }
  | 11 => { r with pc1 := v }
  | 12 => { r with pc2 := v }
  | 13 => { r with mmu := v }
  | 14 => { r with lru := v }
  | 15 => { r with rsn := v }
  | 16 => { r with rma0 := v }
  | 17 => { r with rmc0 := v }
  | 18 => { r with rma1 := v }
  | 19 => { r with rmc1 := v }
  | 20 => { r with spc0 := v }
  | 21 => { r with spc1 := v }
  | 22 => { r with spc2 := v }
  | 23 => { r with iba0 := v }
  | 24 => { r with ibc0 := v }
  | 25 => { r with iba1 := v }
  | 26 => { r with ibc1 := v }
  | 128 => { r with ipc := v }
  | 129 => { r with ipa := v }
  | 130 => { r with ipb := v }
  | 131 => { r with q := v }
  | 160 => { r with fpe := v }
  | 161 => { r with inte := v }
  | 162 => { r with fps := v }
  | 164 => { r with exop := v }
  | _ => r

/-- R38 (g), D8: PC0 to PC2 while unfrozen, and SPC0 to SPC2 outside Monitor mode, follow the pipeline: a read is a
free value (log entry 31). -/
def State.pipelineRegister (s : State) (n : Nat) : Bool :=
  (decide (10 ≤ n ∧ n ≤ 12) && !s.frozen) || (decide (20 ≤ n ∧ n ≤ 22) && !s.mm)

/-- R450: `ReadSR`. An unimplemented number reads a free value (R63, R74; log entry 35). -/
def State.readSpecial (s : State) (sa : Byte) : Word × State :=
  let n := sa.toNat
  if s.pipelineRegister n then (alignWord (Config.freeWord s.fresh), { s with fresh := s.fresh + 1 })
  else if n = 2 then (s.cpsRead, s)
  else if n = 3 then ((Config.prl.setWidth 32 <<< 24) ||| s.sr.cfg, s)
  else if n = 132 then (s.alu, s)
  else if n = 133 then (fieldOf s.alu 5 2, s)
  else if n = 134 then (fieldOf s.alu 0 5, s)
  else if n = 135 then (fieldOf s.sr.chc 16 8, s)
  else
    match s.sr.get n with
    | some v => (v, s)
    | none => s.drawWord

/-- R456 (b), R38 (g): FZ going from 0 to 1 freezes PC0 to PC2 at values of the pipeline: free values (log entry
31). -/
def State.freezePcs (s : State) : State :=
  { s with
    sr := { s.sr with
      pc0 := alignWord (Config.freeWord s.fresh)
      pc1 := alignWord (Config.freeWord (s.fresh + 1))
      pc2 := alignWord (Config.freeWord (s.fresh + 2)) }
    fresh := s.fresh + 3 }

/-- R456 (f), D16: after RE, PI or SM changed, the old bits serve the fetches of up to four more instructions, how
many is a free choice for each change (log entry 11). One that takes effect at once ends the delay of earlier ones. -/
def State.delayFetchBits (s old : State) : State :=
  if s.eRE = old.eRE ∧ s.ePI = old.ePI ∧ s.eSM = old.eSM then s
  else
    let k := Config.freeChoice s.fresh % 5
    { s with
      oldFetch := if k = 0 then [] else ⟨old.eRE, old.ePI, old.eSM, k⟩ :: old.oldFetch
      fresh := s.fresh + 1 }

/-- R455, R456: CPS written by MTSR: MM is read-only, IP is not stored; the FZ window of R783 opens when FZ goes from 1
to 0. -/
def State.writeCps (s : State) (v : Word) : State :=
  let t := { s with cps := (s.cps &&& 0x00010000) ||| (v &&& 0x0000BFFF) }
  let t1 := if bitOf s.cps 10 && !bitOf t.cps 10 then { t with fzWindow := 3 } else t
  let t2 := if !s.frozen && t1.frozen then t1.freezePcs else t1
  t2.delayFetchBits s

/-- R781, R782: the delayed effects of a move to a special register. -/
def State.specialHazard (s : State) (n : Nat) (old : Word) : State :=
  match n with
  | 13 => if fieldOf s.sr.mmu 8 2 = fieldOf old 8 2 then s else { s with hzNext := { s.hzNext with ps := true } }
  | 128 => { s with hzNext := { s.hzNext with ipc := true } }
  | 129 => { s with hzNext := { s.hzNext with ipa := true } }
  | 130 => { s with hzNext := { s.hzNext with ipb := true } }
  | _ => s

/-- R455: what stops a write: registers 112 to 127 (U8) and the unimplemented protected numbers (U9). -/
def writeFault (sa : Byte) : Option Fault :=
  let n := sa.toNat
  if 112 ≤ n ∧ n ≤ 127 then some .testRegisterWrite
  else if (27 ≤ n ∧ n ≤ 111) ∨ 165 ≤ n then some .unimplementedSpecial
  else none

/-- R455: `WriteSR`. -/
def State.writeSpecial (s : State) (sa : Byte) (v : Word) : State :=
  let n := sa.toNat
  if n = 2 then s.writeCps v
  else if n = 3 then { s with sr := { s.sr with cfg := v &&& 0xFF } }
  else if n = 132 then { s with alu := v &&& 0xFFF }
  else if n = 133 then { s with alu := putField s.alu 5 2 v }
  else if n = 134 then { s with alu := putField s.alu 0 5 v }
  else if n = 135 then { s with sr := { s.sr with chc := putField s.sr.chc 16 8 v } }
  else { s with sr := s.sr.put n (v &&& writableBits n) }.specialHazard n s.sr.mmu

/-- R450, R451, R665 (2): the privilege check of a special-register move. -/
def State.specialProtected (s : State) (sa : Byte) : Bool := s.user && protectedSpecial sa

/-- MTSR and MTSRIM (R451, R452) behind their checks. -/
def State.moveToSpecial (s : State) (sa : Byte) (v : Word) : Except Stop Done :=
  if forbiddenSpecial sa && !s.user then .error (.fault .unimplementedSpecial)
  else
    match writeFault sa with
    | some f => .error (.fault f)
    | none => .ok (if sa = 2#8 then .status (s.writeSpecial sa v) else .seq (s.writeSpecial sa v))

/-- MFSR (R450). -/
def execMfsr (rc sa : Byte) (s : State) : Out :=
  let r := s.readSpecial sa
  finish (Instr.mfsr rc sa).opcode (s.guarded (s.specialProtected sa) [⟨.c, rc, .dst .other⟩]
    (if forbiddenSpecial sa && !s.user then .error (.fault .unimplementedSpecial)
     else .ok (.seq (r.2.putGR .other (s.absReg .c rc) r.1))))

/-- MTSR (R451). -/
def execMtsr (sa rb : Byte) (s : State) : Out :=
  finish (Instr.mtsr sa rb).opcode (s.guarded (s.specialProtected sa) [⟨.b, rb, .src⟩]
    (s.moveToSpecial sa (s.src .b rb)))

/-- MTSRIM (R452): the constant is zero-extended. -/
def execMtsrim (sa : Byte) (i : BitVec 16) (s : State) : Out :=
  finish (Instr.mtsrim sa i).opcode (s.guarded (s.specialProtected sa) [] (s.moveToSpecial sa (i.setWidth 32)))

/-- The TLB register number, bits 6-0 of SRCA (R453). -/
def tlbNumber (w : Word) : Nat := (fieldOf w 0 7).toNat

/-- MFTLB (R453): Supervisor or Monitor mode only. -/
def execMftlb (rc ra : Byte) (s : State) : Out :=
  finish (Instr.mftlb rc ra).opcode (s.guarded s.user [⟨.a, ra, .src⟩, ⟨.c, rc, .dst .other⟩]
    (.ok (.seq (s.setDest .other rc (s.readTlb (tlbNumber (s.src .a ra)))))))

/-- MTTLB (R454): Supervisor or Monitor mode only. -/
def execMttlb (ra rb : Byte) (s : State) : Out :=
  finish (Instr.mttlb ra rb).opcode (s.guarded s.user [⟨.a, ra, .src⟩, ⟨.b, rb, .src⟩]
    (.ok (.seq (s.writeTlb (tlbNumber (s.src .a ra)) (s.src .b rb)))))

end Sys2Proof.Machine
end

