-- ==== Sys2Proof/Machine/Overlap.lean ====
section
/-! DEFINITION. What the delay between an access answered with DERR and its trap needs to know of an instruction: the
registers it reads and writes, and whether it waits for the access (60_exceptions.md R690, 70_reset_and_hazards.md
R790). -/

namespace Sys2Proof.Machine

/-- R690 (i), (iii): the instruction waits until the data access in progress has ended: a load or store (R790 (b)), or one
that serializes with it (R790 (c) 1). -/
def waitsForAccess : Instr → Bool
  | .load _ _ _ | .loadl _ _ _ | .loadset _ _ _ | .loadm _ _ _ | .store _ _ _ | .storel _ _ _ | .storem _ _ _ => true
  | .mtsr _ _ | .mtsrim _ _ | .mttlb _ _ | .iret | .iretinv | .halt => true
  | .add _ _ _ | .addc _ _ _ | .addcs _ _ _ | .addcu _ _ _ | .adds _ _ _ | .addu _ _ _ | .sub _ _ _ | .subc _ _ _
  | .subcs _ _ _ | .subcu _ _ _ | .subs _ _ _ | .subu _ _ _ | .subr _ _ _ | .subrc _ _ _ | .subrcs _ _ _
  | .subrcu _ _ _ | .subrs _ _ _ | .subru _ _ _ | .mul _ _ _ | .mull _ _ _ | .mulu _ _ _ | .div0 _ _ | .div _ _ _
  | .divl _ _ _ | .divrem _ _ _ | .multiply _ _ _ | .multiplu _ _ _ | .multm _ _ _ | .multmu _ _ _ | .divide _ _ _
  | .dividu _ _ _ => false
  | .cpeq _ _ _ | .cpneq _ _ _ | .cplt _ _ _ | .cpltu _ _ _ | .cple _ _ _ | .cpleu _ _ _ | .cpgt _ _ _
  | .cpgtu _ _ _ | .cpge _ _ _ | .cpgeu _ _ _ | .cpbyte _ _ _ | .aseq _ _ _ | .asneq _ _ _ | .aslt _ _ _
  | .asltu _ _ _ | .asle _ _ _ | .asleu _ _ _ | .asgt _ _ _ | .asgtu _ _ _ | .asge _ _ _ | .asgeu _ _ _ => false
  | .and _ _ _ | .andn _ _ _ | .nand _ _ _ | .nor _ _ _ | .or _ _ _ | .orn _ _ _ | .xnor _ _ _ | .xor _ _ _
  | .sll _ _ _ | .srl _ _ _ | .sra _ _ _ | .extract _ _ _ => false
  | .exbyte _ _ _ | .exhw _ _ _ | .exhws _ _ | .inbyte _ _ _ | .inhw _ _ _ | .mfsr _ _ | .mftlb _ _ | .const _ _
  | .consth _ _ | .consthz _ _ | .constn _ _ => false
  | .fadd _ _ _ | .dadd _ _ _ | .fsub _ _ _ | .dsub _ _ _ | .fmul _ _ _ | .dmul _ _ _ | .fdiv _ _ _ | .ddiv _ _ _
  | .fdmul _ _ _ | .feq _ _ _ | .deq _ _ _ | .fgt _ _ _ | .dgt _ _ _ | .fge _ _ _ | .dge _ _ _ | .fmac _ _ _
  | .dmac _ _ _ | .fmsm _ _ _ | .dmsm _ _ _ | .convert _ _ _ | .sqrt _ _ _ | .classify _ _ _ | .mtacc _ _ _
  | .mfacc _ _ _ => false
  | .call _ _ _ | .calli _ _ | .jmp _ _ | .jmpf _ _ _ | .jmpfdec _ _ _ | .jmpfi _ _ | .jmpi _ | .jmpt _ _ _
  | .jmpti _ _ => false
  | .clz _ _ | .emulate _ _ _ | .setip _ _ _ | .inv => false

/-- The register fields an instruction uses, as its meaning does. -/
def State.regUses (s : State) : Instr → List RegUse
  | .add rc ra b | .addc rc ra b | .addcs rc ra b | .addcu rc ra b | .adds rc ra b | .addu rc ra b | .sub rc ra b
  | .subc rc ra b | .subcs rc ra b | .subcu rc ra b | .subs rc ra b | .subu rc ra b | .subr rc ra b | .subrc rc ra b
  | .subrcs rc ra b | .subrcu rc ra b | .subrs rc ra b | .subru rc ra b | .mul rc ra b | .mull rc ra b
  | .mulu rc ra b | .div rc ra b | .divl rc ra b | .divrem rc ra b | .and rc ra b | .andn rc ra b | .nand rc ra b
  | .nor rc ra b | .or rc ra b | .orn rc ra b | .xnor rc ra b | .xor rc ra b => usesRRM .alu rc ra b
  | .cpeq rc ra b | .cpneq rc ra b | .cplt rc ra b | .cpltu rc ra b | .cple rc ra b | .cpleu rc ra b | .cpgt rc ra b
  | .cpgtu rc ra b | .cpge rc ra b | .cpgeu rc ra b | .cpbyte rc ra b | .sll rc ra b | .srl rc ra b | .sra rc ra b
  | .extract rc ra b | .exbyte rc ra b | .exhw rc ra b | .inbyte rc ra b | .inhw rc ra b => usesRRM .other rc ra b
  | .div0 rc b => opndUses b ++ [⟨.c, rc, .dst .alu⟩]
  | .clz rc b => opndUses b ++ [⟨.c, rc, .dst .other⟩]
  | .multiply rc ra rb | .multiplu rc ra rb | .multm rc ra rb | .multmu rc ra rb => usesMultiply rc ra rb
  | .divide rc ra rb | .dividu rc ra rb | .setip rc ra rb => usesNumbers rc ra rb
  | .aseq _ ra b | .asneq _ ra b | .aslt _ ra b | .asltu _ ra b | .asle _ ra b | .asleu _ ra b | .asgt _ ra b
  | .asgtu _ ra b | .asge _ ra b | .asgeu _ ra b => [⟨.a, ra, .src⟩] ++ opndUses b
  | .load _ ra b | .loadl _ ra b | .loadset _ ra b | .loadm _ ra b => usesLoad ra b
  | .store _ ra b | .storel _ ra b | .storem _ ra b => usesStore ra b
  | .exhws rc ra | .mftlb rc ra => [⟨.a, ra, .src⟩, ⟨.c, rc, .dst .other⟩]
  | .mfsr rc _ => [⟨.c, rc, .dst .other⟩]
  | .mtsr _ rb | .jmpi rb => [⟨.b, rb, .src⟩]
  | .mttlb ra rb | .jmpfi ra rb | .jmpti ra rb => [⟨.a, ra, .src⟩, ⟨.b, rb, .src⟩]
  | .const ra _ | .consthz ra _ | .constn ra _ => [⟨.a, ra, .dst .constant⟩]
  | .consth ra _ => [⟨.a, ra, .src⟩, ⟨.a, ra, .dst .constant⟩]
  | .fadd rc ra rb | .fsub rc ra rb | .fmul rc ra rb | .fdiv rc ra rb | .feq rc ra rb | .fgt rc ra rb | .fge rc ra rb
  | .fmsm rc ra rb => usesFp .single .single rc ra rb
  | .dadd rc ra rb | .dsub rc ra rb | .dmul rc ra rb | .ddiv rc ra rb | .dmsm rc ra rb =>
    usesFp .double .double rc ra rb
  | .fdmul rc ra rb => usesFp .single .double rc ra rb
  | .deq rc ra rb | .dgt rc ra rb | .dge rc ra rb => usesFp .double .single rc ra rb
  | .fmac fn ra rb => usesMac .fpuSrc fn ra rb
  | .dmac fn ra rb => usesMac .doubleSrc fn ra rb
  | .convert rc ra fn => [⟨.a, ra, srcUse (fmtOf (fsField fn))⟩, ⟨.c, rc, dstUse (fmtOf (fdField fn))⟩]
  | .sqrt rc ra fn => [⟨.a, ra, srcUse (fmtOf (fsField fn))⟩, ⟨.c, rc, dstUse (fmtOf (fsField fn))⟩]
  | .classify rc ra fn => [⟨.a, ra, srcUse (fmtOf (fsField fn))⟩, ⟨.c, rc, .dst .fpu⟩]
  | .mtacc _ ra fn => [⟨.a, ra, srcUse (s.moveFmt fn)⟩]
  | .mfacc rc _ fn => [⟨.c, rc, dstUse (s.moveFmt fn)⟩]
  | .call _ ra _ => [⟨.a, ra, .dst .other⟩]
  | .calli ra rb => [⟨.b, rb, .src⟩, ⟨.a, ra, .dst .other⟩]
  | .jmpf _ ra _ | .jmpt _ ra _ => [⟨.a, ra, .src⟩]
  | .jmpfdec _ ra _ => [⟨.a, ra, .src⟩, ⟨.a, ra, .dst .other⟩]
  | .emulate _ ra rb => [⟨.a, ra, .number⟩, ⟨.b, rb, .number⟩]
  | .jmp _ _ | .mtsrim _ _ | .inv | .iret | .iretinv | .halt => []

/-- The register use reads register `r`. -/
def State.useReads (s : State) (r : Byte) (u : RegUse) : Bool :=
  let n := s.absReg u.pos u.field
  match u.use with
  | .src | .fpuSrc => n == r
  | .doubleSrc => n == r || n + 1 == r
  | .dst _ | .doubleDst | .number => false

/-- The register use writes register `r`. -/
def State.useWrites (s : State) (r : Byte) (u : RegUse) : Bool :=
  let n := s.absReg u.pos u.field
  match u.use with
  | .dst _ => n == r
  | .doubleDst => n == r || n + 1 == r
  | .src | .fpuSrc | .doubleSrc | .number => false

/-- R690 (i) to (iii): the instruction may not execute before the trap of the pending event: it waits for the access, or
reads the register the load has not written. -/
def State.heldByAccess (s : State) (i : Instr) : Bool :=
  waitsForAccess i ||
    match s.derrLoad with
    | some r => (s.regUses i).any (s.useReads r)
    | none => false

/-- R690: an instruction that wrote the register of the faulted load, in a state `t` after it: CHC.NN is set, unless the
channel registers are frozen. -/
def State.noteOverwritten (s : State) (i : Instr) (t : State) : State :=
  match s.derrLoad with
  | some r =>
    if (s.regUses i).any (s.useWrites r) && !s.frozen then { t with sr := { t.sr with chc := putBit t.sr.chc 1 true } }
    else t
  | none => t

end Sys2Proof.Machine
end

