-- ==== Sys2Proof/Machine/Sequence.lean ====
section
/-! DEFINITION. Sequencing: the inputs of a step, the decision made before every instruction, and what a step does
around the execution of an instruction (00_scope.md R8, 60_exceptions.md R647, R720, R740 to R745,
70_reset_and_hazards.md R760, R761). -/

namespace Sys2Proof.Machine

/-- The levels of an input record held for another step, without its events (log entry 14). -/
def Input.hold (i : Input) : Input :=
  { i with warn := false, reset := false, ierr := false, derr := none, vectorDerr := false, cycles := 0 }

/-- The next input record: the schedule's, or the present levels held. -/
def State.nextInput (s : State) : Input :=
  match s.inputs with
  | [] => s.cur.hold
  | i :: _ => i

/-- R8 (1): the inputs of this step are sampled; a WARN edge is latched (10_state.md R136). -/
def State.sample (s : State) : State :=
  { s with
    cur := s.nextInput
    inputs := s.inputs.tail
    warnPending := s.warnPending || s.nextInput.warn
    accesses := 0 }

/-- R760, R761: RESET replaces the whole processor state; the memories and the platform's inputs are not touched, and
CNTL chooses the mode of operation (CNTL = 00 is U23). -/
def State.resetInput (s : State) : Out :=
  let t := { State.reset with
    idmem := s.idmem, imem := s.imem, irom := s.irom, holes := s.holes, cur := s.cur, inputs := s.inputs, fresh := s.fresh }
  if s.cur.cntl = 3 then .next t
  else if s.cur.cntl = 2 then .next { t with opMode := .halted, debugger := true }
  else if s.cur.cntl = 1 then .next { t with opMode := .stepping }
  else .refused .controlInput

/-- R660 (c), (e): a data access or coprocessor exception is due, by the event or by CHC.TF with DA = 0. -/
def State.accessException (s : State) : Option Byte :=
  match s.derrEvent with
  | some vn => some vn
  | none => if s.tf && !s.da then some (if bitOf s.sr.chc 31 then 4 else 7) else none

/-- R642 (a), R710: the highest-priority active and enabled interrupt input. -/
def State.activeInterrupt (s : State) : Option Nat :=
  (List.range 4).find? fun n => s.cur.intr.getLsbD n && s.intrEnabled n

/-- R720: the Timer interrupt is due. -/
def State.timerDue (s : State) : Bool := bitOf s.sr.tmr 25 && bitOf s.sr.tmr 24 && !s.da

/-- R647: the asynchronous interrupt or trap of priority 5 to 12 that is taken now, outside Monitor mode: its vector. -/
def State.otherDue (s : State) : Option Byte :=
  if s.cur.trap.getLsbD 0 && !s.da then some 20
  else if s.cur.trap.getLsbD 1 && !s.da then some 21
  else
    match s.activeInterrupt with
    | some n => some (BitVec.ofNat 8 (16 + n))
    | none =>
      if s.timerDue then some 14
      else if s.tp then some 15
      else none

/-- R647: the asynchronous interrupt or trap that is taken, outside Monitor mode: its vector. -/
def State.asyncDue (s : State) : Option Byte :=
  match s.accessException with
  | some vn => some vn
  | none => s.otherDue

/-- R660 (d): the trap of an access answered with DERR, which ends the event; in Monitor mode another Monitor trap
(R702). -/
def State.takeDerr (s : State) (vn : Byte) : Out :=
  let t := { s with derrEvent := none }
  if s.mm then .next t.monitorAgain else t.takeTrap vn .async

/-- The instruction at `pc`, if it is fetched without a trap, meets no breakpoint and decodes. -/
def State.upcoming (s : State) : Option Instr :=
  match s.fetch with
  | .ok w t => if t.breakpoints.1 then none else (decode w).toOption
  | .trap _ _ => none
  | .fault _ => none

/-- R690 (iv): between `s` and `t` an interrupt or trap was taken; an instruction that does not wait for the access
changes neither DA nor MM otherwise (R681, R700). -/
def State.trapped (s t : State) : Bool := t.da != s.da || t.mm != s.mm

/-- R690: a step while the trap of an access answered with DERR is outstanding. One more instruction executes, if the
number drawn for the delay is not reached, nothing else is due, and the instruction neither waits for the access nor
traps (one whose trap could not be entered, in Monitor mode or for want of its vector, among them); else the trap is
taken before it. -/
def State.overlap (s : State) (vn : Byte) (run : State → Out) : Out :=
  if s.derrLeft = 0 || (!s.mm && (s.otherDue.isSome || s.wm)) then s.takeDerr vn
  else
    match s.upcoming with
    | none => s.takeDerr vn
    | some i =>
      if s.heldByAccess i then s.takeDerr vn
      else
        match run { s with derrLeft := s.derrLeft - 1 } with
        | .next t => if s.trapped t then s.takeDerr vn else .next (s.noteOverwritten i t)
        | .fault .ignoredTrap => s.takeDerr vn
        | .fault .vectorFetchError => s.takeDerr vn
        | o => o

/-- R647, R740: the decision made before each instruction; `run` executes the instruction at `pc`. WARN comes first and
is decided by the caller. While the event of a DERR answer is outstanding CHC.TF, the level of R660 (e), is not looked
at. DEDUCED (log entry 16). -/
def State.decision (s : State) (run : State → Out) : Out :=
  match s.derrEvent with
  | some vn => s.overlap vn run
  | none =>
    if s.mm then run s
    else
      match s.asyncDue with
      | some vn => s.takeTrap vn .async
      | none => if s.wm then .next s else run s

/-- R731, R742: the breakpoint trap; with a debugger attached the processor halts at the handler. -/
def State.takeBreakpoint (s : State) : Out :=
  match s.takeTrap 15 .curr with
  | .next t => .next (if t.debugger then { t with opMode := .halted } else t)
  | o => o

/-- R246: an operation code reserved for emulation: the bank check (D18), then the pointers and the trap. -/
def State.takeEmulation (s : State) (op vn : Byte) (w : Word) : Out :=
  finish op (s.guarded false (usesNumbers (cField w) (aField w) (bField w))
    (.error (.trap vn .next (s.setPointers (cField w) (aField w) (bField w)))))

/-- R243: a fetched word is decoded; an instruction is executed by `exec`, other words trap (R245, R246). -/
def State.executeWord (s : State) (w : Word) (exec : Instr → State → Out) : Out :=
  match decode w with
  | .ok i => exec i s
  | .error (.illegalOpcode op) => s.takeInstTrap op 0 .curr
  | .error (.reservedForEmulation op vn) => s.takeEmulation op vn w

/-- R8 (2) to (4), R243: fetch, breakpoint comparison, decode, execution. -/
def State.fetchExecute (exec : Instr → State → Out) (s : State) : Out :=
  match s.fetch with
  | .trap vn t => t.takeFetchTrap vn
  | .fault f => .fault f
  | .ok w t =>
    let b := t.breakpoints
    if b.1 then b.2.takeBreakpoint else b.2.executeWord w exec

/-- R607: after HALT, the fetch of the next instruction may trap first; then the processor is in Halt mode. -/
def State.enterHalt (s : State) : Out :=
  match s.fetch with
  | .trap vn t =>
    match t.takeFetchTrap vn with
    | .next u => .next { u with opMode := .halted }
    | o => o
  | .fault f => .fault f
  | .ok _ _ => .next { s with opMode := .halted }

/-- What the CNTL inputs and the mode of operation make of a step (R742, R743, R745). -/
inductive Control where
  /-- The processor operates. -/
  | run (s : State)
  /-- It enters Halt mode after a HALT. -/
  | halting (s : State)
  /-- It is stopped. -/
  | idle (s : State)
  /-- The platform did what it must not. -/
  | refuse (r : Refusal)
deriving DecidableEq, Repr

/-- R743, U23: the transition of CNTL from the step before is not allowed: both inputs changed. -/
def cntlBroken (prev c : BitVec 2) : Bool := prev ^^^ c = 3

/-- R742 to R745: `prev` is the CNTL value of the step before. Log entry 34. -/
def State.control (s : State) (prev : BitVec 2) : Control :=
  let c := s.cur.cntl
  if c = 0 then .refuse .loadTestMode
  else if c = 1 then .idle { s with opMode := .stepping }
  else if c = 2 then .idle { s with opMode := .halted }
  else
    match s.opMode with
    | .executing => .run s
    | .haltPending => .halting s
    | .halted => if prev = 2 then .run { s with opMode := .executing } else .idle s
    | .stepping => if prev = 1 then .run s else .idle s

/-- R720: the Timer Facility runs for the cycles of the step. -/
def tickedOut (o : Out) (cycles : Nat) : Out :=
  match o with
  | .next t => .next (timerTicks (cycles + 1) t)
  | .fault f => .fault f
  | .refused r => .refused r

/-- One step (R8): inputs, reset, the transition of CNTL, WARN (R705; CNTL = 00 with it is U23), the mode of operation,
the decision, and the timer. -/
def stepWith (exec : Instr → State → Out) (s0 : State) : Out :=
  let s := s0.sample
  if s.cur.reset then s.resetInput
  else if cntlBroken s0.cur.cntl s.cur.cntl then .refused .controlInput
  else if s.warnPending && s.cur.cntl = 0 then .refused .controlInput
  else if s.warnPending then tickedOut (.next s.takeWarn) s.cur.cycles
  else
    match s.control s0.cur.cntl with
    | .run t => tickedOut (t.decision (State.fetchExecute exec)) s.cur.cycles
    | .halting t => t.enterHalt
    | .idle t => .next t
    | .refuse r => .refused r

/-- A word stored where the next instruction is fetched: in the memory that serves the fetch, with nothing old in the
Branch Target Cache, among the prefetched words or fetched early (log entry 43). -/
def State.placeWord (s : State) (w : Word) : State :=
  let t := { s with btc := { s.btc with blocks := Btc.reset.blocks }, prefetched := [], early := [] }
  match t.fetchPlace with
  | .at .irom p _ => { t with irom := writeWord s.irom p w }
  | .at .idmem p _ =>
    match s.imem with
    | some m => { t with imem := some (writeWord m p w) }
    | none => { t with idmem := writeWord s.idmem p w }
  | _ => t

end Sys2Proof.Machine
end

