-- ==== Sys2Proof/Machine/Step.lean ====
section
/-! DEFINITION. The step of the machine, and an instruction word placed where the next step fetches. -/

namespace Sys2Proof.Machine

/-- One step: the inputs, the decision made before every instruction, and the instruction (00_scope.md R8). -/
def step (s : State) : Host.Outcome State Fault Refusal := stepWith exec s

/-- The instruction with bits `w` (a word; `nbits` of them given) stored where the next step fetches (log entry 43). -/
def State.withFetchWord (s : State) (nbits w : Nat) : State := s.placeWord (BitVec.ofNat 32 (w % 2 ^ nbits))

end Sys2Proof.Machine
end

