-- ==== Sys2Proof/Safety.lean ====
section
/-! DEFINITION. The terms statements about the machine are made in: what an instruction leaves as it was, how control
goes on, and the invariant of the machine's state. -/

namespace Sys2Proof.Machine

/-! ### What an instruction leaves as it was -/

/-- The registers a write to a destination can change: the register, or through gr3 the accumulator (10_state.md R30). -/
def touched (d : Byte) : List Byte := if d = 3#8 then [2#8] else [d]

/-- Every general register outside a list reads as before. -/
def State.RegsExcept (s t : State) (ds : List Byte) : Prop := ∀ n, n ∉ ds → t.getGR n = s.getGR n

/-- A destination holds a result: itself, or shifted into the accumulator through gr3 (R30). -/
def State.ResultIn (s t : State) (d : Byte) (v : Word) : Prop :=
  if d = 3#8 then t.getGR 2#8 = (s.getGR 2#8 <<< 1) ||| (v >>> 31) else t.getGR d = v

/-- Every byte of the memories reads as before. -/
def State.SameMemory (s t : State) : Prop :=
  ∀ a, readByte t.idmem a = readByte s.idmem a ∧ readByte t.irom a = readByte s.irom a ∧ t.imem = s.imem

/-- Accumulators and TLB are as before. -/
def State.SameUnits (s t : State) : Prop := t.acc = s.acc ∧ t.tlb = s.tlb ∧ t.tlbUsage = s.tlbUsage

/-- A completed instruction copies CPS.TE to CPS.TP, in a CPS that it leaves at `c` itself; in Monitor mode a TP that is
1 stays (60_exceptions.md R730, R702 (d); log entry 24). -/
def State.withTrace (s : State) (c : Word) : Word := putBit c 12 (s.te || (s.mm && s.tp))

/-- The next instruction in line is executed next; CPS is as before but for the trace copy. -/
def State.FallsThrough (s t : State) : Prop :=
  t.pc = s.npc ∧ t.npc = s.npc + 4 ∧ t.cps = s.withTrace s.cps

/-- A taken branch: the instruction after the branch, then the target (10_state.md R37). -/
def State.BranchesTo (s t : State) (target : Word) : Prop :=
  t.pc = s.npc ∧ t.npc = alignWord target ∧ t.cps = s.withTrace s.cps

/-- One register is written and nothing else of what a program sees, except what ALU holds. -/
structure State.Writes (s t : State) (d : Byte) (v : Word) : Prop where
  result : s.ResultIn t d v
  others : s.RegsExcept t (touched d)
  memory : s.SameMemory t
  special : t.sr = s.sr
  units : s.SameUnits t

/-- No general register, memory byte, special register, accumulator or TLB register changes. -/
structure State.SameData (s t : State) : Prop where
  regs : s.RegsExcept t []
  memory : s.SameMemory t
  special : t.sr = s.sr
  alu : t.alu = s.alu
  units : s.SameUnits t

/-- The special registers are as before but for Q (40_integer_arithmetic.md R304 (d)). -/
def State.SameSpecialButQ (s t : State) : Prop := { t.sr with q := s.sr.q } = s.sr

/-- The special registers are as before but for FPS. -/
def State.SameSpecialButFps (s t : State) : Prop := { t.sr with fps := s.sr.fps } = s.sr

/-- The special registers are as before but for the indirect pointers. -/
def State.SameSpecialButPointers (s t : State) : Prop :=
  { t.sr with ipa := s.sr.ipa, ipb := s.sr.ipb, ipc := s.sr.ipc } = s.sr

/-- The special registers are as before but for the channel registers (20_memory.md R171). -/
def State.SameSpecialButChannel (s t : State) : Prop :=
  { t.sr with cha := s.sr.cha, chd := s.sr.chd, chc := s.sr.chc } = s.sr

/-! ### Completion and trap entry, as statements use them -/

/-- An instruction completes and the next one in line follows; `P` says what it leaves. -/
def Completes (i : Instr) (s : State) (P : State → Prop) : Prop := ∃ t, exec i s = .next t ∧ s.FallsThrough t ∧ P t

/-- No general register, memory byte, accumulator or TLB register changes. -/
def State.SameGeneral (s t : State) : Prop := s.RegsExcept t [] ∧ s.SameMemory t ∧ s.SameUnits t

/-- An ordinary trap can be entered: not in Monitor mode, DA = 0, and no DERR answers the vector fetch: with CFG.VF = 1
the vector table exists (log entry 47). -/
def State.TrapReady (s : State) : Prop := s.mm = false ∧ s.da = false ∧ ∀ vn, s.vectorFails vn = false

/-- The word of the vector table for a vector number (60_exceptions.md R643). -/
def State.vectorWord (s : State) (vn : Byte) : Word :=
  readWord s.idmem ((s.sr.vab &&& 0xFFFFFC00) ||| (vn.setWidth 32 <<< 2))

/-- The address a trap goes to: from the vector table with CFG.VF = 1, else the vector's block (R643, R644). -/
def State.handlerAddress (s : State) (vn : Byte) : Word :=
  if bitOf s.sr.cfg 4 then s.vectorWord vn &&& 0xFFFFFFFC
  else (s.sr.vab &&& 0xFFFF0000) ||| (vn.setWidth 32 <<< 8)

/-- What an ordinary trap of kind Next leaves, raised in `s` by the instruction at `s.pc` with operation code `op`
(60_exceptions.md R680, R681, R683, R730). -/
structure State.TrapTaken (s t : State) (vn op : Byte) : Prop where
  pc : t.pc = s.handlerAddress vn
  npc : t.npc = t.pc + 4
  exop : t.sr.exop = op.setWidth 32
  spc : t.sr.spc2 = s.pc ∧ t.sr.spc1 = s.npc ∧ t.sr.spc0 = s.npc + 4
  pcs : bitOf s.cps 10 = false → s.fzWindow = 0 → t.sr.pc2 = s.pc ∧ t.sr.pc1 = s.npc ∧ t.sr.pc0 = s.npc + 4
  pcsFrozen : bitOf s.cps 10 = true → t.sr.pc2 = s.sr.pc2 ∧ t.sr.pc1 = s.sr.pc1 ∧ t.sr.pc0 = s.sr.pc0
  ops : t.sr.ops = fieldOf (putBit (putBit s.cps 12 s.te) 14 s.interruptPending) 0 16
  cps : t.cps &&& 0xFFFFFEFF = (s.cps &&& 0x0001C00C) ||| 0x00000473
  re : bitOf t.cps 8 = if bitOf s.sr.cfg 4 then bitOf (s.vectorWord vn) 1 else bitOf s.sr.cfg 3
  alu : t.alu = s.alu
  general : s.SameGeneral t

/-! ### Statement forms for groups of instructions of one shape -/

/-- The flags V, N, Z, C after an instruction that sets them, unless the ALU Status Register is frozen
(40_integer_arithmetic.md R301, R302); the other bits of ALU are as before. -/
def State.FlagsAre (s t : State) (v n z c : Prop) : Prop :=
  if s.frozen then t.alu = s.alu
  else t.alu &&& 0xFFFFF87F = s.alu &&& 0xFFFFF87F ∧ (bitOf t.alu 10 = true ↔ v) ∧ (bitOf t.alu 9 = true ↔ n) ∧
    (bitOf t.alu 8 = true ↔ z) ∧ (bitOf t.alu 7 = true ↔ c)

/-- Two's-complement overflow of `x + y + k` (R301). -/
def signedOver (x y : Word) (k : Nat) : Prop := x.toInt + y.toInt + k < -2 ^ 31 ∨ 2 ^ 31 ≤ x.toInt + y.toInt + k

/-- Carry-out of `x + y + k` (R301). -/
def carryOut (x y : Word) (k : Nat) : Prop := 2 ^ 32 ≤ x.toNat + y.toNat + k

/-- `x + y + k` modulo 2^32 (R301). -/
def sumWord (x y : Word) (k : Nat) : Word := BitVec.ofNat 32 (x.toNat + y.toNat + k)

/-- DEST holds `x + y + k`, V, N, Z, C tell of it, and nothing else has changed (R301, R302). -/
def State.Added (s t : State) (rc : Byte) (x y : Word) (k : Nat) : Prop :=
  let r := sumWord x y k
  s.Writes t (s.absReg .c rc) r ∧
    s.FlagsAre t (signedOver x y k) (bitOf r 31 = true) (r = 0#32) (carryOut x y k)

/-- The operation code of an instruction with an M bit: even for a register, the next one for a constant
(30_encoding.md R231, R237). -/
def HasCode (i : Instr) (op : Byte) : Opnd → Prop
  | .reg _ => i.opcode = op
  | .imm _ => i.opcode = op + 1

/-- An add or subtract instruction: it completes with the sum, unless `bad` of overflow and carry holds. -/
def AddCompletes (i : Instr) (c : WriteClass) (rc ra : Byte) (b : Opnd) (s : State) (x y : Word) (k : Nat)
    (bad : Prop → Prop → Prop) : Prop :=
  s.regStop false (usesRRM c rc ra b) = none → ¬ bad (signedOver x y k) (carryOut x y k) →
    Completes i s fun t => s.Added t rc x y k

/-- An add or subtract instruction that traps: DEST and the flags are written, then the Out of Range trap is taken in
the state reached (40_integer_arithmetic.md R303). -/
def AddTraps (i : Instr) (rc ra : Byte) (b : Opnd) (s : State) (x y : Word) (k : Nat) (bad : Prop → Prop → Prop) :
    Prop :=
  s.regStop false (usesRRM .alu rc ra b) = none → bad (signedOver x y k) (carryOut x y k) →
    ∃ u, exec i s = u.takeInstTrap i.opcode 2 .next ∧ s.Added u rc x y k ∧ u.pc = s.pc ∧ u.npc = s.npc ∧ u.cps = s.cps

/-- A multiply or divide step: DEST, Q and the flags V, N, Z, C and DF (R305); `r` is the sum, `w` the word in DEST, `q`
the new Q. -/
def StepCompletes (i : Instr) (us : List RegUse) (rc : Byte) (s : State) (v c : Prop) (df : Bool) (r w q : Word) :
    Prop :=
  s.regStop false us = none → Completes i s fun t =>
    s.ResultIn t (s.absReg .c rc) w ∧ s.RegsExcept t (touched (s.absReg .c rc)) ∧ s.SameMemory t ∧ s.SameUnits t ∧
    t.sr.q = q ∧ s.SameSpecialButQ t ∧
    (if s.frozen then t.alu = s.alu
     else t.alu &&& 0xFFFFF07F = s.alu &&& 0xFFFFF07F ∧ (bitOf t.alu 10 = true ↔ v) ∧ bitOf t.alu 9 = bitOf r 31 ∧
      (bitOf t.alu 8 = true ↔ w = 0#32) ∧ (bitOf t.alu 7 = true ↔ c) ∧ bitOf t.alu 11 = df)

/-- A register instruction that changes no flag: it completes with its result in DEST and nothing else changed. -/
def PlainCompletes (i : Instr) (us : List RegUse) (d : Byte) (s : State) (v : Word) : Prop :=
  s.regStop false us = none → Completes i s fun t => s.Writes t d v ∧ t.alu = s.alu

/-! ### Branches, data accesses and floating-point results -/

/-- A taken branch is not U25: no page-size change right before it, or its target, fetched after the delay instruction,
is not translated (70_reset_and_hazards.md R782, D16). -/
def State.BranchReady (s : State) : Prop :=
  s.hz.ps = true → s.ageOldFetch.fetchPI = true ∨ s.ageOldFetch.fetchRE = true

/-- What every completed data access leaves: the next instruction in line, CPS.CA after a coprocessor transfer with SA
(44_data_movement.md R439), ALU.BP after an access with SB = 1 unless frozen (20_memory.md R165, R168). -/
structure State.AccessDone (s t : State) (ctl : Byte) (load : Bool) (addr : Word) : Prop where
  pc : t.pc = s.npc ∧ t.npc = s.npc + 4
  cps : t.cps = s.withTrace (if ctl.getLsbD 7 && ctl.getLsbD 5 then putBit s.cps 15 (!load) else s.cps)
  alu : t.alu =
    if !ctl.getLsbD 7 && ctl.getLsbD 4 && !s.frozen then
      (s.alu &&& 0xFFFFFF9F) |||
        ((if bitOf s.sr.cfg 5 then (if bitOf s.sr.cfg 2 then 0 else 3) else addr &&& 3) <<< 5)
    else s.alu
  units : t.acc = s.acc ∧ t.tlb = s.tlb

/-- CHC of a single access, complete or with CV = 1 (20_memory.md R171): control byte, LS, ST, LA and TR of the access, CR
and TF as before, ML = NN = 0. -/
def State.channelWord (s : State) (ctl : Byte) (load set lock cv : Bool) (reg : Byte) : Word :=
  (ctl.setWidth 32 <<< 24) ||| (s.sr.chc &&& 0x00FF0400) ||| (if load then 0x8000 else 0) |||
    (if set then 0x2000 else 0) ||| (if lock then 0x1000 else 0) ||| (reg.setWidth 32 <<< 2) ||| (if cv then 1 else 0)

/-- The channel registers after a completed single access (20_memory.md R171): unchanged while frozen, else they
describe it, with CV = ML = NN = 0 and CR and TF as before. -/
def State.ChannelTells (s t : State) (ctl : Byte) (load set lock : Bool) (reg : Byte) (addr : Word) : Prop :=
  s.SameSpecialButChannel t ∧
    if s.frozen then t.sr = s.sr
    else t.sr.cha = addr ∧ t.sr.chc = s.channelWord ctl load set lock false reg

/-- The special registers after a single access that was not performed (R170, R171, 60_exceptions.md R684): the channel
registers are as before while frozen, else they describe it with CV = 1, CHD too of a store; of the others only LRU may
have changed. -/
def State.ChannelWaits (s t : State) (ctl : Byte) (load set lock : Bool) (reg : Byte) (addr data : Word) : Prop :=
  { t.sr with cha := s.sr.cha, chd := s.sr.chd, chc := s.sr.chc, lru := s.sr.lru } = s.sr ∧
    if s.frozen then t.sr.cha = s.sr.cha ∧ t.sr.chd = s.sr.chd ∧ t.sr.chc = s.sr.chc
    else t.sr.cha = addr ∧ t.sr.chc = s.channelWord ctl load set lock true reg ∧ (load = false → t.sr.chd = data)

/-- The word a load gets: what the memory of its space holds; from a device or a coprocessor any word. -/
def State.Answers (s : State) (sp : Space) (p w : Word) : Prop :=
  (sp = .idmem → w = readWord s.idmem p) ∧ (sp = .irom → w = readWord s.irom p)

/-- The bytes of instruction/data memory from `lo` up hold `v`, most significant byte first, and every other byte reads
as before; so does every byte of the ROM and of a separate instruction memory. -/
def State.Stored (s t : State) (lo : Nat) (v : List Byte) : Prop :=
  ∀ a, readByte t.idmem a = (if lo ≤ a ∧ a < lo + v.length then v.getD (a - lo) 0 else readByte s.idmem a) ∧
    readByte t.irom a = readByte s.irom a ∧ t.imem = s.imem

/-- The word, byte or half-word of `w` that a load with these control fields and this address takes, with CFG.DW = 1
(20_memory.md R160, R161, R166). -/
def State.lanesRead (s : State) (ctl : Byte) (addr w : Word) : Word :=
  let big := !bitOf s.sr.cfg 2
  let sub (opt : Byte) : Bool := bitOf s.sr.cfg 5 && ctl &&& 7 == opt && !ctl.getLsbD 7
  let k := if big then 3 - addr.toNat % 4 else addr.toNat % 4
  let h := if big then 1 - addr.toNat / 2 % 2 else addr.toNat / 2 % 2
  if sub 1 then
    let v := BitVec.ofNat 8 (w.toNat / 2 ^ (8 * k))
    if ctl.getLsbD 4 then v.signExtend 32 else v.setWidth 32
  else if sub 2 then
    let v := BitVec.ofNat 16 (w.toNat / 2 ^ (16 * h))
    if ctl.getLsbD 4 then v.signExtend 32 else v.setWidth 32
  else w

/-- What a store of `v` to a place leaves: in instruction/data memory the word, or with CFG.DW = 1 the byte or half-word
that the address selects (R160, R161, R167; the places are log entry 7); the ROM and the devices keep no contents (log
entries 8 and 9). -/
def State.LanesStored (s t : State) (sp : Space) (ctl : Byte) (p v : Word) : Prop :=
  let big := !bitOf s.sr.cfg 2
  let sub (opt : Byte) : Bool := bitOf s.sr.cfg 5 && ctl &&& 7 == opt && !ctl.getLsbD 7
  let pk := if big then p.toNat % 4 else 3 - p.toNat % 4
  let ph := if big then p.toNat / 2 % 2 else 1 - p.toNat / 2 % 2
  let base := p.toNat - p.toNat % 4
  let byte (n : Nat) : Byte := BitVec.ofNat 8 (v.toNat / 2 ^ (8 * n))
  if sp = .idmem then
    if sub 1 then s.Stored t (base + pk) [byte 0]
    else if sub 2 then s.Stored t (base + 2 * ph) [byte 1, byte 0]
    else s.Stored t base [byte 3, byte 2, byte 1, byte 0]
  else s.SameMemory t

/-- ALU after a completed access, from ALU before it: BP after one with SB = 1, unless frozen (R165, R168). -/
def State.aluAfter (s : State) (ctl : Byte) (addr : Word) (frozen : Bool) : Word :=
  if !ctl.getLsbD 7 && ctl.getLsbD 4 && !frozen then
    (s.alu &&& 0xFFFFFF9F) ||| ((if bitOf s.sr.cfg 5 then (if bitOf s.sr.cfg 2 then 0 else 3) else addr &&& 3) <<< 5)
  else s.alu

/-! ### Where an access goes, and what translates it (20_memory.md R152, R175 to R181) -/

/-- The platform's memory map has no such address in a space (00_scope.md R6; log entry 47). -/
def State.Absent (s : State) (sp : MapSpace) (p : Word) : Prop :=
  ∃ h ∈ s.holes, h.space = sp ∧ h.lo ≤ p.toNat ∧ p.toNat < h.hi

/-- An access goes to a place, if the place exists. -/
def State.Goes (s : State) (r : Located) (sp : Space) (m : MapSpace) (p : Word) : Prop :=
  (s.Absent m p → r = .absent s) ∧ (¬ s.Absent m p → r = .found sp p s)

/-- R180, Table 3-12: the protection bits SR SW SE UR UW UE, bits 13 to 8, permit an access. -/
def Permits (w : Word) (user : Bool) : AccessKind → Prop
  | .load => bitOf w (if user then 10 else 13) = true
  | .store => bitOf w (if user then 9 else 12) = true
  | .fetch => bitOf w (if user then 8 else 11) = true
  | .loadset => bitOf w (if user then 10 else 13) = true ∧ bitOf w (if user then 9 else 12) = true

/-- R177: the region that a unit with these registers maps holds the address, for the process number `pn`. -/
def RegionHolds (rma rmc vaddr pn : Word) : Prop :=
  let n := 16 + rmc.toNat / 2 ^ 17 % 16
  bitOf rmc 14 = true ∧ vaddr.toNat / 2 ^ n = rma.toNat / 2 ^ n ∧ rmc &&& 0xFF = pn

/-- U7: a unit is enabled and has bits of VBA or PBA below its region size that are not 0 (10_state.md R58). -/
def RegionBroken (rma rmc : Word) : Prop :=
  let g := rmc.toNat / 2 ^ 17 % 16
  bitOf rmc 14 = true ∧ (rma.toNat % 2 ^ g ≠ 0 ∨ rma.toNat / 2 ^ 16 % 2 ^ g ≠ 0)

/-! ### What a step does -/

/-- A step in which the processor operates: no reset, no WARN, CNTL at 11 before and now, Executing mode. -/
structure State.Runs (s : State) : Prop where
  reset : s.sample.cur.reset = false
  warn : s.sample.warnPending = false
  before : s.cur.cntl = 3
  cntl : s.sample.cur.cntl = 3
  mode : s.opMode = .executing

/-- A step that comes to the instruction at `pc`: outside Monitor mode, nothing asynchronous is due and the processor
does not wait (60_exceptions.md R647). -/
structure State.Executes (s : State) : Prop where
  runs : s.Runs
  mm : s.mm = false
  due : s.sample.asyncDue = none
  wm : s.wm = false

/-- The program counters that an interrupt or trap saves before the instruction at `pc` has executed (10_state.md R38
(b), (c), (f), R141): the shadow ones always, PC0 to PC2 unless CPS.FZ is 1. Within two instructions of FZ going from 1
to 0 nothing is said of PC0 to PC2 (U26), nor of the last address after an interrupt return (decision D29). -/
structure State.CountersSaved (s t : State) : Prop where
  spc : t.sr.spc1 = s.pc ∧ t.sr.spc0 = s.npc
  last : s.lastpcKnown = true → t.sr.spc2 = s.lastpc
  pcs : bitOf s.cps 10 = false → s.fzWindow = 0 → t.sr.pc1 = s.pc ∧ t.sr.pc0 = s.npc ∧
    (s.lastpcKnown = true → t.sr.pc2 = s.lastpc)
  frozen : bitOf s.cps 10 = true → t.sr.pc2 = s.sr.pc2 ∧ t.sr.pc1 = s.sr.pc1 ∧ t.sr.pc0 = s.sr.pc0

/-- A step has entered an interrupt or trap before the instruction at `pc` executed: the handler is next, the program
counters are saved, OPS holds CPS with IP by the inputs of the step (60_exceptions.md R680, R710 (d)), no general
register and no memory byte has changed. -/
structure State.Entered (s t : State) (vn : Byte) : Prop where
  pc : t.pc = s.handlerAddress vn
  npc : t.npc = t.pc + 4
  counters : s.CountersSaved t
  ops : t.sr.ops = fieldOf (putBit s.cps 14 s.sample.interruptPending) 0 16
  regs : s.RegsExcept t []
  memory : s.SameMemory t

/-- R731: the instruction at `pc` meets a breakpoint unit. -/
def State.Meets (s : State) (iba ibc : Word) : Prop :=
  iba.toNat / 4 = s.pc.toNat / 4 ∧ bitOf ibc 11 = true ∧ bitOf ibc 9 = bitOf s.cps 8 ∧ bitOf ibc 8 = !bitOf s.cps 5 ∧
    (bitOf s.cps 5 = true ∨ ibc &&& 0xFF = if s.user then s.sr.mmu &&& 0xFF else 0#32)

/-- R731: a unit that is met breaks when BSY is 1 and BHO is 0. -/
def State.Breaks (s : State) (iba ibc : Word) : Prop :=
  s.Meets iba ibc ∧ bitOf ibc 12 = false ∧ bitOf ibc 10 = true

/-- R41, R455: the special registers that are stored by themselves: number, register, and the bits a move writes. -/
def specialTable : List (Nat × (SpecialRegs → Word) × Word) :=
  [(0, (·.vab), 0xFFFFFC00), (1, (·.ops), 0x0000FFFF), (4, (·.cha), 0xFFFFFFFF), (5, (·.chd), 0xFFFFFFFF),
   (6, (·.chc), 0xFFFFF7FF), (7, (·.rbp), 0x0000FFFF), (8, (·.tmc), 0x00FFFFFF), (9, (·.tmr), 0x07FFFFFF),
   (10, (·.pc0), 0xFFFFFFFC), (11, (·.pc1), 0xFFFFFFFC), (12, (·.pc2), 0xFFFFFFFC), (13, (·.mmu), 0x000003FF),
   (14, (·.lru), 0x0000007E), (15, (·.rsn), 0x000000FF), (16, (·.rma0), 0xFFFFFFFF), (17, (·.rmc0), 0x00DF7FFF),
   (18, (·.rma1), 0xFFFFFFFF), (19, (·.rmc1), 0x00DF7FFF), (20, (·.spc0), 0xFFFFFFFC), (21, (·.spc1), 0xFFFFFFFC),
   (22, (·.spc2), 0xFFFFFFFC), (23, (·.iba0), 0xFFFFFFFC), (24, (·.ibc0), 0x00001FFF), (25, (·.iba1), 0xFFFFFFFC),
   (26, (·.ibc1), 0x00001FFF), (128, (·.ipc), 0x000003FC), (129, (·.ipa), 0x000003FC), (130, (·.ipb), 0x000003FC),
   (131, (·.q), 0xFFFFFFFF), (160, (·.fpe), 0x000007FF), (161, (·.inte), 0x00000003), (162, (·.fps), 0x00003F3F),
   (164, (·.exop), 0x000000FF)]

/-- R29: the instructions with a destination that set the shadow Stack Pointer: the integer arithmetic that the ALU
executes, and the logical instructions (the classes are log entry 19). -/
def aluForms (rc ra : Byte) (b : Opnd) : List Instr :=
  [.add rc ra b, .addc rc ra b, .addcs rc ra b, .addcu rc ra b, .adds rc ra b, .addu rc ra b, .sub rc ra b,
   .subc rc ra b, .subcs rc ra b, .subcu rc ra b, .subs rc ra b, .subu rc ra b, .subr rc ra b, .subrc rc ra b,
   .subrcs rc ra b, .subrcu rc ra b, .subrs rc ra b, .subru rc ra b, .mul rc ra b, .mull rc ra b, .mulu rc ra b,
   .div0 rc b, .div rc ra b, .divl rc ra b, .divrem rc ra b, .and rc ra b, .andn rc ra b, .nand rc ra b, .nor rc ra b,
   .or rc ra b, .orn rc ra b, .xnor rc ra b, .xor rc ra b]

/-- The other instructions of format RRM with a destination: compares, shifts, byte and half-word moves. -/
def plainForms (rc ra : Byte) (b : Opnd) : List Instr :=
  [.cpeq rc ra b, .cpneq rc ra b, .cplt rc ra b, .cpltu rc ra b, .cple rc ra b, .cpleu rc ra b, .cpgt rc ra b,
   .cpgtu rc ra b, .cpge rc ra b, .cpgeu rc ra b, .cpbyte rc ra b, .sll rc ra b, .srl rc ra b, .sra rc ra b,
   .extract rc ra b, .exbyte rc ra b, .exhw rc ra b, .inbyte rc ra b, .inhw rc ra b]

/-- Register `j` of a LOADM or STOREM sequence that starts at `r` (44_data_movement.md R438). -/
def sequenceRegister (r : Byte) : Nat → Byte
  | 0 => r
  | j + 1 => nextRegister (sequenceRegister r j)

/-! ### The transfers of LOADM and STOREM, and of a resumed sequence (44_data_movement.md R438) -/

/-- A sequence of transfers: control byte, direction, first register, first address, and CHC when it starts. -/
structure Sequence where
  ctl : Byte
  load : Bool
  first : Byte
  addr : Word
  chc : Word
deriving DecidableEq, Repr

/-- The sequence that a LOADM or STOREM starts. -/
def State.startedSequence (s : State) (ctl ra : Byte) (b : Opnd) (load : Bool) : Sequence :=
  ⟨ctl, load, s.absReg .a ra, s.opnd b, s.channelWord ctl load false false true (s.absReg .a ra) ||| 0x4000⟩

/-- The sequence that the channel registers tell. -/
def State.recordedSequence (s : State) : Sequence :=
  ⟨s.sr.chc.extractLsb' 24 8, bitOf s.sr.chc 15, s.sr.chc.extractLsb' 2 8, s.sr.cha, s.sr.chc⟩

/-- The number of its last transfer, counted from 0: CHC.CR. -/
def Sequence.last (q : Sequence) : Nat := q.chc.toNat / 2 ^ 16 % 2 ^ 8

/-- The register of transfer `j`. -/
def Sequence.reg (q : Sequence) (j : Nat) : Byte := sequenceRegister q.first j

/-- The address of transfer `j`, modulo 2^32. -/
def Sequence.address (q : Sequence) (j : Nat) : Word := q.addr + 4 * BitVec.ofNat 32 j

/-- Transfer `j`; the place of a transfer does not depend on the data. -/
def Sequence.xfer (q : Sequence) (j : Nat) : Xfer := ⟨q.ctl, q.load, false, false, q.reg j, q.address j, 0⟩

/-- A coprocessor transfer without a coprocessor (R439). -/
def Sequence.NoUnit (q : Sequence) (s : State) : Prop := q.ctl.getLsbD 7 = true ∧ bitOf s.sr.cfg 1 = false

/-- The register of transfer `j` lies in no protected bank and is one that a sequence may use (R438; a store may start
at gr2, log entry 48). -/
def Sequence.Usable (q : Sequence) (s : State) (j : Nat) : Prop :=
  s.bankProtected (q.reg j) = false ∧
    (sequenceFault q.load (q.reg j) = none ∨ q.load = false ∧ j = 0 ∧ q.reg j = 2#8)

/-- Transfer `j` is made, at the place `p` of the space `sp`. -/
def Sequence.Made (q : Sequence) (s : State) (sp : Space) (p : Word) (j : Nat) : Prop :=
  q.Usable s j ∧ ¬ q.NoUnit s ∧ (∃ u, s.locate (q.xfer j) = .found sp p u) ∧ s.cur.derr ≠ some (s.accesses + j)

/-- Transfer `j` is answered with DERR. -/
def Sequence.Fails (q : Sequence) (s : State) (j : Nat) : Prop :=
  q.Usable s j ∧ ¬ q.NoUnit s ∧
    ∃ u, s.locate (q.xfer j) = .absent u ∨
      ∃ sp p, s.locate (q.xfer j) = .found sp p u ∧ s.cur.derr = some (s.accesses + j)

/-- Transfer `j` is not made, for a trap. -/
def Sequence.Traps (q : Sequence) (s : State) (vn : Byte) (j : Nat) : Prop :=
  q.Usable s j ∧ (q.NoUnit s ∧ vn = 3 ∨ ¬ q.NoUnit s ∧ ∃ u, s.locate (q.xfer j) = .trap vn u)

/-- CPS after `m` transfers: CA after coprocessor transfers with SA (R439). -/
def Sequence.status (q : Sequence) (c : Word) (m : Nat) : Word :=
  if q.ctl.getLsbD 7 && q.ctl.getLsbD 5 && decide (0 < m) then putBit c 15 (!q.load) else c

/-- CHC when `j` transfers have been made and the next one is described: CR and TR, the other bits as at the start. -/
def Sequence.channel (q : Sequence) (j : Nat) : Word :=
  (q.chc &&& 0xFF00FC03) ||| (BitVec.ofNat 32 (q.last - j) <<< 16) ||| ((q.reg j).setWidth 32 <<< 2)

/-- What the first `m` transfers leave: their registers, or their bytes stored one transfer after another, and ALU.BP;
nothing else but CPS, the channel registers, LRU and the Usage bits has changed. -/
structure Sequence.Leaves (q : Sequence) (s t : State) (sp : Nat → Space) (p : Nat → Word) (m : Nat) : Prop where
  others : ∀ n, (q.load = true → ∀ j < m, q.reg j ≠ n) → t.getGR n = s.getGR n
  loaded : q.load = true → ∀ j < m, (∀ k < m, j < k → q.reg k ≠ q.reg j) →
    ∃ w, s.Answers (sp j) (p j) w ∧ t.getGR (q.reg j) = s.lanesRead q.ctl (q.address j) w
  memory : q.load = true → s.SameMemory t
  stored : q.load = false → ∃ f : Nat → State, f 0 = s ∧ (f m).SameMemory t ∧ ∀ j < m,
    (f (j + 1)).sr.cfg = s.sr.cfg ∧ (f j).LanesStored (f (j + 1)) (sp j) q.ctl (p j) (s.getGR (q.reg j))
  alu : t.alu = if m = 0 then s.alu else s.aluAfter q.ctl q.addr false
  units : t.acc = s.acc ∧ t.tlb = s.tlb
  special : { t.sr with cha := s.sr.cha, chd := s.sr.chd, chc := s.sr.chc, lru := s.sr.lru } = s.sr

/-- A sequence stands at transfer `m`: those before it are made, and the channel registers describe it. -/
structure Sequence.StandsAt (q : Sequence) (s t : State) (sp : Nat → Space) (p : Nat → Word) (m : Nat) : Prop where
  leaves : q.Leaves s t sp p m
  cha : t.sr.cha = q.address m
  chc : t.sr.chc = q.channel m

/-- A sequence has failed at transfer `m`, answered with DERR: the channel registers describe it, with the data of a
store and TF = 1, and the exception is due at once (60_exceptions.md R660, R690; log entry 17). -/
structure Sequence.FailedAt (q : Sequence) (s t : State) (sp : Nat → Space) (p : Nat → Word) (m : Nat) : Prop where
  leaves : q.Leaves s t sp p m
  cha : t.sr.cha = q.address m
  chc : t.sr.chc = q.channel m ||| 0x400
  chd : q.load = false → t.sr.chd = s.getGR (q.reg m)
  lru : t.sr.lru = s.sr.lru
  event : t.derrEvent = some (if q.ctl.getLsbD 7 then 4 else 7) ∧ t.derrLeft = 0

/-- A sequence is complete: ML and CV are 0, and so is CR (decision D22, log entry 46). -/
structure Sequence.Completed (q : Sequence) (s t : State) (sp : Nat → Space) (p : Nat → Word) : Prop where
  leaves : q.Leaves s t sp p (q.last + 1)
  cha : t.sr.cha = q.address q.last
  chc : t.sr.chc = q.channel q.last &&& 0xFFFFBFFE
  chd : q.load = false → t.sr.chd = s.getGR (q.reg q.last)
  lru : t.sr.lru = s.sr.lru

/-- A floating-point result in its register, or in its pair with the most significant word in the even register
(46_floating_point.md R502, 10_state.md R31). -/
def State.FloatResult (s t : State) (f : Fmt) (d : Byte) (v : DWord) : Prop :=
  match f with
  | .single => s.ResultIn t d (v.extractLsb' 0 32) ∧ s.RegsExcept t (touched d)
  | .double => t.getGR d = v.extractLsb' 32 32 ∧ t.getGR (d + 1) = v.extractLsb' 0 32 ∧ s.RegsExcept t [d, d + 1]

/-- A floating-point operation whose exceptions are all masked completes: result, sticky bits, nothing else
(46_floating_point.md R506, R510). -/
def FloatCompletes (i : Instr) (us : List RegUse) (f : Fmt) (rc : Byte) (s : State) (o : FpOutcome) : Prop :=
  s.regStop false us = none → ∀ v, o.result = some v → o.status.bits &&& ~~~(s.sr.fpe &&& 0x3F) = 0 →
    Completes i s fun t => s.FloatResult t f (s.absReg .c rc) v ∧ s.SameMemory t ∧ s.SameUnits t ∧ t.alu = s.alu ∧
      s.SameSpecialButFps t ∧ t.sr.fps = s.sr.fps ||| o.status.bits

/-- A floating-point operation with an unmasked exception, or whose result is not written (decision D24), takes trap 22,
its destination unchanged, the sticky bits of the masked exceptions set and the trap bits telling all of them
(46_floating_point.md R510, R511). -/
def FloatTraps (i : Instr) (us : List RegUse) (s : State) (o : FpOutcome) (pointers : State → Prop) : Prop :=
  s.regStop false us = none → s.TrapReady → o.status.bits &&& ~~~(s.sr.fpe &&& 0x3F) ≠ 0 ∨ o.result = none →
    ∃ t, exec i s = .next t ∧ s.TrapTaken t 22 i.opcode ∧ pointers t ∧
      t.sr.fps = ((s.sr.fps ||| (o.status.bits &&& s.sr.fpe &&& 0x3F)) &&& 0xFFFFC0FF) ||| (o.status.bits <<< 8)

/-- An indirect pointer holds, in bits 9-2, the absolute-register number of a field; where the field, one that the
instruction does not use, cannot be resolved, nothing is said of it (46_floating_point.md R511 (3); log entry 22). -/
def State.PointerFor (s : State) (p : Pos) (f : Byte) (w : Word) : Prop :=
  s.fieldFault p f = none → w = (s.absReg p f).setWidth 32 <<< 2

/-- An indirect pointer holds a function code: as it stands if its bit 7 is 0, else with the Stack Pointer added (R511
(3), decision D26; log entry 22). -/
def State.PointerForCode (s : State) (p : Pos) (f : Byte) (w : Word) : Prop :=
  if f.getLsbD 7 then s.PointerFor p f w else w = f.setWidth 32 <<< 2

/-- The value of a finite number as a rational. -/
def rationalOf (m : Nat) (e : Int) : ℚ := (m : ℚ) * 2 ^ e

/-! ### The values of floating-point operations (46_floating_point.md R500 to R509) -/

/-- The sign of a number as a factor. -/
def signFactor (neg : Bool) : ℝ := if neg then -1 else 1

/-- A value is a finite number with this sign, standing for the real `x` (R500, R501). -/
def FpValue.Is (v : FpValue) (neg : Bool) (x : ℝ) : Prop :=
  ∃ (m : Nat) (e : Int), v = .fin neg m e ∧ x = signFactor neg * m * (2 : ℝ) ^ e

/-- The place of a value that is no NaN among the extended reals. -/
def FpValue.At (v : FpValue) (x : EReal) : Prop :=
  v = .inf false ∧ x = ⊤ ∨ v = .inf true ∧ x = ⊥ ∨ ∃ (neg : Bool) (y : ℝ), v.Is neg y ∧ x = y

/-- A bit pattern of a format stands for a value; a single-precision one is a word. -/
def Fmt.Pattern (f : Fmt) (w : DWord) (P : FpValue → Prop) : Prop :=
  (f = .single → w.toNat < 2 ^ 32) ∧ P (unpack f false w)

/-- AQNaN (R501). -/
def quietNaN : Fmt → DWord
  | .single => 0x7FE00000
  | .double => 0x7FFC000000000000

/-- R503: `y` is `x` rounded to a multiple of `2^g`. -/
def IsRounded (mode : Rounding) (g : Int) (x y : ℝ) : Prop :=
  ∃ n : Int, y = n * (2 : ℝ) ^ g ∧
    match mode with
    | .nearest => |y - x| ≤ (2 : ℝ) ^ g / 2 ∧ (|y - x| = (2 : ℝ) ^ g / 2 → n % 2 = 0)
    | .down => y ≤ x ∧ x < y + (2 : ℝ) ^ g
    | .up => x ≤ y ∧ y - (2 : ℝ) ^ g < x
    | .zero => |y| ≤ |x| ∧ |x| < |y| + (2 : ℝ) ^ g ∧ 0 ≤ y * x

/-- R503: `r` is `x`, not zero, rounded to the precision of a format with unbounded exponent. -/
def Fmt.Rounds (f : Fmt) (mode : Rounding) (x r : ℝ) : Prop :=
  ∃ k : Int, (2 : ℝ) ^ k ≤ |x| ∧ |x| < (2 : ℝ) ^ (k + 1) ∧ IsRounded mode (k - (f.precision - 1 : Nat)) x r

/-- The largest finite number (R501). -/
def Fmt.largest (f : Fmt) : ℚ := (2 ^ f.precision - 1) * 2 ^ (f.bias - (f.precision - 1))

/-- Which exceptions a status holds, in the order D, X, U, V, R, N. -/
def FpStatus.Tells (t : FpStatus) (d x u v r n : Prop) : Prop :=
  (t.d = true ↔ d) ∧ (t.x = true ↔ x) ∧ (t.u = true ↔ u) ∧ (t.v = true ↔ v) ∧ (t.r = true ↔ r) ∧ (t.n = true ↔ n)

/-- R509: what an overflow of a result with this sign delivers. -/
def Fmt.OverflowIs (f : Fmt) (mode : Rounding) (neg : Bool) (v : FpValue) : Prop :=
  if mode = .nearest ∨ mode = .up ∧ neg = false ∨ mode = .down ∧ neg = true then v = .inf neg
  else v.Is neg (signFactor neg * f.largest)

/-- R509: `OutputStage` of a non-zero exact result `x` with this sign: what is delivered, and the status. -/
def Fmt.Delivers (f : Fmt) (env : FpEnv) (neg : Bool) (x : ℝ) (o : FpOutcome) : Prop :=
  ∃ r : ℝ, f.Rounds env.mode x r ∧
    let gives (P : FpValue → Prop) : Prop := ∃ w, o.result = some w ∧ f.Pattern w P
    let tiny : Prop := |x| < (2 : ℝ) ^ f.minExp
    let large : Prop := (f.largest : ℝ) < |r|
    (large → env.mask.v = true →
      gives (f.OverflowIs env.mode neg) ∧ o.status.Tells False True False True False False) ∧
    (large → env.mask.v = false → o.result = none ∧ o.status.Tells False (r ≠ x) False True False False) ∧
    (tiny → env.ff = true → o.status.Tells False True True False False False ∧
      if env.mask.u then gives (·.Is neg 0) else o.result = none) ∧
    (tiny → env.ff = false → env.mask.u = true → ∃ d : ℝ, IsRounded env.mode (f.minExp - (f.precision - 1 : Nat)) x d ∧
      gives (·.Is neg d) ∧ o.status.Tells False (d ≠ x) (d ≠ x) False False False) ∧
    (tiny → env.ff = false → env.mask.u = false →
      o.result = none ∧ o.status.Tells False (r ≠ x) True False False False) ∧
    (¬ large → ¬ tiny → o.status.Tells False (r ≠ x) False False False False ∧
      (r = x ∨ env.mask.x = true → gives (·.Is neg r)) ∧ (r ≠ x → env.mask.x = false → o.result = none))

/-- A result delivered without an exception. -/
def Fmt.Exactly (f : Fmt) (o : FpOutcome) (P : FpValue → Prop) : Prop :=
  (∃ w, o.result = some w ∧ f.Pattern w P) ∧ o.status.Tells False False False False False False

/-- R508: AQNaN with the status R, and N if `invalid`. -/
def Fmt.NotANumber (f : Fmt) (o : FpOutcome) (invalid : Prop) : Prop :=
  o.result = some (quietNaN f) ∧ o.status.Tells False False False False True invalid

/-- R509: a result whose exact value is `x`, and with this sign if that is zero. -/
def Fmt.Results (f : Fmt) (env : FpEnv) (neg : Bool) (x : ℝ) (o : FpOutcome) : Prop :=
  (x = 0 → f.Exactly o (·.Is neg 0)) ∧ (x ≠ 0 → f.Delivers env (decide (x < 0)) x o)

/-- R513, R553: the value and the status that the instructions without traps deliver for an exact result `x`, with this
sign if it is zero; `tellsX`: inexact is reported. -/
def Fmt.Flushes (f : Fmt) (mode : Rounding) (neg : Bool) (x : ℝ) (tellsX : Prop) (v : FpValue) (t : FpStatus) : Prop :=
  (x = 0 → v.Is neg 0 ∧ t.Tells False False False False False False) ∧
  (x ≠ 0 → ∃ r : ℝ, f.Rounds mode x r ∧
    let tiny : Prop := |x| < (2 : ℝ) ^ f.minExp
    let large : Prop := (f.largest : ℝ) < |r|
    (large → f.OverflowIs mode (decide (x < 0)) v ∧ t.Tells False tellsX False True False False) ∧
    (tiny → v.Is (decide (x < 0)) 0 ∧ t.Tells False tellsX True False False False) ∧
    (¬ large → ¬ tiny → v.Is (decide (x < 0)) r ∧ t.Tells False (tellsX ∧ r ≠ x) False False False False))

/-! ### The invariant -/

/-- 10_state.md R40: the reserved bits of every stored special-purpose register read as 0. -/
structure SpecialRegs.ReservedZero (r : SpecialRegs) : Prop where
  vab : r.vab &&& 0x000003FF = 0
  ops : r.ops &&& 0xFFFF0000 = 0
  cfg : r.cfg &&& 0xFFFFFF00 = 0
  chc : r.chc &&& 0x00000800 = 0
  rbp : r.rbp &&& 0xFFFF0000 = 0
  tmc : r.tmc &&& 0xFF000000 = 0
  tmr : r.tmr &&& 0xF8000000 = 0
  pc0 : r.pc0 &&& 3 = 0
  pc1 : r.pc1 &&& 3 = 0
  pc2 : r.pc2 &&& 3 = 0
  mmu : r.mmu &&& 0xFFFFFC00 = 0
  lru : r.lru &&& 0xFFFFFF81 = 0
  rsn : r.rsn &&& 0xFFFFFF00 = 0
  rmc0 : r.rmc0 &&& 0xFF208000 = 0
  rmc1 : r.rmc1 &&& 0xFF208000 = 0
  spc0 : r.spc0 &&& 3 = 0
  spc1 : r.spc1 &&& 3 = 0
  spc2 : r.spc2 &&& 3 = 0
  iba0 : r.iba0 &&& 3 = 0
  ibc0 : r.ibc0 &&& 0xFFFFE000 = 0
  iba1 : r.iba1 &&& 3 = 0
  ibc1 : r.ibc1 &&& 0xFFFFE000 = 0
  ipc : r.ipc &&& 0xFFFFFC03 = 0
  ipa : r.ipa &&& 0xFFFFFC03 = 0
  ipb : r.ipb &&& 0xFFFFFC03 = 0
  fpe : r.fpe &&& 0xFFFFF800 = 0
  inte : r.inte &&& 0xFFFFFFFC = 0
  fps : r.fps &&& 0xFFFFC0C0 = 0
  exop : r.exop &&& 0xFFFFFF00 = 0

/-- What every step keeps: instruction addresses are word addresses (10_state.md R36), the memories are in their
canonical form (log entry 7), and every reserved bit of the status, special and TLB registers is 0 (R40, R45, R66,
R82). -/
structure State.Sound (s : State) : Prop where
  pc : s.pc &&& 3 = 0
  npc : s.npc &&& 3 = 0
  lastpc : s.lastpc &&& 3 = 0
  idmem : Memory.wf s.idmem = true
  imem : ∀ m, s.imem = some m → Memory.wf m = true
  irom : Memory.wf s.irom = true
  cps : s.cps &&& 0xFFFE4000 = 0
  alu : s.alu &&& 0xFFFFF000 = 0
  special : s.sr.ReservedZero
  tlb : ∀ n, s.tlbWord (2 * n + 1) &&& 0x0000033E = 0

end Sys2Proof.Machine
end

