-- ==== Sys2Proof/Certificates/Slice0/Obligations.lean ====
section
/-! DEFINITION. The statements about the machine. A statement cites the rules of the spec it comes from; where it rests
on a choice of the model it names the log entry. -/

open Sys2Proof Sys2Proof.Machine

/-- R310 to R327: every add and subtract instruction completes with the sum its rule gives, and V, N, Z, C of R301;
the forms that trap (R303) do so when they do not. -/
def Obligations.AddAndSubtractComplete : Prop :=
  ∀ (rc ra : Byte) (b : Opnd) (s : State),
    let x := s.src .a ra
    let y := s.opnd b
    let k := if bitOf s.alu 7 then 1 else 0
    let never : Prop → Prop → Prop := fun _ _ => False
    let signed : Prop → Prop → Prop := fun v _ => v
    let carry : Prop → Prop → Prop := fun _ c => c
    let borrow : Prop → Prop → Prop := fun _ c => ¬ c
    AddCompletes (.add rc ra b) .aluCca rc ra b s x y 0 never ∧
    AddCompletes (.addc rc ra b) .alu rc ra b s x y k never ∧
    AddCompletes (.adds rc ra b) .alu rc ra b s x y 0 signed ∧
    AddCompletes (.addcs rc ra b) .alu rc ra b s x y k signed ∧
    AddCompletes (.addu rc ra b) .alu rc ra b s x y 0 carry ∧
    AddCompletes (.addcu rc ra b) .alu rc ra b s x y k carry ∧
    AddCompletes (.sub rc ra b) .aluCca rc ra b s x (~~~y) 1 never ∧
    AddCompletes (.subc rc ra b) .alu rc ra b s x (~~~y) k never ∧
    AddCompletes (.subs rc ra b) .alu rc ra b s x (~~~y) 1 signed ∧
    AddCompletes (.subcs rc ra b) .alu rc ra b s x (~~~y) k signed ∧
    AddCompletes (.subu rc ra b) .alu rc ra b s x (~~~y) 1 borrow ∧
    AddCompletes (.subcu rc ra b) .alu rc ra b s x (~~~y) k borrow ∧
    AddCompletes (.subr rc ra b) .alu rc ra b s y (~~~x) 1 never ∧
    AddCompletes (.subrc rc ra b) .alu rc ra b s y (~~~x) k never ∧
    AddCompletes (.subrs rc ra b) .alu rc ra b s y (~~~x) 1 signed ∧
    AddCompletes (.subrcs rc ra b) .alu rc ra b s y (~~~x) k signed ∧
    AddCompletes (.subru rc ra b) .alu rc ra b s y (~~~x) 1 borrow ∧
    AddCompletes (.subrcu rc ra b) .alu rc ra b s y (~~~x) k borrow ∧
    HasCode (.add rc ra b) 0x14 b ∧ HasCode (.addc rc ra b) 0x1C b ∧ HasCode (.sub rc ra b) 0x24 b ∧
    HasCode (.subc rc ra b) 0x2C b ∧ HasCode (.subr rc ra b) 0x34 b ∧ HasCode (.subrc rc ra b) 0x3C b

/-- R303: the twelve trapping forms write DEST and the flags and then take the Out of Range trap, vector 2, of kind
Next. -/
def Obligations.OutOfRangeTraps : Prop :=
  ∀ (rc ra : Byte) (b : Opnd) (s : State),
    let x := s.src .a ra
    let y := s.opnd b
    let k := if bitOf s.alu 7 then 1 else 0
    let signed : Prop → Prop → Prop := fun v _ => v
    let carry : Prop → Prop → Prop := fun _ c => c
    let borrow : Prop → Prop → Prop := fun _ c => ¬ c
    AddTraps (.adds rc ra b) rc ra b s x y 0 signed ∧
    AddTraps (.addcs rc ra b) rc ra b s x y k signed ∧
    AddTraps (.addu rc ra b) rc ra b s x y 0 carry ∧
    AddTraps (.addcu rc ra b) rc ra b s x y k carry ∧
    AddTraps (.subs rc ra b) rc ra b s x (~~~y) 1 signed ∧
    AddTraps (.subcs rc ra b) rc ra b s x (~~~y) k signed ∧
    AddTraps (.subu rc ra b) rc ra b s x (~~~y) 1 borrow ∧
    AddTraps (.subcu rc ra b) rc ra b s x (~~~y) k borrow ∧
    AddTraps (.subrs rc ra b) rc ra b s y (~~~x) 1 signed ∧
    AddTraps (.subrcs rc ra b) rc ra b s y (~~~x) k signed ∧
    AddTraps (.subru rc ra b) rc ra b s y (~~~x) 1 borrow ∧
    AddTraps (.subrcu rc ra b) rc ra b s y (~~~x) k borrow

/-- R330 to R332: the multiply steps. The bit shifted into DEST is the true sign of the sum (MUL, MULL) or the carry
(MULU); the sum's bit 0 enters Q. -/
def Obligations.MultiplyStepsComplete : Prop :=
  ∀ (rc ra : Byte) (b : Opnd) (s : State),
    let m := if bitOf s.sr.q 0 then s.src .a ra else 0#32
    let p := s.opnd b
    let us := usesRRM .alu rc ra b
    let q (r : Word) : Word := (r <<< 31) ||| (s.sr.q >>> 1)
    let top (f : Prop) [Decidable f] (r : Word) : Word := (if f then 0x80000000#32 else 0#32) ||| (r >>> 1)
    let r := sumWord m p 0
    let l := sumWord p (~~~m) 1
    StepCompletes (.mul rc ra b) us rc s (signedOver m p 0) (carryOut m p 0) s.divideFlag r
      (top (m.toInt + p.toInt < 0) r) (q r) ∧
    StepCompletes (.mull rc ra b) us rc s (signedOver p (~~~m) 1) (carryOut p (~~~m) 1) s.divideFlag l
      (top (p.toInt - m.toInt < 0) l) (q l) ∧
    StepCompletes (.mulu rc ra b) us rc s (signedOver m p 0) (carryOut m p 0) s.divideFlag r
      (top (2 ^ 32 ≤ m.toNat + p.toNat) r) (q r)

/-- R333 to R336: the divide steps. V and C of DIV0, and of DIVREM with DF = 1, are 0: the spec's decision D21 (log
entry 46). -/
def Obligations.DivideStepsComplete : Prop :=
  ∀ (rc ra : Byte) (b : Opnd) (s : State),
    let x := s.src .a ra
    let y := s.opnd b
    let d := bitOf s.alu 11
    let q0 := s.sr.q
    let z := if d then ~~~y else y
    let k := if d then 1 else 0
    let r := sumWord x z k
    let rem := if d then x else sumWord x y 0
    ∀ c : Bool, (c = true ↔ carryOut x z k) →
      let f := !(c ^^ d ^^ bitOf s.alu 9)
      let fw := if f then 1#32 else 0#32
      StepCompletes (.div0 rc b) (opndUses b ++ [⟨.c, rc, .dst .alu⟩]) rc s False False true y
        ((y <<< 1) ||| (q0 >>> 31)) (q0 <<< 1) ∧
      StepCompletes (.div rc ra b) (usesRRM .alu rc ra b) rc s (signedOver x z k) (carryOut x z k) f r
        ((r <<< 1) ||| (q0 >>> 31)) ((q0 <<< 1) ||| fw) ∧
      StepCompletes (.divl rc ra b) (usesRRM .alu rc ra b) rc s (signedOver x z k) (carryOut x z k) f r r
        ((q0 <<< 1) ||| fw) ∧
      StepCompletes (.divrem rc ra b) (usesRRM .alu rc ra b) rc s (¬ d = true ∧ signedOver x y 0)
        (¬ d = true ∧ carryOut x y 0) d rem rem q0

/-- R304, R340 to R343: the instructions of the MULTIPLY class complete with a word of the exact product; no flag
changes, and nothing is said of Q. MULTIPLY and MULTIPLU do so with INTE.MO = 1 or when the product fits. -/
def Obligations.MultiplyClassCompletes : Prop :=
  ∀ (rc ra rb : Byte) (s : State),
    let x := s.src .a ra
    let y := s.src .b rb
    let done (i : Instr) (v : Word) : Prop := s.regStop false (usesMultiply rc ra rb) = none → Completes i s fun t =>
      s.ResultIn t (s.absReg .c rc) v ∧ s.RegsExcept t (touched (s.absReg .c rc)) ∧ s.SameMemory t ∧ s.SameUnits t ∧
        s.SameSpecialButQ t ∧ t.alu = s.alu
    (bitOf s.sr.inte 0 = true ∨ (-2 ^ 31 ≤ x.toInt * y.toInt ∧ x.toInt * y.toInt < 2 ^ 31) →
      done (.multiply rc ra rb) (BitVec.ofInt 32 (x.toInt * y.toInt))) ∧
    (bitOf s.sr.inte 0 = true ∨ x.toNat * y.toNat < 2 ^ 32 →
      done (.multiplu rc ra rb) (BitVec.ofNat 32 (x.toNat * y.toNat))) ∧
    done (.multm rc ra rb) (BitVec.ofInt 32 (x.toInt * y.toInt / 2 ^ 32)) ∧
    done (.multmu rc ra rb) (BitVec.ofNat 32 (x.toNat * y.toNat / 2 ^ 32))

/-- R304 (f), R340, R341: with INTE.MO = 0 a product that does not fit takes the Out of Range trap: DEST unchanged,
the indirect pointers hold the register numbers. -/
def Obligations.MultiplyTraps : Prop :=
  ∀ (rc ra rb : Byte) (s : State),
    let x := s.src .a ra
    let y := s.src .b rb
    let traps (i : Instr) : Prop := s.regStop false (usesMultiply rc ra rb) = none →
      ∃ u, exec i s = u.takeInstTrap i.opcode 2 .next ∧ s.SameGeneral u ∧ u.alu = s.alu ∧ u.pc = s.pc ∧ u.npc = s.npc ∧
        u.cps = s.cps ∧ u.sr.ipc = pointerWord (s.absReg .c rc) ∧ u.sr.ipa = pointerWord (s.absReg .a ra) ∧
        u.sr.ipb = pointerWord (s.absReg .b rb)
    bitOf s.sr.inte 0 = false →
      (¬ (-2 ^ 31 ≤ x.toInt * y.toInt ∧ x.toInt * y.toInt < 2 ^ 31) → traps (.multiply rc ra rb)) ∧
      (2 ^ 32 ≤ x.toNat * y.toNat → traps (.multiplu rc ra rb))

/-- R344, R345: DIVIDE and DIVIDU take the traps 33 and 35 with the indirect pointers set and no other register, Q or
flag changed. CPS after the trap, the R bit of a vector word and EXOP are log entries 4 (PRESUMED, decision D1) and 5
(PRESUMED, decision D3) and decision D30. -/
def Obligations.DivideTraps : Prop :=
  ∀ (rc ra rb : Byte) (s : State), s.regStop false (usesNumbers rc ra rb) = none → s.TrapReady →
    let traps (i : Instr) (vn : Byte) : Prop := ∃ t, exec i s = .next t ∧ s.TrapTaken t vn i.opcode ∧
      t.sr.ipc = pointerWord (s.absReg .c rc) ∧ t.sr.ipa = pointerWord (s.absReg .a ra) ∧
      t.sr.ipb = pointerWord (s.absReg .b rb) ∧ t.sr.q = s.sr.q
    traps (.divide rc ra rb) 33 ∧ traps (.dividu rc ra rb) 35

/-- R360 to R372: every compare writes TRUE or FALSE to DEST and changes no status bit. -/
def Obligations.ComparesComplete : Prop :=
  ∀ (rc ra : Byte) (b : Opnd) (s : State),
    let x := s.src .a ra
    let y := s.opnd b
    let done (i : Instr) (op : Byte) (p : Prop) [Decidable p] : Prop := HasCode i op b ∧
      PlainCompletes i (usesRRM .other rc ra b) (s.absReg .c rc) s (if p then 0x80000000#32 else 0#32)
    done (.cpeq rc ra b) 0x60 (x = y) ∧ done (.cpneq rc ra b) 0x62 (x ≠ y) ∧
    done (.cplt rc ra b) 0x40 (x.toInt < y.toInt) ∧ done (.cpltu rc ra b) 0x42 (x.toNat < y.toNat) ∧
    done (.cple rc ra b) 0x44 (x.toInt ≤ y.toInt) ∧ done (.cpleu rc ra b) 0x46 (x.toNat ≤ y.toNat) ∧
    done (.cpgt rc ra b) 0x48 (y.toInt < x.toInt) ∧ done (.cpgtu rc ra b) 0x4A (y.toNat < x.toNat) ∧
    done (.cpge rc ra b) 0x4C (y.toInt ≤ x.toInt) ∧ done (.cpgeu rc ra b) 0x4E (y.toNat ≤ x.toNat) ∧
    done (.cpbyte rc ra b) 0x2E (x >>> 24 = y >>> 24 ∨ (x >>> 16) &&& 0xFF#32 = (y >>> 16) &&& 0xFF#32 ∨
      (x >>> 8) &&& 0xFF#32 = (y >>> 8) &&& 0xFF#32 ∨ x &&& 0xFF#32 = y &&& 0xFF#32)

/-- R361, R380 to R389: an assert whose relation holds changes nothing; one whose relation does not hold traps: to VN,
or in User mode with VN below 64 with a Protection Violation of kind Curr. CPS after the trap, the R bit of a vector
word and EXOP are log entries 4 (PRESUMED, decision D1) and 5 (PRESUMED, decision D3) and decision D30. -/
def Obligations.AssertsComplete : Prop :=
  ∀ (vn ra : Byte) (b : Opnd) (s : State),
    let x := s.src .a ra
    let y := s.opnd b
    let does (i : Instr) (p : Prop) : Prop :=
      s.regStop false ([⟨.a, ra, .src⟩] ++ opndUses b) = none →
        (p → Completes i s fun t => s.SameData t) ∧
        (¬ p → s.user = true → vn.toNat < 64 → exec i s = s.takeInstTrap i.opcode 5 .curr) ∧
        (¬ p → s.user = false ∨ 64 ≤ vn.toNat → s.TrapReady → ∃ t, exec i s = .next t ∧ s.TrapTaken t vn i.opcode)
    does (.aseq vn ra b) (x = y) ∧ does (.asneq vn ra b) (x ≠ y) ∧
    does (.aslt vn ra b) (x.toInt < y.toInt) ∧ does (.asltu vn ra b) (x.toNat < y.toNat) ∧
    does (.asle vn ra b) (x.toInt ≤ y.toInt) ∧ does (.asleu vn ra b) (x.toNat ≤ y.toNat) ∧
    does (.asgt vn ra b) (y.toInt < x.toInt) ∧ does (.asgtu vn ra b) (y.toNat < x.toNat) ∧
    does (.asge vn ra b) (y.toInt ≤ x.toInt) ∧ does (.asgeu vn ra b) (y.toNat ≤ x.toNat)

/-- R400 to R408: the logical instructions write their result to DEST, N and Z tell of it, and no other status bit
changes. -/
def Obligations.LogicalComplete : Prop :=
  ∀ (rc ra : Byte) (b : Opnd) (s : State),
    let x := s.src .a ra
    let y := s.opnd b
    let done (i : Instr) (op : Byte) (r : Word) : Prop := HasCode i op b ∧
      (s.regStop false (usesRRM .alu rc ra b) = none → Completes i s fun t =>
      s.Writes t (s.absReg .c rc) r ∧
        if s.frozen then t.alu = s.alu
        else t.alu &&& 0xFFFFFCFF = s.alu &&& 0xFFFFFCFF ∧ bitOf t.alu 9 = bitOf r 31 ∧
          (bitOf t.alu 8 = true ↔ r = 0#32))
    done (.and rc ra b) 0x90 (x &&& y) ∧ done (.andn rc ra b) 0x9C (x &&& ~~~y) ∧
    done (.nand rc ra b) 0x9A (~~~(x &&& y)) ∧
    done (.nor rc ra b) 0x98 (~~~(x ||| y)) ∧
    done (.or rc ra b) 0x92 (x ||| y) ∧ done (.orn rc ra b) 0xAA (x ||| ~~~y) ∧
    done (.xnor rc ra b) 0x96 (~~~(x ^^^ y)) ∧ done (.xor rc ra b) 0x94 (x ^^^ y)

/-- R420 to R424: shifts by SRCB bits 4-0, and EXTRACT by ALU.FC; no status bit changes. -/
def Obligations.ShiftsComplete : Prop :=
  ∀ (rc ra : Byte) (b : Opnd) (s : State),
    let x := s.src .a ra
    let y := s.opnd b
    let n := y.toNat % 32
    let fc := s.alu.toNat % 32
    let done (i : Instr) (op : Byte) (v : Word) : Prop := HasCode i op b ∧
      PlainCompletes i (usesRRM .other rc ra b) (s.absReg .c rc) s v
    done (.sll rc ra b) 0x80 (BitVec.ofNat 32 (x.toNat * 2 ^ n)) ∧
    done (.srl rc ra b) 0x82 (BitVec.ofNat 32 (x.toNat / 2 ^ n)) ∧
    done (.sra rc ra b) 0x86 (BitVec.ofInt 32 (x.toInt / 2 ^ n)) ∧
    done (.extract rc ra b) 0x7A (BitVec.ofNat 32 ((x.toNat * 2 ^ 32 + y.toNat) * 2 ^ fc / 2 ^ 32))

/-- R440 to R444: byte and half-word extraction and insertion at the position ALU.BP gives, in the byte order CFG.BO;
no status bit changes. -/
def Obligations.ByteMovesComplete : Prop :=
  ∀ (rc ra : Byte) (b : Opnd) (s : State),
    let x := s.src .a ra
    let y := s.opnd b
    let bp := s.alu.toNat / 32 % 4
    let k := if bitOf s.sr.cfg 2 then bp else 3 - bp
    let h := if bitOf s.sr.cfg 2 then bp / 2 else 1 - bp / 2
    let byte := x >>> (8 * k) &&& 0xFF#32
    let half := x >>> (16 * h) &&& 0xFFFF#32
    let done (i : Instr) (us : List RegUse) (v : Word) : Prop := PlainCompletes i us (s.absReg .c rc) s v
    let us := usesRRM .other rc ra b
    done (.exbyte rc ra b) us (y &&& 0xFFFFFF00#32 ||| byte) ∧
    done (.exhw rc ra b) us (y &&& 0xFFFF0000#32 ||| half) ∧
    (Instr.exhws rc ra).opcode = 0x7E ∧ done (.exhws rc ra) [⟨.a, ra, .src⟩, ⟨.c, rc, .dst .other⟩]
      (if 0x8000 ≤ half.toNat then half ||| 0xFFFF0000#32 else half) ∧
    done (.inbyte rc ra b) us (x &&& ~~~(0xFF#32 <<< (8 * k)) ||| (y &&& 0xFF#32) <<< (8 * k)) ∧
    done (.inhw rc ra b) us (x &&& ~~~(0xFFFF#32 <<< (16 * h)) ||| (y &&& 0xFFFF#32) <<< (16 * h)) ∧
    HasCode (.exbyte rc ra b) 0x0A b ∧ HasCode (.exhw rc ra b) 0x7C b ∧ HasCode (.inbyte rc ra b) 0x0C b ∧
    HasCode (.inhw rc ra b) 0x78 b

/-- R490 to R493: the constant instructions write the constant they form to the register RA names; no flag changes.
CONSTH, which reads it, may not name gr3 (10_state.md R30 (c)); that it is a model fault is U4 and the model's choice
(DESIGN CHOICE, log entry 23). -/
def Obligations.ConstantsComplete : Prop :=
  ∀ (ra : Byte) (i : BitVec 16) (s : State),
    let d := s.absReg .a ra
    let done (x : Instr) (v : Word) : Prop := PlainCompletes x [⟨.a, ra, .dst .constant⟩] d s v
    done (.const ra i) (BitVec.ofNat 32 i.toNat) ∧
    (d ≠ 3#8 → done (.consth ra i) (BitVec.ofNat 32 (i.toNat * 2 ^ 16 + (s.getGR d).toNat % 2 ^ 16))) ∧
    done (.consthz ra i) (BitVec.ofNat 32 (i.toNat * 2 ^ 16)) ∧
    done (.constn ra i) (BitVec.ofInt 32 (i.toNat - 2 ^ 16)) ∧
    (d = 3#8 → s.regStop false [⟨.a, ra, .dst .constant⟩] = none →
      exec (.consth ra i) s = .fault .ccaRestriction) ∧
    (Instr.const ra i).opcode = 0x03 ∧ (Instr.consth ra i).opcode = 0x02 ∧ (Instr.consthz ra i).opcode = 0x05 ∧
    (Instr.constn ra i).opcode = 0x01

/-- R580 to R584, R588: the unconditional branches. The instruction after the branch is executed next, then the
target; CALL and CALLI write the address after it to the register RA names. -/
def Obligations.BranchesComplete : Prop :=
  ∀ (a : Bool) (ra rb : Byte) (i : BitVec 16) (s : State), s.BranchReady →
    let direct := if a then BitVec.ofNat 32 (i.toNat * 4) else BitVec.ofInt 32 (s.pc.toInt + i.toInt * 4)
    let calls (x : Instr) (us : List RegUse) (target : Word) : Prop := s.regStop false us = none →
      ∃ t, exec x s = .next t ∧ s.BranchesTo t target ∧ s.Writes t (s.absReg .a ra) (s.pc + 8) ∧ t.alu = s.alu
    let jumps (x : Instr) (us : List RegUse) (target : Word) : Prop := s.regStop false us = none →
      ∃ t, exec x s = .next t ∧ s.BranchesTo t target ∧ s.SameData t
    calls (.call a ra i) [⟨.a, ra, .dst .other⟩] direct ∧
    calls (.calli ra rb) [⟨.b, rb, .src⟩, ⟨.a, ra, .dst .other⟩] (s.src .b rb) ∧
    jumps (.jmp a i) [] direct ∧
    jumps (.jmpi rb) [⟨.b, rb, .src⟩] (s.src .b rb)

/-- R580, R581, R585 to R587, R589, R590: the conditional branches test bit 31 of SRCA; JMPFDEC also decrements the
register, whether or not it branches. -/
def Obligations.ConditionalBranchesComplete : Prop :=
  ∀ (a : Bool) (ra rb : Byte) (i : BitVec 16) (s : State), s.BranchReady →
    let x := s.src .a ra
    let direct := if a then BitVec.ofNat 32 (i.toNat * 4) else BitVec.ofInt 32 (s.pc.toInt + i.toInt * 4)
    let goes (j : Instr) (us : List RegUse) (taken : Prop) (target : Word) (kept : State → Prop) : Prop :=
      s.regStop false us = none → ∃ t, exec j s = .next t ∧ (taken → s.BranchesTo t target) ∧
        (¬ taken → s.FallsThrough t) ∧ kept t
    let srcA : RegUse := ⟨.a, ra, .src⟩
    let srcB : RegUse := ⟨.b, rb, .src⟩
    goes (.jmpf a ra i) [srcA] (0 ≤ x.toInt) direct s.SameData ∧
    goes (.jmpfdec a ra i) [srcA, ⟨.a, ra, .dst .other⟩] (0 ≤ x.toInt) direct
      (fun t => s.Writes t (s.absReg .a ra) (BitVec.ofInt 32 (x.toInt - 1)) ∧ t.alu = s.alu) ∧
    goes (.jmpfi ra rb) [srcA, srcB] (0 ≤ x.toInt) (s.src .b rb) s.SameData ∧
    goes (.jmpt a ra i) [srcA] (x.toInt < 0) direct s.SameData ∧
    goes (.jmpti ra rb) [srcA, srcB] (x.toInt < 0) (s.src .b rb) s.SameData

/-- R601: EMULATE takes the trap VN of kind Next with IPA and IPB set to its register numbers; in User mode a VN below
64 is a Protection Violation of kind Curr instead. Nothing is said of IPC (log entry 37). CPS after the trap, the R
bit of a vector word and EXOP are log entries 4 (PRESUMED, decision D1) and 5 (PRESUMED, decision D3) and decision
D30. -/
def Obligations.EmulateTraps : Prop :=
  ∀ (vn ra rb : Byte) (s : State),
    (s.user = true → vn.toNat < 64 → exec (.emulate vn ra rb) s = s.takeInstTrap 0xD7 5 .curr) ∧
    (s.user = false ∨ 64 ≤ vn.toNat → s.TrapReady →
      s.regStop false [⟨.a, ra, .number⟩, ⟨.b, rb, .number⟩] = none →
        ∃ t, exec (.emulate vn ra rb) s = .next t ∧ s.TrapTaken t vn 0xD7 ∧
          t.sr.ipa = (s.absReg .a ra).setWidth 32 <<< 2 ∧ t.sr.ipb = (s.absReg .b rb).setWidth 32 <<< 2)

/-- R600, R602, R603, R607: CLZ writes the number of 0 bits above the most significant 1 of SRCB, 32 for zero; SETIP
sets the three indirect pointers to the absolute-register numbers of its fields; INV leaves an invalidation for the
next branch, and HALT the entry into Halt mode, in a mode that may execute them. Nothing else changes. -/
def Obligations.MiscellaneousComplete : Prop :=
  ∀ (rc ra rb : Byte) (b : Opnd) (s : State),
    PlainCompletes (.clz rc b) (opndUses b ++ [⟨.c, rc, .dst .other⟩]) (s.absReg .c rc) s
      (BitVec.ofNat 32 (if s.opnd b = 0#32 then 32 else 31 - Nat.log2 (s.opnd b).toNat)) ∧
    (s.regStop false [⟨.a, ra, .number⟩, ⟨.b, rb, .number⟩, ⟨.c, rc, .number⟩] = none →
      Completes (.setip rc ra rb) s fun t =>
        t.sr.ipc = (s.absReg .c rc).setWidth 32 <<< 2 ∧ t.sr.ipa = (s.absReg .a ra).setWidth 32 <<< 2 ∧
          t.sr.ipb = (s.absReg .b rb).setWidth 32 <<< 2 ∧ s.SameSpecialButPointers t ∧
          s.SameGeneral t ∧ t.alu = s.alu) ∧
    (s.user = false → Completes .inv s fun t => s.SameData t ∧ t.btc = { s.btc with pendingInv := true }) ∧
    (s.user = false ∨ s.debugger = true → Completes .halt s fun t => s.SameData t ∧ t.opMode = .haltPending)

/-- R604 to R606, R691, R438: an interrupt return, outside User mode and with the registers frozen. Outside Monitor
mode OPS becomes CPS and execution goes on at PC1, then PC0; in Monitor mode MM is cleared and SPC1, SPC0 are used.
IRETINV also empties the Branch Target Cache. With valid and needed channel registers that tell a single access, and
no other, the access is made again: a load writes its register, a LOADSET also stores ones, a store stores CHD; then
CHC.CV is 0 unless the channel registers are still frozen (log entry 26, DEDUCED), and CPS.CA and ALU.BP are as after
the access itself. With ML = 1 the sequence is resumed at the transfer described. An access answered with DERR leaves
the exception due before the next instruction; one that traps takes its trap with PC1 and PC0 the addresses returned
to, EXOP a free byte (log entry 25) and TE not copied (log entry 53), and so does a sequence that meets a protected
register (log entry 49). A store with CHC.ST = 1, LS = 0 and ST = 1, is log entry 56 (DESIGN CHOICE), bytes and
half-words of a resumed sequence are log entry 57 (DESIGN CHOICE), a sequence without interrupts inside it is log
entry 17, one that frozen channel registers describe is a model fault (U14, log entry 26), its count at the end is log
entry 46, and DERR on the write of a LOADSET is log entry 55. The place of a byte in its word is log entry 7; what
devices answer and the ROM keeps are log entries 8 and 9, addresses that do not exist log entry 47, a STOREM that
starts at gr2 log entry 48. Right after MMU.PS changed, a return to translated addresses, or whose access is
translated, is a model fault (U25, R782; log entry 58). The two instructions returned to are fetched before a sequence
is resumed, as memory holds them then (R606 (d), R438); when their traps and model faults bind is log entry 59 (DESIGN
CHOICE). -/
def Obligations.InterruptReturnsComplete : Prop :=
  ∀ s : State, s.user = false → s.frozen = true →
    let cps := if s.mm then s.cps &&& 0xFFFEFFFF else s.sr.ops &&& 0x0000BFFF
    let frozen := bitOf cps 10
    let r : State := { s with cps := cps }
    let stops (f : Fault) : Prop := exec .iret s = .fault f ∧ exec .iretinv s = .fault f
    let back (t : State) : Prop :=
      (s.mm = false → t.pc = s.sr.pc1 &&& 0xFFFFFFFC ∧ t.npc = s.sr.pc0 &&& 0xFFFFFFFC) ∧
      (s.mm = true → t.pc = s.sr.spc1 &&& 0xFFFFFFFC ∧ t.npc = s.sr.spc0 &&& 0xFFFFFFFC)
    let empty (t : State) : Prop := ∀ (f : Fin 128) (k : Fin 4), (t.btc.blocks[f]).words[k] = none
    let both (P : State → Prop) : Prop :=
      (∃ t, exec .iret s = .next t ∧ P t) ∧ (∃ t, exec .iretinv s = .next t ∧ P t ∧ empty t)
    let traps (vn : Byte) (P : State → Prop) : Prop := ∀ i ∈ [Instr.iret, Instr.iretinv], ∃ (w : State) (e : Word),
      exec i s = ({ w with sr := { w.sr with exop := e &&& 0xFF } } : State).takeTrap vn .async ∧ back w ∧ P w
    let fetched (a : Word) (x : EarlyFetch) : Prop :=
      let q : State := { r with pc := a, oldFetch := [], early := [] }
      (∀ sp p u, q.fetchPlace = .at sp p u → x = .found sp p (readWord (s.imem.getD s.idmem) p)) ∧
      (∀ vn u, q.fetchPlace = .trap vn u → ∃ l, x = .trap vn l) ∧ ∀ f, q.fetchPlace = .fault f → x = .fault f
    let ahead (t : State) : Prop := ∃ x y, t.early = [x, y] ∧ fetched t.pc x ∧ fetched t.npc y
    let early : Prop := s.hz.ps = true ∧ bitOf cps 5 = false ∧ bitOf cps 8 = false
    (early → stops .hazardPageSize) ∧ (¬ early →
    ((bitOf s.sr.chc 0 && !bitOf s.sr.chc 1) = false →
      both fun t => back t ∧ t.cps = cps ∧ s.SameData t ∧ t.early = []) ∧
    -- a single access
    (bitOf s.sr.chc 0 = true → bitOf s.sr.chc 1 = false → bitOf s.sr.chc 14 = false →
      ∀ (sp : Space) (p : Word) (u : State) (vn : Byte),
        let ctl : Byte := s.sr.chc.extractLsb' 24 8
        let load := bitOf s.sr.chc 15
        let set := bitOf s.sr.chc 13
        let reg : Byte := s.sr.chc.extractLsb' 2 8
        let addr := s.sr.cha
        let r1 := r.locate ⟨ctl, load, set, bitOf s.sr.chc 12, reg, addr, s.sr.chd⟩
        let units (t : State) : Prop := t.acc = s.acc ∧ t.tlb = s.tlb ∧ t.tlbUsage = u.tlbUsage
        let failed (t : State) : Prop := back t ∧ t.cps = cps ∧ t.alu = s.alu ∧ units t ∧ s.SameMemory t ∧
          t.derrEvent = some (if ctl.getLsbD 7 then 4 else 7) ∧ t.derrLeft = 0 ∧
          t.sr = (if frozen then s.sr else { s.sr with chc := putBit s.sr.chc 10 true })
        let read (t : State) : Prop :=
          s.RegsExcept t [reg] ∧ ∃ w, s.Answers sp p w ∧ t.getGR reg = s.lanesRead ctl addr w
        (load = true → reg = 1#8 ∨ 64 ≤ reg.toNat) →
        ((ctl.getLsbD 7 = true → bitOf s.sr.cfg 1 = true) →
          (r1 = .found sp p u → s.cur.derr ≠ some s.accesses →
            (load = true → set = true → s.cur.derr ≠ some (s.accesses + 1)) →
            both fun t => back t ∧
              t.cps = (if ctl.getLsbD 7 && ctl.getLsbD 5 then putBit cps 15 (!load) else cps) ∧
              t.alu = s.aluAfter ctl addr frozen ∧ units t ∧
              t.sr = (if frozen then s.sr else { s.sr with chc := putBit s.sr.chc 0 false }) ∧
              if load then read t ∧ (if set then s.LanesStored t sp ctl p 0xFFFFFFFF else s.SameMemory t)
              else s.RegsExcept t [] ∧ s.LanesStored t sp ctl p s.sr.chd) ∧
          (r1 = .found sp p u ∧ s.cur.derr = some s.accesses ∨ r1 = .absent u →
            both fun t => failed t ∧ s.RegsExcept t []) ∧
          (r1 = .found sp p u → load = true → set = true → s.cur.derr = some (s.accesses + 1) →
            both fun t => failed t ∧ read t) ∧
          (r1 = .trap vn u → traps vn fun w => w.cps = cps ∧ w.alu = s.alu ∧ units w ∧ s.RegsExcept w [] ∧
            s.SameMemory w ∧ { w.sr with lru := s.sr.lru } = s.sr ∧ w.sr.lru = u.sr.lru) ∧
          ∀ f, r1 = .fault f → stops f) ∧
        (ctl.getLsbD 7 = true → bitOf s.sr.cfg 1 = false →
          traps 3 fun w => w.cps = cps ∧ w.alu = s.alu ∧ s.SameGeneral w ∧ w.sr = s.sr)) ∧
    -- a sequence
    (bitOf s.sr.chc 0 = true → bitOf s.sr.chc 1 = false → bitOf s.sr.chc 14 = true →
      let q := s.recordedSequence
      (frozen = true → stops .multipleFrozen) ∧
      (frozen = false → ∀ (sp : Nat → Space) (p : Nat → Word),
        ((∀ j ≤ q.last, q.Made r (sp j) (p j) j) →
          both fun t => back t ∧ t.cps = q.status cps (q.last + 1) ∧ q.Completed s t sp p ∧ ahead t) ∧
        ∀ m ≤ q.last, (∀ j < m, q.Made r (sp j) (p j) j) →
          (q.Fails r m → both fun t => back t ∧ t.cps = q.status cps m ∧ q.FailedAt s t sp p m) ∧
          (∀ f, q.Usable r m ∧ ¬ q.NoUnit r ∧ r.locate (q.xfer m) = .fault f ∨
            r.bankProtected (q.reg m) = false ∧ ¬ q.Usable r m ∧ sequenceFault q.load (q.reg m) = some f → stops f) ∧
          ∀ vn, q.Traps r vn m ∨ r.bankProtected (q.reg m) = true ∧ vn = 5#8 →
            traps vn fun w => w.cps = q.status cps m ∧ q.StandsAt s w sp p m ∧
              (vn ≠ 5 → q.load = false → w.sr.chd = s.getGR (q.reg m)))))

/-- R166, R170, R171, R431 to R433: a load whose access is found completes: its register holds the word read, or with
CFG.DW = 1 the byte or half-word of it that the address selects, zero- or sign-extended. LOADSET also stores a word of
ones there, or with CFG.DW = 1 a byte or half-word of ones. The place of a byte within its word is log entry 7; what a
device or a coprocessor answers is log entry 8; that a LOADSET in the ROM leaves its contents is log entry 9. -/
def Obligations.LoadsComplete : Prop :=
  ∀ (ctl ra : Byte) (b : Opnd) (s u : State) (sp : Space) (p : Word),
    let addr := s.opnd b
    let reg := s.absReg .a ra
    let big := !bitOf s.sr.cfg 2
    let sub (opt : Byte) : Bool := bitOf s.sr.cfg 5 && ctl &&& 7 == opt && !ctl.getLsbD 7
    let k := if big then 3 - addr.toNat % 4 else addr.toNat % 4
    let h := if big then 1 - addr.toNat / 2 % 2 else addr.toNat / 2 % 2
    let pk := if big then p.toNat % 4 else 3 - p.toNat % 4
    let ph := if big then p.toNat / 2 % 2 else 1 - p.toNat / 2 % 2
    let value (w : Word) : Word :=
      if sub 1 then
        let v := BitVec.ofNat 8 (w.toNat / 2 ^ (8 * k))
        if ctl.getLsbD 4 then v.signExtend 32 else v.setWidth 32
      else if sub 2 then
        let v := BitVec.ofNat 16 (w.toNat / 2 ^ (16 * h))
        if ctl.getLsbD 4 then v.signExtend 32 else v.setWidth 32
      else w
    let base := p.toNat - p.toNat % 4
    let ones (t : State) : Prop :=
      if sp = .idmem then
        if sub 1 then s.Stored t (base + pk) [0xFF]
        else if sub 2 then s.Stored t (base + 2 * ph) [0xFF, 0xFF]
        else s.Stored t base [0xFF, 0xFF, 0xFF, 0xFF]
      else s.SameMemory t
    s.regStop (s.accessProtected ctl) (usesLoad ra b) = none → (bitOf s.sr.chc 14 && !s.frozen) = false →
    (ctl.getLsbD 7 = true → bitOf s.sr.cfg 1 = true) → s.cur.derr ≠ some s.accesses →
    let done (i : Instr) (set lock : Bool) (mem : State → Prop) : Prop :=
      s.locate ⟨ctl, true, set, lock, reg, addr, 0⟩ = .found sp p u →
        ∃ t w, exec i s = .next t ∧ s.Answers sp p w ∧ t.getGR reg = value w ∧ s.RegsExcept t [reg] ∧
          s.AccessDone t ctl true addr ∧ s.ChannelTells t ctl true set lock reg addr ∧ t.tlbUsage = u.tlbUsage ∧ mem t
    done (.load ctl ra b) false false s.SameMemory ∧
    done (.loadl ctl ra b) false true s.SameMemory ∧
    (s.cur.derr ≠ some (s.accesses + 1) → done (.loadset ctl ra b) true false ones)

/-- R167, R170, R171, R435, R436: a store whose access is found completes: in instruction/data memory the word, or
with CFG.DW = 1 the byte or half-word that the address selects, holds the low bits of the register; no other byte and
no register changes. The place of a byte within its word is log entry 7; a store to the ROM or to a device leaves no
contents (log entries 8 and 9). -/
def Obligations.StoresComplete : Prop :=
  ∀ (ctl ra : Byte) (b : Opnd) (s u : State) (sp : Space) (p : Word),
    let addr := s.opnd b
    let v := s.src .a ra
    let reg := s.absReg .a ra
    let big := !bitOf s.sr.cfg 2
    let sub (opt : Byte) : Bool := bitOf s.sr.cfg 5 && ctl &&& 7 == opt && !ctl.getLsbD 7
    let pk := if big then p.toNat % 4 else 3 - p.toNat % 4
    let ph := if big then p.toNat / 2 % 2 else 1 - p.toNat / 2 % 2
    let base := p.toNat - p.toNat % 4
    let byte (n : Nat) : Byte := BitVec.ofNat 8 (v.toNat / 2 ^ (8 * n))
    s.regStop (s.accessProtected ctl) (usesStore ra b) = none → (bitOf s.sr.chc 14 && !s.frozen) = false →
    (ctl.getLsbD 7 = true → bitOf s.sr.cfg 1 = true) → s.cur.derr ≠ some s.accesses →
    let done (i : Instr) (lock : Bool) : Prop :=
      s.locate ⟨ctl, false, false, lock, reg, addr, v⟩ = .found sp p u →
        ∃ t, exec i s = .next t ∧ s.RegsExcept t [] ∧ s.AccessDone t ctl false addr ∧
          s.ChannelTells t ctl false false lock reg addr ∧ (s.frozen = false → t.sr.chd = v) ∧
          t.tlbUsage = u.tlbUsage ∧
          if sp = .idmem then
            if sub 1 then s.Stored t (base + pk) [byte 0]
            else if sub 2 then s.Stored t (base + 2 * ph) [byte 1, byte 0]
            else s.Stored t base [byte 3, byte 2, byte 1, byte 0]
          else s.SameMemory t
    done (.store ctl ra b) false ∧ done (.storel ctl ra b) true

/-- R434, R438: LOADM moves CHC.CR + 1 words of consecutive addresses to consecutive registers; a register met twice
keeps the last word. The count is 0 at the end (log entry 46). -/
def Obligations.LoadMultipleCompletes : Prop :=
  ∀ (ctl ra : Byte) (b : Opnd) (s : State) (sp : Nat → Space) (p : Nat → Word),
    let addr := s.opnd b
    let n := s.sr.chc.toNat / 2 ^ 16 % 2 ^ 8
    let reg (j : Nat) : Byte := sequenceRegister (s.absReg .a ra) j
    s.regStop (s.accessProtected ctl) (usesLoad ra b) = none → s.frozen = false →
    (ctl.getLsbD 7 = false → ctl &&& 7 ≠ 1 ∧ ctl &&& 7 ≠ 2) → (ctl.getLsbD 7 = true → bitOf s.sr.cfg 1 = true) →
    s.hz.multiple = false →
    (∀ j ≤ n, (∃ u, s.locate ⟨ctl, true, false, false, reg j, addr + 4 * BitVec.ofNat 32 j, 0⟩ =
      .found (sp j) (p j) u) ∧ s.cur.derr ≠ some (s.accesses + j) ∧ s.bankProtected (reg j) = false ∧
      sequenceFault true (reg j) = none) →
    ∃ t, exec (.loadm ctl ra b) s = .next t ∧
      (∀ j ≤ n, (∀ k ≤ n, j < k → reg k ≠ reg j) → s.Answers (sp j) (p j) (t.getGR (reg j))) ∧
      (∀ m, (∀ j ≤ n, reg j ≠ m) → t.getGR m = s.getGR m) ∧ s.SameMemory t ∧ s.AccessDone t ctl true addr ∧
      s.SameSpecialButChannel t ∧ t.sr.cha = addr + 4 * BitVec.ofNat 32 n ∧ t.sr.chc &&& 0x00FF4003 = 0

/-- R437, R438: STOREM moves CHC.CR + 1 consecutive registers to words of consecutive addresses; where two of them are
at one physical address the last one stays. The count is 0 at the end (log entry 46), a word in the ROM is not kept
(log entry 9), and the first register may be gr2 (log entry 48). -/
def Obligations.StoreMultipleCompletes : Prop :=
  ∀ (ctl ra : Byte) (b : Opnd) (s : State) (sp : Nat → Space) (p : Nat → Word),
    let addr := s.opnd b
    let n := s.sr.chc.toNat / 2 ^ 16 % 2 ^ 8
    let reg (j : Nat) : Byte := sequenceRegister (s.absReg .a ra) j
    let inWord (a j : Nat) : Prop := sp j = .idmem ∧ a / 4 = (p j).toNat / 4
    s.regStop (s.accessProtected ctl) (usesStore ra b) = none → s.frozen = false →
    (ctl.getLsbD 7 = false → ctl &&& 7 ≠ 1 ∧ ctl &&& 7 ≠ 2) → (ctl.getLsbD 7 = true → bitOf s.sr.cfg 1 = true) →
    s.hz.multiple = false →
    (∀ j ≤ n, (∃ u, s.locate ⟨ctl, false, false, false, reg j, addr + 4 * BitVec.ofNat 32 j, 0⟩ =
      .found (sp j) (p j) u) ∧ s.cur.derr ≠ some (s.accesses + j) ∧ s.bankProtected (reg j) = false ∧
      (sequenceFault false (reg j) = none ∨ j = 0 ∧ reg j = 2#8)) →
    ∃ t, exec (.storem ctl ra b) s = .next t ∧ s.RegsExcept t [] ∧
      (∀ j ≤ n, sp j = .idmem → (∀ k ≤ n, j < k → ¬ (sp k = .idmem ∧ (p k).toNat / 4 = (p j).toNat / 4)) →
        readWord t.idmem (p j) = s.getGR (reg j)) ∧
      (∀ a, (∀ j ≤ n, ¬ inWord a j) → readByte t.idmem a = readByte s.idmem a) ∧
      (∀ a, readByte t.irom a = readByte s.irom a) ∧ t.imem = s.imem ∧ s.AccessDone t ctl false addr ∧
      s.SameSpecialButChannel t ∧ t.sr.cha = addr + 4 * BitVec.ofNat 32 n ∧ t.sr.chc &&& 0x00FF4003 = 0

/-- R162, R170 (4), (5), R179, R180: a single load or store whose access is not performed takes the trap of kind Next
that says why, with no register, memory byte or flag changed. Unless they are frozen the channel registers tell the
access: its address, the data of a store, and in CHC its control byte, target register, LS, ST and LA, ML and NN 0, CR
and TF as before and CV = 1. Of the other special registers only LRU may change. -/
def Obligations.RefusedAccessTraps : Prop :=
  ∀ (ctl ra : Byte) (b : Opnd) (vn : Byte) (s u : State),
    let addr := s.opnd b
    let reg := s.absReg .a ra
    let v := s.src .a ra
    (bitOf s.sr.chc 14 && !s.frozen) = false → (ctl.getLsbD 7 = true → bitOf s.sr.cfg 1 = true) →
    let traps (i : Instr) (us : List RegUse) (load set lock : Bool) (data : Word) : Prop :=
      s.regStop (s.accessProtected ctl) us = none → s.locate ⟨ctl, load, set, lock, reg, addr, data⟩ = .trap vn u →
        ∃ w, exec i s = w.takeInstTrap i.opcode vn .next ∧ s.RegsExcept w [] ∧ s.SameMemory w ∧ w.alu = s.alu ∧
          w.cps = s.cps ∧ w.pc = s.pc ∧ w.npc = s.npc ∧ w.acc = s.acc ∧ w.tlb = s.tlb ∧ w.tlbUsage = u.tlbUsage ∧
          s.ChannelWaits w ctl load set lock reg addr data
    traps (.load ctl ra b) (usesLoad ra b) true false false 0 ∧
    traps (.loadl ctl ra b) (usesLoad ra b) true false true 0 ∧
    traps (.loadset ctl ra b) (usesLoad ra b) true true false 0 ∧
    traps (.store ctl ra b) (usesStore ra b) false false false v ∧
    traps (.storel ctl ra b) (usesStore ra b) false false true v

/-- R152, R156, R162, R170 (4), (5), R175, R176, R180, R183, R439: where a data access goes. Coprocessor transfers and
untranslated accesses go to their address; a translated one, with the mode and the kind of access the rules give, to
the address it translates to, in input/output when the translation says so, or takes trap 9 or 11 for a miss (decision
D13) and 13 for a violation. An unaligned word or half-word of memory traps to vector 1 when CPS.TU is 1, tested after
the translation (decision D11, log entry 45). OPT = 100 is the ROM (log entry 9); an access right after MMU.PS changed
is a model fault (U25, log entry 23); the platform has no place for an address in one of its holes (log entry 47). -/
def Obligations.AccessesAreLocated : Prop :=
  ∀ (x : Xfer) (s : State),
    let r := s.locate x
    let opt := x.ctl &&& 7
    let translated : Prop := bitOf s.cps 6 = false ∧ s.mm = false ∧ x.ctl.getLsbD 5 = false
    let unaligned : Prop := bitOf s.cps 11 = true ∧
      (opt = 0 ∧ x.addr.toNat % 4 ≠ 0 ∨ opt = 2 ∧ x.addr.toNat % 2 ≠ 0)
    let user : Bool := s.user || x.ctl.getLsbD 3
    let kind : AccessKind := if x.set then .loadset else if x.load then .load else .store
    let memory (t : State) (p : Word) : Prop := (unaligned → r = .trap 1 t) ∧
      (¬ unaligned → if opt = 4 then t.Goes r .irom .irom p else t.Goes r .idmem .data p)
    (x.ctl.getLsbD 7 = true → s.Goes r .cop .cop x.addr) ∧
    (x.ctl.getLsbD 7 = false → ¬ translated →
      if x.ctl.getLsbD 6 then s.Goes r .io .io x.addr else memory s x.addr) ∧
    (x.ctl.getLsbD 7 = false → translated → s.hz.ps = true → r = .fault .hazardPageSize) ∧
    (x.ctl.getLsbD 7 = false → translated → s.hz.ps = false →
      match s.translate x.addr user kind with
      | .ok p io t => if io then t.Goes r .io .io p else memory t p
      | .miss t => r = .trap (if s.user then 9 else 11) t
      | .violation t => r = .trap 13 t
      | .fault f => r = .fault f)

/-- R177, R178, R180, R181: what a translation can do. A valid one keeps at least the low ten bits of the address and
changes nothing but the Usage bit of its line; a miss changes only LRU, and a violation only LRU and the Usage bit. -/
def Obligations.TranslationKeepsOffset : Prop :=
  ∀ (vaddr : Word) (user : Bool) (k : AccessKind) (s : State),
    match s.translate vaddr user k with
    | .ok p _ t => p &&& 0x3FF = vaddr &&& 0x3FF ∧ t = { s with tlbUsage := t.tlbUsage }
    | .miss t => t = { s with sr := { s.sr with lru := t.sr.lru } }
    | .violation t =>
      t = { s with sr := { s.sr with lru := t.sr.lru }, tlbUsage := t.tlbUsage, fresh := s.fresh + 1 }
    | .fault f => f = .regionUnusedBits ∨ f = .tlbDoubleMatch

/-- R176 to R181: what the memory management gives for an address. Region Mapping Unit 0 goes before unit 1 and that
before the TLB; a translation whose protection bits permit the access gives the physical address and the space, one
whose bits do not is a violation, which changes nothing but LRU (log entry 38). A TLB line whose set 0 entry matches
and whose set 1 entry does not sets the line's Usage bit, one whose set 1 entry alone matches clears it, and a line
without a match is a miss, which tells LRU the entry to replace. An enabled unit with unused bits that are not 0 (U7)
and a line both entries of which match (U10) are model faults (log entry 23; for which addresses such a unit faults,
log entry 60). -/
def Obligations.AddressesAreTranslated : Prop :=
  ∀ (vaddr : Word) (user : Bool) (k : AccessKind) (s : State),
    let r := s.translate vaddr user k
    let pn := if user then s.sr.mmu &&& 0xFF else 0#32
    let answers (w p : Word) (io : Bool) (t : State) : Prop :=
      (Permits w user k → r = .ok p io t) ∧
      (¬ Permits w user k → ∃ l : Word, l &&& 0xFFFFFF81 = 0 ∧
        r = .violation { t with sr := { t.sr with lru := l }, fresh := t.fresh + 1 })
    let region (rma rmc : Word) : Prop :=
      let n := 16 + rmc.toNat / 2 ^ 17 % 16
      answers rmc (BitVec.ofNat 32 (rma.toNat % 2 ^ 16 * 2 ^ 16 / 2 ^ n * 2 ^ n + vaddr.toNat % 2 ^ n)) (bitOf rmc 16) s
    let ps := s.sr.mmu.toNat / 256 % 4
    let line := vaddr.toNat / 2 ^ (10 + ps) % 32
    let matched (n : Nat) : Prop := bitOf (s.tlbWord n) 14 = true ∧ s.tlbWord n &&& 0xFF = pn ∧
      (s.tlbWord n).toNat / 2 ^ (15 + ps) = vaddr.toNat / 2 ^ (15 + ps)
    let m0 := 2 * line
    let m1 := 64 + 2 * line
    let page (n : Nat) (u : Bool) : Prop :=
      answers (s.tlbWord n)
        (BitVec.ofNat 32 ((s.tlbWord (n + 1)).toNat / 2 ^ (10 + ps) * 2 ^ (10 + ps) + vaddr.toNat % 2 ^ (10 + ps)))
        (bitOf (s.tlbWord (n + 1)) 0) { s with tlbUsage := s.tlbUsage.setIfInBounds line u }
    let tlb : Prop :=
      (matched m0 → matched m1 → r = .fault .tlbDoubleMatch) ∧
      (matched m0 → ¬ matched m1 → page m0 true) ∧
      (¬ matched m0 → matched m1 → page m1 false) ∧
      (¬ matched m0 → ¬ matched m1 → r = .miss { s with sr := { s.sr with
        lru := (if s.tlbUsage.getD line false then 64 else 0) + BitVec.ofNat 32 (2 * line) } })
    let next (rma rmc : Word) (rest : Prop) : Prop :=
      (RegionBroken rma rmc → r = .fault .regionUnusedBits) ∧
      (¬ RegionBroken rma rmc → (RegionHolds rma rmc vaddr pn → region rma rmc) ∧
        (¬ RegionHolds rma rmc vaddr pn → rest))
    next s.sr.rma0 s.sr.rmc0 (next s.sr.rma1 s.sr.rmc1 tlb)

/-- R170 (6), R660, R439: a single load or store that the platform answers with DERR, as it does at an address that
does not exist (log entry 47), completes without its result: the register of a load and the memory are as before,
CHC.TF and CHC.CV are 1 unless frozen, and the exception, vector 7 or for a coprocessor 4, is due within eight more
instructions (log entry 16). DERR on the write of a LOADSET finds its register written and the memory as before
(R433); CHC tells the load, and an instruction that writes the register counts as one after a faulted load (log entry
55). A coprocessor transfer with CFG.CP = 0 takes trap 3 of kind Next. A LOADM or STOREM (R438) that the platform
answers with DERR at some transfer has made those before it, its channel registers describe that transfer, and the
exception is due at once (log entry 17); one with a transfer that traps takes the trap of kind Next there, and one
that meets a protected register trap 5 of kind Curr (decision D23). The place of a byte in its word is log entry 7,
what devices answer and the ROM keeps are log entries 8 and 9, and a STOREM that starts at gr2 is log entry 48. -/
def Obligations.AccessErrors : Prop :=
  ∀ (ctl ra : Byte) (b : Opnd) (s u : State) (sp : Space) (p : Word),
    let addr := s.opnd b
    let reg := s.absReg .a ra
    let v := s.src .a ra
    let due (t : State) : Prop := t.derrEvent = some (if ctl.getLsbD 7 then 4 else 7) ∧ t.derrLeft ≤ 8
    let tells (t : State) (load set lock : Bool) (data : Word) : Prop := s.SameSpecialButChannel t ∧
      if s.frozen then t.sr = s.sr
      else t.sr.cha = addr ∧ t.sr.chc = s.channelWord ctl load set lock true reg ||| 0x400 ∧
        (load = false → t.sr.chd = data)
    let ends (i : Instr) (us : List RegUse) (load set lock : Bool) (data : Word) : Prop :=
      s.regStop (s.accessProtected ctl) us = none →
        ((ctl.getLsbD 7 = true → bitOf s.sr.cfg 1 = true) →
          (let r := s.locate ⟨ctl, load, set, lock, reg, addr, data⟩
           r = .found sp p u ∧ s.cur.derr = some s.accesses ∨ r = .absent u) →
          Completes i s fun t => s.RegsExcept t [] ∧ s.SameMemory t ∧ t.alu = s.alu ∧ due t ∧
            tells t load set lock data) ∧
        (ctl.getLsbD 7 = true → bitOf s.sr.cfg 1 = false →
          ∃ w, exec i s = w.takeInstTrap i.opcode 3 .next ∧ s.SameGeneral w ∧ w.alu = s.alu ∧ w.cps = s.cps ∧
            w.pc = s.pc ∧ w.npc = s.npc)
    let sequence (i : Instr) (us : List RegUse) (load : Bool) : Prop :=
      let q := s.startedSequence ctl ra b load
      s.regStop (s.accessProtected ctl) us = none → s.frozen = false → s.hz.multiple = false →
      (ctl.getLsbD 7 = false → ctl &&& 7 ≠ 1 ∧ ctl &&& 7 ≠ 2) →
      ∀ (sp : Nat → Space) (p : Nat → Word), ∀ m ≤ q.last, (∀ j < m, q.Made s (sp j) (p j) j) →
        let stops (vn : Byte) (k : TrapKind) : Prop :=
          ∃ w, exec i s = w.takeInstTrap i.opcode vn k ∧ w.pc = s.pc ∧ w.npc = s.npc ∧ w.cps = q.status s.cps m ∧
            q.StandsAt s w sp p m ∧ (vn ≠ 5 → q.load = false → w.sr.chd = s.getGR (q.reg m))
        (q.Fails s m → ∃ t, exec i s = .next t ∧ t.pc = s.npc ∧ t.npc = s.npc + 4 ∧
          t.cps = s.withTrace (q.status s.cps m) ∧ q.FailedAt s t sp p m) ∧
        (∀ vn, q.Traps s vn m → stops vn .next) ∧
        (s.bankProtected (q.reg m) = true → stops 5 .curr)
    ((bitOf s.sr.chc 14 && !s.frozen) = false →
      ends (.load ctl ra b) (usesLoad ra b) true false false 0 ∧
      ends (.loadl ctl ra b) (usesLoad ra b) true false true 0 ∧
      ends (.loadset ctl ra b) (usesLoad ra b) true true false 0 ∧
      ends (.store ctl ra b) (usesStore ra b) false false false v ∧
      ends (.storel ctl ra b) (usesStore ra b) false false true v ∧
      (s.regStop (s.accessProtected ctl) (usesLoad ra b) = none →
        (ctl.getLsbD 7 = true → bitOf s.sr.cfg 1 = true) →
        s.locate ⟨ctl, true, true, false, reg, addr, 0⟩ = .found sp p u → s.cur.derr = some (s.accesses + 1) →
        Completes (.loadset ctl ra b) s fun t => s.RegsExcept t [reg] ∧
          (∃ w, s.Answers sp p w ∧ t.getGR reg = s.lanesRead ctl addr w) ∧ s.SameMemory t ∧ t.alu = s.alu ∧
          due t ∧ t.derrLoad = some reg ∧ tells t true true false 0)) ∧
    sequence (.loadm ctl ra b) (usesLoad ra b) true ∧ sequence (.storem ctl ra b) (usesStore ra b) false

/-- R450, R40, R41, R665: MFSR writes to its destination the special register it names, and changes nothing else. CPS
shows IP computed (R710 (d)), CFG the release level above its stored bits, 133 to 135 the fields of ALU and CHC; of
PC0 to PC2 while unfrozen and SPC0 to SPC2 outside Monitor mode (log entry 31), and of the unimplemented numbers, only
that some word is read. -/
def Obligations.MoveFromSpecialCompletes : Prop :=
  ∀ (rc sa : Byte) (s : State),
    let n := sa.toNat
    s.regStop (s.user && (decide (n < 128) || decide (165 ≤ n))) [⟨.c, rc, .dst .other⟩] = none →
    (s.user = true ∨ n ≠ 163 ∧ n < 165) →
    ∃ v, Completes (.mfsr rc sa) s (fun t => s.Writes t (s.absReg .c rc) v ∧ t.alu = s.alu) ∧
      (n = 2 → v = putBit s.cps 14 s.interruptPending) ∧
      (n = 3 → v = (Config.prl.setWidth 32 <<< 24) ||| s.sr.cfg) ∧
      (n = 132 → v = s.alu) ∧ (n = 133 → v = (s.alu >>> 5) &&& 3) ∧ (n = 134 → v = s.alu &&& 0x1F) ∧
      (n = 135 → v = (s.sr.chc >>> 16) &&& 0xFF) ∧
      (10 ≤ n ∧ n ≤ 12 → s.frozen = false → v &&& 3 = 0) ∧ (20 ≤ n ∧ n ≤ 22 → s.mm = false → v &&& 3 = 0) ∧
      ((10 ≤ n ∧ n ≤ 12 → s.frozen = true) → (20 ≤ n ∧ n ≤ 22 → s.mm = true) →
        ∀ e ∈ specialTable, n = e.1 → v = e.2.1 s.sr)

/-- R455, R40, R41: what MTSR and MTSRIM do to a special register that is stored by itself: the bits the table names
take the value, its reserved bits are 0, and no other special register, general register, memory byte or flag changes.
A move to IPA, IPB or IPC makes no check of the register bank it names (R28 (a), log entry 51). That LRU takes bits 6
to 1 is log entry 29 (DESIGN CHOICE, decision D9); that PC0 to PC2 with FZ = 0 and SPC0 to SPC2 outside Monitor mode
keep the value until the hardware writes them is log entry 31 (DESIGN CHOICE). -/
def Obligations.MoveToSpecialCompletes : Prop :=
  ∀ (sa rb : Byte) (i : BitVec 16) (s : State),
    let n := sa.toNat
    let prot := s.user && (decide (n < 128) || decide (165 ≤ n))
    ∀ e ∈ specialTable, n = e.1 →
    let done (x : Instr) (us : List RegUse) (v : Word) : Prop :=
      s.regStop prot us = none → Completes x s fun t => e.2.1 t.sr = v &&& e.2.2 ∧
        (∀ o ∈ specialTable, o.1 ≠ n → o.2.1 t.sr = o.2.1 s.sr) ∧ t.sr.cfg = s.sr.cfg ∧ s.SameGeneral t ∧ t.alu = s.alu
    done (.mtsr sa rb) [⟨.b, rb, .src⟩] (s.src .b rb) ∧ done (.mtsrim sa i) [] (i.setWidth 32)

/-- R455, R456: MTSR and MTSRIM to the status registers and to the fields of others: CPS (2) keeps MM, CFG (3), ALU
(132), BP (133), FC (134) and CR (135). Only the named register changes, except that PC0 to PC2 are frozen at values
of the pipeline when FZ goes from 0 to 1 (log entry 31). That a TP written as 1 stays although TE is copied to it is
log entry 24. -/
def Obligations.MoveToStatusCompletes : Prop :=
  ∀ (sa rb : Byte) (i : BitVec 16) (s : State),
    let n := sa.toNat
    let prot := s.user && decide (n < 128)
    let done (x : Instr) (us : List RegUse) (v : Word) : Prop :=
      s.regStop prot us = none →
        (n = 2 → ∃ t, exec x s = .next t ∧ t.pc = s.npc ∧ t.npc = s.npc + 4 ∧ s.SameGeneral t ∧ t.alu = s.alu ∧
          (let c := (s.cps &&& 0x00010000) ||| (v &&& 0x0000BFFF)
           t.cps = putBit c 12 (bitOf v 13 || bitOf v 12)) ∧
          { t.sr with pc0 := s.sr.pc0, pc1 := s.sr.pc1, pc2 := s.sr.pc2 } = s.sr ∧
          (s.frozen = true ∨ bitOf v 10 = false → t.sr = s.sr)) ∧
        (n = 3 → Completes x s fun t => s.SameGeneral t ∧ t.alu = s.alu ∧ t.sr = { s.sr with cfg := v &&& 0xFF }) ∧
        (n = 132 → Completes x s fun t => s.SameGeneral t ∧ t.sr = s.sr ∧ t.alu = v &&& 0xFFF) ∧
        (n = 133 → Completes x s fun t => s.SameGeneral t ∧ t.sr = s.sr ∧
          t.alu = (s.alu &&& 0xFFFFFF9F) ||| ((v &&& 3) <<< 5)) ∧
        (n = 134 → Completes x s fun t => s.SameGeneral t ∧ t.sr = s.sr ∧
          t.alu = (s.alu &&& 0xFFFFFFE0) ||| (v &&& 0x1F)) ∧
        (n = 135 → Completes x s fun t => s.SameGeneral t ∧ t.alu = s.alu ∧
          t.sr = { s.sr with chc := (s.sr.chc &&& 0xFF00FFFF) ||| ((v &&& 0xFF) <<< 16) })
    done (.mtsr sa rb) [⟨.b, rb, .src⟩] (s.src .b rb) ∧ done (.mtsrim sa i) [] (i.setWidth 32)

/-- R453, R454, R81, R82: MFTLB and MTTLB outside User mode move the TLB register that bits 6-0 of SRCA name. Word 1
shows and writes the Usage bit, which both entries of a line share (log entry 28). -/
def Obligations.TlbMovesComplete : Prop :=
  ∀ (rc ra rb : Byte) (s : State), s.user = false →
    let n := (s.src .a ra).toNat % 128
    let line (k : Nat) : Nat := k % 64 / 2
    let shown (t : State) (k : Nat) : Word :=
      if k % 2 = 0 then t.tlbWord k else putBit (t.tlbWord k) 1 (t.tlbUsage.getD (line k) false)
    PlainCompletes (.mftlb rc ra) [⟨.a, ra, .src⟩, ⟨.c, rc, .dst .other⟩] (s.absReg .c rc) s (shown s n) ∧
    (s.regStop false [⟨.a, ra, .src⟩, ⟨.b, rb, .src⟩] = none →
      Completes (.mttlb ra rb) s fun t =>
        shown t n = s.src .b rb &&& (if n % 2 = 0 then 0xFFFFFFFF else 0xFFFFFCC3) ∧
        (∀ k < 128, k ≠ n → t.tlbWord k = s.tlbWord k) ∧
        (∀ l < 32, n % 2 = 0 ∨ l ≠ line n → t.tlbUsage.getD l false = s.tlbUsage.getD l false) ∧
        s.RegsExcept t [] ∧ s.SameMemory t ∧ t.sr = s.sr ∧ t.alu = s.alu ∧ t.acc = s.acc)

/-- R40, R453, R454, R603 to R605, R607, R170 (1), R665: in User mode the moves of protected special registers, the
TLB moves, INV, the interrupt returns, HALT without a debugger, and loads and stores with PA or UA are Protection
Violations of kind Curr: vector 5, nothing executed. -/
def Obligations.PrivilegedInUserMode : Prop :=
  ∀ (rc ra rb sa ctl : Byte) (b : Opnd) (i : BitVec 16) (s : State), s.user = true →
    let denied (x : Instr) : Prop := exec x s = s.takeInstTrap x.opcode 5 .curr
    (sa.toNat < 128 ∨ 165 ≤ sa.toNat → denied (.mfsr rc sa) ∧ denied (.mtsr sa rb) ∧ denied (.mtsrim sa i)) ∧
    denied (.mftlb rc ra) ∧ denied (.mttlb ra rb) ∧ denied .inv ∧ denied .iret ∧ denied .iretinv ∧
    (s.debugger = false → denied .halt) ∧
    (ctl.getLsbD 7 = false → ctl.getLsbD 5 = true ∨ ctl.getLsbD 3 = true →
      denied (.load ctl ra b) ∧ denied (.loadl ctl ra b) ∧ denied (.loadset ctl ra b) ∧ denied (.loadm ctl ra b) ∧
      denied (.store ctl ra b) ∧ denied (.storel ctl ra b) ∧ denied (.storem ctl ra b))

/-- R24 to R28, R665: in User mode an instruction that uses a register field whose absolute number, taken from an
indirect pointer or after the Stack-Pointer addition, is 4 or more and lies in a bank that RBP protects is a
Protection Violation of kind Curr; without such a field no instruction is one for its registers. A field that cannot
be resolved (U3, U25) is a model fault instead (log entry 23). The place of FUNC[3] in FMAC and DMAC, bit 5 of the
function code, with which RB is not used, is log entry 22 (PRESUMED, R507). -/
def Obligations.ProtectedBanksTrap : Prop :=
  ∀ (rc ra rb vn ctl fn sa : Byte) (o : Opnd) (abs : Bool) (i : BitVec 16) (s : State),
    let number (p : Pos) (f : Byte) : Byte :=
      if f = 0#8 then (match p with | .a => s.sr.ipa | .b => s.sr.ipb | .c => s.sr.ipc).extractLsb' 2 8
      else if 128 ≤ f.toNat then BitVec.ofNat 8 (128 + (f.toNat + s.spShadow.toNat) % 128)
      else f
    let resolved (p : Pos) (f : Byte) : Prop :=
      (f = 0#8 → (match p with | .a => s.hz.ipa | .b => s.hz.ipb | .c => s.hz.ipc) = false) ∧
      (128 ≤ f.toNat → s.spValid = true ∧ s.hz.sp = false)
    let bad (p : Pos) (f : Byte) : Prop :=
      resolved p f ∧ 4 ≤ (number p f).toNat ∧ bitOf s.sr.rbp ((number p f).toNat / 16) = true
    let badO : Prop := ∃ r, o = .reg r ∧ bad .b r
    let denied (x : Instr) : Prop := exec x s = s.takeInstTrap x.opcode 5 .curr
    (∀ (p : Pos) (f : Byte), s.absReg p f = number p f ∧ (s.fieldFault p f = none ↔ resolved p f)) ∧
    (∀ us : List RegUse, (s.user = true → ∀ u ∈ us, ¬ bad u.pos u.field) →
      s.regStop false us ≠ some (.trap 5 .curr s)) ∧
    (s.user = true →
      (bad .c rc ∨ bad .a ra ∨ badO →
        ∀ x ∈ aluForms rc ra o ++ plainForms rc ra o, x ≠ .div0 rc o → denied x) ∧
      (bad .c rc ∨ badO → denied (.div0 rc o) ∧ denied (.clz rc o)) ∧
      (bad .a ra ∨ badO →
        denied (.aseq vn ra o) ∧ denied (.asneq vn ra o) ∧ denied (.aslt vn ra o) ∧ denied (.asltu vn ra o) ∧
        denied (.asle vn ra o) ∧ denied (.asleu vn ra o) ∧ denied (.asgt vn ra o) ∧ denied (.asgtu vn ra o) ∧
        denied (.asge vn ra o) ∧ denied (.asgeu vn ra o) ∧ denied (.load ctl ra o) ∧ denied (.loadl ctl ra o) ∧
        denied (.loadset ctl ra o) ∧ denied (.loadm ctl ra o) ∧ denied (.store ctl ra o) ∧
        denied (.storel ctl ra o) ∧ denied (.storem ctl ra o)) ∧
      (bad .c rc ∨ bad .a ra ∨ bad .b rb →
        denied (.multiply rc ra rb) ∧ denied (.multiplu rc ra rb) ∧ denied (.multm rc ra rb) ∧
        denied (.multmu rc ra rb) ∧ denied (.divide rc ra rb) ∧ denied (.dividu rc ra rb) ∧ denied (.setip rc ra rb) ∧
        denied (.fadd rc ra rb) ∧ denied (.dadd rc ra rb) ∧ denied (.fsub rc ra rb) ∧ denied (.dsub rc ra rb) ∧
        denied (.fmul rc ra rb) ∧ denied (.dmul rc ra rb) ∧ denied (.fdmul rc ra rb) ∧ denied (.fdiv rc ra rb) ∧
        denied (.ddiv rc ra rb) ∧ denied (.feq rc ra rb) ∧ denied (.deq rc ra rb) ∧ denied (.fgt rc ra rb) ∧
        denied (.dgt rc ra rb) ∧ denied (.fge rc ra rb) ∧ denied (.dge rc ra rb) ∧ denied (.fmsm rc ra rb) ∧
        denied (.dmsm rc ra rb)) ∧
      (bad .c rc ∨ bad .a ra → denied (.exhws rc ra) ∧ denied (.convert rc ra fn) ∧ denied (.sqrt rc ra fn) ∧
        denied (.classify rc ra fn)) ∧
      (bad .a ra ∨ bad .b rb → denied (.calli ra rb) ∧ denied (.jmpfi ra rb) ∧ denied (.jmpti ra rb) ∧
        denied (.emulate vn ra rb)) ∧
      (bad .a ra ∨ fn.getLsbD 5 = false ∧ bad .b rb → denied (.fmac fn ra rb) ∧ denied (.dmac fn ra rb)) ∧
      (bad .a ra → denied (.const ra i) ∧ denied (.consth ra i) ∧ denied (.consthz ra i) ∧ denied (.constn ra i) ∧
        denied (.call abs ra i) ∧ denied (.jmpf abs ra i) ∧ denied (.jmpfdec abs ra i) ∧ denied (.jmpt abs ra i) ∧
        denied (.mtacc rc ra fn)) ∧
      (bad .b rb → denied (.jmpi rb) ∧ denied (.mtsr sa rb)) ∧
      (bad .c rc → denied (.mfsr rc sa) ∧ denied (.mfacc rc ra fn)))

/-- R29, R690: a write of GR[1] sets the shadow Stack Pointer to bits 8-2 of the value and makes it valid when the
instruction is of the classes the rule names, else makes it invalid; a write of any other register leaves it. So an
instruction that goes on to a next state has left GR[1] and its shadow alone, or is an integer arithmetic or logical
instruction with GR[1] as its destination and has set the shadow, or is another and has made it invalid. That the
MULTIPLY class is not of those classes is decision D5 (log entry 19). -/
def Obligations.StackPointerShadow : Prop :=
  (∀ (s : State) (c : WriteClass) (n : Byte) (v : Word),
    (n = 1#8 → (s.putGR c n v).spValid = (c = .alu ∨ c = .aluCca : Bool) ∧
      (c = .alu ∨ c = .aluCca → (s.putGR c n v).spShadow.toNat = v.toNat / 4 % 128)) ∧
    (n ≠ 1#8 → (s.putGR c n v).spValid = s.spValid ∧ (s.putGR c n v).spShadow = s.spShadow)) ∧
  (∀ (rc ra : Byte) (b : Opnd) (s t : State), s.absReg .c rc = 1#8 →
    (∀ i ∈ aluForms rc ra b, s.regStop false (usesRRM .alu rc ra b) = none → exec i s = .next t →
      t.spValid = true ∧ t.spShadow.toNat = t.sp.toNat / 4 % 128) ∧
    (∀ i ∈ plainForms rc ra b, s.regStop false (usesRRM .other rc ra b) = none → exec i s = .next t →
      t.spValid = false)) ∧
  (∀ (i : Instr) (s t : State), exec i s = .next t →
    t.sp = s.sp ∧ t.spValid = s.spValid ∧ t.spShadow = s.spShadow ∨
    (∃ rc ra b, i ∈ aluForms rc ra b ∧ s.absReg .c rc = 1#8) ∧ t.spValid = true ∧
      t.spShadow.toNat = t.sp.toNat / 4 % 128 ∨
    (∀ rc ra b, i ∉ aluForms rc ra b) ∧ t.spValid = false ∧ t.spShadow = s.spShadow)

/-- R506 to R510, R520 to R535: the two-operand floating-point instructions complete with the outcome of their
operation when no exception of it is unmasked. That the even register of a pair holds the high word of a double is log
entry 21 (PRESUMED, decision D7). -/
def Obligations.FloatArithmeticCompletes : Prop :=
  ∀ (rc ra rb : Byte) (s : State),
    let e := s.fpEnv
    let f := Fmt.single
    let d := Fmt.double
    let x (k : Fmt) := s.fpSrc s.fastFloat k .a ra
    let y (k : Fmt) := s.fpSrc s.fastFloat k .b rb
    let does (i : Instr) (from_ to_ : Fmt) (o : FpOutcome) : Prop :=
      FloatCompletes i (usesFp from_ to_ rc ra rb) to_ rc s o
    does (.fadd rc ra rb) f f ((fpAdd f e (x f) (y f)).packed f) ∧
    does (.dadd rc ra rb) d d ((fpAdd d e (x d) (y d)).packed d) ∧
    does (.fsub rc ra rb) f f ((fpAdd f e (x f) (y f).negate).packed f) ∧
    does (.dsub rc ra rb) d d ((fpAdd d e (x d) (y d).negate).packed d) ∧
    does (.fmul rc ra rb) f f ((fpMul f e (x f) (y f)).packed f) ∧
    does (.dmul rc ra rb) d d ((fpMul d e (x d) (y d)).packed d) ∧
    does (.fdmul rc ra rb) f d ((fpMul d e (x f) (y f)).packed d) ∧
    does (.fdiv rc ra rb) f f ((fpDiv f e (x f) (y f)).packed f) ∧
    does (.ddiv rc ra rb) d d ((fpDiv d e (x d) (y d)).packed d) ∧
    does (.feq rc ra rb) f f (fpCompare FpValue.equals FpValue.isSNaN (x f) (y f)) ∧
    does (.deq rc ra rb) d f (fpCompare FpValue.equals FpValue.isSNaN (x d) (y d)) ∧
    does (.fgt rc ra rb) f f (fpCompare (fun a b => b.below a) FpValue.isNaN (x f) (y f)) ∧
    does (.dgt rc ra rb) d f (fpCompare (fun a b => b.below a) FpValue.isNaN (x d) (y d)) ∧
    does (.fge rc ra rb) f f (fpCompare (fun a b => !a.below b) FpValue.isNaN (x f) (y f)) ∧
    does (.dge rc ra rb) d f (fpCompare (fun a b => !a.below b) FpValue.isNaN (x d) (y d))

/-- R550, R551, R554: CONVERT, SQRT and MFACC complete with the outcome of their operation when their control fields
are not reserved and no exception of it is unmasked. CONVERT goes from the format FS to the format FD, 00 an integer
of the kind UI says, 01 single- and 10 double-precision, rounding as RND says, or with RND = 100 as FPE.FRM does; what
the operations deliver is the statement FloatOperationsAreCorrect. The places of FMT and ACN in MFACC are log entry
22, an overflow into an integer is log entry 33 (decision D24), and that the even register of a pair holds the high
word of a double is log entry 21 (PRESUMED, decision D7). -/
def Obligations.FloatConversionsComplete : Prop :=
  ∀ (rc ra fn : Byte) (s : State),
    let fs := fn.toNat % 4
    let fd := fn.toNat / 4 % 4
    let rnd := fn.toNat / 16 % 8
    let ui := bitOf (fn.setWidth 32) 7
    let acf := s.sr.fpe.toNat / 2 ^ 9 % 4
    let f : Fmt := if fs = 2 then .double else .single
    let d : Fmt := if fd = 2 then .double else .single
    let m : Fmt := if (if fd = 0 then acf else fd) = 2 then .double else .single
    let x := s.fpSrc (bitOf s.sr.fpe 8) f .a ra
    let e : FpEnv := { s.fpEnv with mode := roundingOf (if rnd = 4 then s.sr.fpe.toNat / 2 ^ 6 % 4 else rnd) }
    let converts (o : FpOutcome) : Prop :=
      FloatCompletes (.convert rc ra fn) [⟨.a, ra, srcUse f⟩, ⟨.c, rc, dstUse d⟩] d rc s o
    (rnd ≤ 4 →
      (fs = 0 → fd = 1 ∨ fd = 2 → converts ((fpConvert d e (integerValue ui (s.src .a ra))).packed d)) ∧
      (fs = 1 ∨ fs = 2 → fd = 0 → converts (fpToInteger ui e x)) ∧
      (fs = 1 ∧ fd = 2 ∨ fs = 2 ∧ fd = 1 → converts ((fpConvert d e x).packed d))) ∧
    (fs = 1 ∨ fs = 2 → FloatCompletes (.sqrt rc ra fn) [⟨.a, ra, srcUse f⟩, ⟨.c, rc, dstUse f⟩] f rc s
      ((fpSqrt f s.fpEnv x).packed f)) ∧
    (fd ≠ 3 → acf = 1 ∨ acf = 2 → FloatCompletes (.mfacc rc ra fn) [⟨.c, rc, dstUse m⟩] m rc s
      ((fpConvert m s.fpEnv (unpack .double (bitOf s.sr.fpe 8) (s.getAcc fs))).packed m))

/-- R500 to R513, R529, R550, R553: what the floating-point operations deliver. A pattern stands for the value of its
three fields (R500, R501, R504 (1)), FPE gives the environment (R503, R504, R70). On finite operands the result is the
exact real sum, product, quotient, root or value, rounded by R503 through the rows of R509, or of R513 and R553 for
the instructions that never trap; the other operands take the rows of R508, and a comparison tells the order of R529.
With every exception masked a result is always delivered. The product of a multiply-accumulate is exact and its row of
a quiet NaN goes before that of an infinity times a zero (log entry 32); an overflow into an integer is written only
with VM = 1 (decision D24, log entry 33). That the even register of a pair holds the high word of a double is log
entry 21 (PRESUMED, decision D7). -/
def Obligations.FloatOperationsAreCorrect : Prop :=
  ∀ (f : Fmt) (e : FpEnv) (s : State) (a b c : FpValue) (na nb nc unsigned : Bool) (x y z : ℝ) (w : Word),
    let p := if f = .single then 23 else 52
    let q := if f = .single then 8 else 11
    let bias := if f = .single then 127 else 1023
    let n := na ^^ nb
    let infinite (v : FpValue) : Prop := v = .inf false ∨ v = .inf true
    let snan := a = .nan true ∨ b = .nan true
    let isnan := a.isNaN = true ∨ b.isNaN = true
    let nans (o : FpOutcome) : Prop := (isnan → f.NotANumber o snan)
    let sum := (fpAdd f e a b).packed f
    let product := (fpMul f e a b).packed f
    let ratio := (fpDiv f e a b).packed f
    let root := (fpSqrt f e a).packed f
    let same := (fpConvert f e a).packed f
    let int := fpToInteger unsigned e a
    let compared (o : FpOutcome) (invalid : Prop) (holds : EReal → EReal → Prop) : Prop :=
      (isnan → o.result = some 0 ∧ o.status.Tells False False False False False invalid) ∧
      ∀ u v : EReal, a.At u → b.At v → o.status.Tells False False False False False False ∧
        (holds u v → o.result = some 0x80000000) ∧ (¬ holds u v → o.result = some 0)
    let mac := fpMac f e.mode a b c
    let toAcc := fpToAcc f e.mode a
    -- patterns and environment
    (f.precision = p + 1 ∧ f.bias = bias ∧ f.minExp = 1 - (bias : Int)) ∧
    (∀ (flush : Bool) (d : DWord),
      let sign := d.getLsbD (p + q)
      let bexp := d.toNat / 2 ^ p % 2 ^ q
      let frac := d.toNat % 2 ^ p
      let v := unpack f flush d
      (bexp = 2 ^ q - 1 → v = if frac = 0 then .inf sign else .nan (frac < 2 ^ (p - 1))) ∧
      (bexp = 0 → v.Is sign (signFactor sign * (if flush then 0 else frac : Nat) * (2 : ℝ) ^ (1 - bias - p : Int))) ∧
      (0 < bexp → bexp < 2 ^ q - 1 →
        v.Is sign (signFactor sign * (2 ^ p + frac : Nat) * (2 : ℝ) ^ (bexp - bias - p : Int)))) ∧
    (∀ (flush : Bool) (k : Pos) (r : Byte),
      s.fpSrc flush .single k r = unpack .single flush ((s.src k r).setWidth 64) ∧
      s.fpSrc flush .double k r = unpack .double flush (s.getGR (s.absReg k r) ++ s.getGR (s.absReg k r + 1))) ∧
    (s.fpEnv.mode = roundingOf (s.sr.fpe.toNat / 2 ^ 6 % 4) ∧ s.fpEnv.ff = bitOf s.sr.fpe 8 ∧
      s.fpEnv.mask = ⟨bitOf s.sr.fpe 5, bitOf s.sr.fpe 4, bitOf s.sr.fpe 3, bitOf s.sr.fpe 2, bitOf s.sr.fpe 1,
        bitOf s.sr.fpe 0⟩ ∧
      roundingOf 0 = .nearest ∧ roundingOf 1 = .down ∧ roundingOf 2 = .up ∧ roundingOf 3 = .zero) ∧
    (a.Is na x → a.negate.Is (!na) (-x)) ∧ (a = .inf na → a.negate = .inf (!na)) ∧
    (∀ k, a = .nan k → a.negate = .nan k) ∧
    -- FADD, DADD, and with the second operand negated FSUB, DSUB (R508 (a))
    (nans sum ∧ (a = .inf na → b = .inf nb → if na = nb then f.Exactly sum (· = .inf na) else f.NotANumber sum True) ∧
      (a = .inf na → b.Is nb y → f.Exactly sum (· = .inf na)) ∧
      (a.Is na x → b = .inf nb → f.Exactly sum (· = .inf nb)) ∧
      (a.Is na x → b.Is nb y → f.Results e (if na = nb then na else decide (e.mode = .down)) (x + y) sum)) ∧
    -- FMUL, DMUL, FDMUL (R508 (b))
    (nans product ∧ (a = .inf na → b = .inf nb → f.Exactly product (· = .inf n)) ∧
      (a = .inf na → b.Is nb y → if y = 0 then f.NotANumber product True else f.Exactly product (· = .inf n)) ∧
      (a.Is na x → b = .inf nb → if x = 0 then f.NotANumber product True else f.Exactly product (· = .inf n)) ∧
      (a.Is na x → b.Is nb y → f.Results e n (x * y) product)) ∧
    -- FDIV, DDIV (R508 (c))
    (nans ratio ∧ (a = .inf na → b = .inf nb → f.NotANumber ratio True) ∧
      (a = .inf na → b.Is nb y → f.Exactly ratio (· = .inf n)) ∧
      (a.Is na x → b = .inf nb → f.Exactly ratio (·.Is n 0)) ∧
      (a.Is na x → b.Is nb 0 → x = 0 → f.NotANumber ratio True) ∧
      (a.Is na x → b.Is nb 0 → x ≠ 0 → (∃ v, ratio.result = some v ∧ f.Pattern v (· = .inf n)) ∧
        ratio.status.Tells True False False False False False) ∧
      (a.Is na x → b.Is nb y → y ≠ 0 → f.Results e n (x / y) ratio)) ∧
    -- SQRT (R508 (f)) and conversions between formats (R508 (g), (j))
    ((∀ k, a = .nan k → f.NotANumber root (k = true) ∧ f.NotANumber same (k = true)) ∧
      (a = .inf na → f.Exactly same (· = .inf na) ∧
        if na then f.NotANumber root True else f.Exactly root (· = .inf false)) ∧
      (a.Is na x → f.Results e na x same ∧ (x < 0 → f.NotANumber root True) ∧
        (0 ≤ x → f.Results e na (Real.sqrt x) root))) ∧
    -- CONVERT from and to an integer (R508 (h), (i), R550)
    (if unsigned then (integerValue unsigned w).Is false w.toNat
      else (integerValue unsigned w).Is (decide (w.toInt < 0)) w.toInt) ∧
    (let largest : Word := if unsigned then 0xFFFFFFFF else 0x7FFFFFFF
      let smallest : Word := if unsigned then 0 else 0x80000000
      let low : Int := if unsigned then 0 else -2 ^ 31
      let high : Int := if unsigned then 2 ^ 32 - 1 else 2 ^ 31 - 1
      let invalid (v : Word) : Prop := int.result = some (v.setWidth 64) ∧
        int.status.Tells False False False False False True
      (∀ k, a = .nan k → int.result = some 0 ∧ int.status.Tells False False False False True True) ∧
      (a = .inf na → invalid (if na then smallest else largest)) ∧
      (a.Is na x → unsigned = true → x < 0 → invalid 0) ∧
      (a.Is na x → unsigned = false ∨ 0 ≤ x → ∃ i : Int, IsRounded e.mode 0 x i ∧
        (low ≤ i → i ≤ high → int.status.Tells False ((i : ℝ) ≠ x) False False False False ∧
          ((i : ℝ) = x ∨ e.mask.x = true → int.result = some ((BitVec.ofInt 32 i).setWidth 64)) ∧
          ((i : ℝ) ≠ x → e.mask.x = false → int.result = none)) ∧
        (i < low ∨ high < i → int.status.Tells False False False False False True ∧
          int.result = if e.mask.v then some ((if i < low then smallest else largest).setWidth 64) else none))) ∧
    -- the comparisons (R508 (d), (e), R529)
    (compared (fpCompare FpValue.equals FpValue.isSNaN a b) snan (· = ·) ∧
      compared (fpCompare (fun u v => v.below u) FpValue.isNaN a b) True (· > ·) ∧
      compared (fpCompare (fun u v => !u.below v) FpValue.isNaN a b) True (· ≥ ·)) ∧
    -- the multiply-accumulate group (R508 (k), R513)
    ((isnan ∨ c.isNaN = true → mac.1 = .nan false ∧
        mac.2.Tells False False False False True (snan ∨ c = .nan true)) ∧
      (¬ isnan → c.isNaN = false → infinite a ∨ infinite b →
        ∀ sa sb, (a = .inf sa ∨ a.Is sa x) → (b = .inf sb ∨ b.Is sb y) →
          let bad := a.Is sa 0 ∨ b.Is sb 0 ∨ c = .inf (!(sa ^^ sb))
          (bad → mac.1 = .nan false ∧ mac.2.Tells False False False False True True) ∧
          (¬ bad → mac.1 = .inf (sa ^^ sb) ∧ mac.2.Tells False False False False False False)) ∧
      (a.Is na x → b.Is nb y → c = .inf nc →
        mac.1 = .inf nc ∧ mac.2.Tells False False False False False False) ∧
      (a.Is na x → b.Is nb y → c.Is nc z →
        f.Flushes e.mode (if n = nc then n else decide (e.mode = .down)) (x * y + z) False mac.1 mac.2)) ∧
    -- MTACC (R508 (j), R553)
    ((∀ k, a = .nan k → toAcc.1 = .nan false ∧ toAcc.2.Tells False False False False True (k = true)) ∧
      (a = .inf na → toAcc.1 = .inf na ∧ toAcc.2.Tells False False False False False False) ∧
      (a.Is na x → f.Flushes e.mode na x True toAcc.1 toAcc.2)) ∧
    -- the pattern of a value that the format holds, in it or in double-precision; the bits of a status
    (∀ g : Fmt, g = f ∨ g = .double → pack g (.nan unsigned) = quietNaN g ∧ g.Pattern (pack g (.inf na)) (· = .inf na) ∧
      (a.Is na x → x = 0 ∨ f.Rounds .zero x x ∧ (2 : ℝ) ^ f.minExp ≤ |x| ∧ |x| ≤ f.largest →
        g.Pattern (pack g a) (·.Is na x))) ∧
    (∀ t : FpStatus, t.bits.toNat < 64 ∧ bitOf t.bits 0 = t.n ∧ bitOf t.bits 1 = t.r ∧ bitOf t.bits 2 = t.v ∧
      bitOf t.bits 3 = t.u ∧ bitOf t.bits 4 = t.x ∧ bitOf t.bits 5 = t.d) ∧
    -- all exceptions masked
    (e.mask = ⟨true, true, true, true, true, true⟩ →
      (fpAdd f e a b).result.isSome = true ∧ (fpSub f e a b).result.isSome = true ∧
      (fpMul f e a b).result.isSome = true ∧ (fpDiv f e a b).result.isSome = true ∧
      (fpSqrt f e a).result.isSome = true ∧ (fpConvert f e a).result.isSome = true ∧
      (fpConvert f e (integerValue unsigned w)).result.isSome = true ∧
      (fpToInteger unsigned e a).result.isSome = true)

/-- R510, R511: an unmasked exception of a floating-point instruction takes trap 22 with the destination unchanged,
the sticky bits of the masked exceptions and the trap status bits in FPS, and in the indirect pointers the register
numbers, or in IPB the function code (decision D26); so does an overflow into an integer with VM = 0 (decision D24,
log entry 33). The places of the fields are log entry 22; CPS after the trap, the R bit of a vector word and EXOP are
log entries 4 (decision D1) and 5 (decision D3) and decision D30; that the even register of a pair holds the high word
of a double is log entry 21 (PRESUMED, decision D7). That several exceptions trap if any of them is unmasked is log
entry 33 (DESIGN CHOICE, decision D28); that the bank of RA of MFACC, which the instruction does not use, is not
checked is log entry 52 (DESIGN CHOICE). -/
def Obligations.FloatExceptionsTrap : Prop :=
  ∀ (rc ra rb fn : Byte) (s : State),
    let e := s.fpEnv
    let f := Fmt.single
    let d := Fmt.double
    let x (k : Fmt) := s.fpSrc s.fastFloat k .a ra
    let y (k : Fmt) := s.fpSrc s.fastFloat k .b rb
    let fs := fn.toNat % 4
    let fd := fn.toNat / 4 % 4
    let rnd := fn.toNat / 16 % 8
    let ui := bitOf (fn.setWidth 32) 7
    let acf := s.sr.fpe.toNat / 2 ^ 9 % 4
    let g : Fmt := if fs = 2 then d else f
    let h : Fmt := if fd = 2 then d else f
    let m : Fmt := if (if fd = 0 then acf else fd) = 2 then d else f
    let r : FpEnv := { e with mode := roundingOf (if rnd = 4 then s.sr.fpe.toNat / 2 ^ 6 % 4 else rnd) }
    let does (i : Instr) (from_ to_ : Fmt) (o : FpOutcome) : Prop :=
      FloatTraps i (usesFp from_ to_ rc ra rb) s o fun t => s.PointerFor .c rc t.sr.ipc ∧ s.PointerFor .a ra t.sr.ipa ∧
        s.PointerFor .b rb t.sr.ipb
    let codes (i : Instr) (us : List RegUse) (o : FpOutcome) : Prop :=
      FloatTraps i us s o fun t => s.PointerFor .c rc t.sr.ipc ∧ s.PointerFor .a ra t.sr.ipa ∧
        s.PointerForCode .b fn t.sr.ipb
    let converts (o : FpOutcome) : Prop := codes (.convert rc ra fn) [⟨.a, ra, srcUse g⟩, ⟨.c, rc, dstUse h⟩] o
    does (.fadd rc ra rb) f f ((fpAdd f e (x f) (y f)).packed f) ∧
    does (.dadd rc ra rb) d d ((fpAdd d e (x d) (y d)).packed d) ∧
    does (.fsub rc ra rb) f f ((fpAdd f e (x f) (y f).negate).packed f) ∧
    does (.dsub rc ra rb) d d ((fpAdd d e (x d) (y d).negate).packed d) ∧
    does (.fmul rc ra rb) f f ((fpMul f e (x f) (y f)).packed f) ∧
    does (.dmul rc ra rb) d d ((fpMul d e (x d) (y d)).packed d) ∧
    does (.fdmul rc ra rb) f d ((fpMul d e (x f) (y f)).packed d) ∧
    does (.fdiv rc ra rb) f f ((fpDiv f e (x f) (y f)).packed f) ∧
    does (.ddiv rc ra rb) d d ((fpDiv d e (x d) (y d)).packed d) ∧
    does (.feq rc ra rb) f f (fpCompare FpValue.equals FpValue.isSNaN (x f) (y f)) ∧
    does (.deq rc ra rb) d f (fpCompare FpValue.equals FpValue.isSNaN (x d) (y d)) ∧
    does (.fgt rc ra rb) f f (fpCompare (fun a b => b.below a) FpValue.isNaN (x f) (y f)) ∧
    does (.dgt rc ra rb) d f (fpCompare (fun a b => b.below a) FpValue.isNaN (x d) (y d)) ∧
    does (.fge rc ra rb) f f (fpCompare (fun a b => !a.below b) FpValue.isNaN (x f) (y f)) ∧
    does (.dge rc ra rb) d f (fpCompare (fun a b => !a.below b) FpValue.isNaN (x d) (y d)) ∧
    (rnd ≤ 4 →
      (fs = 0 → fd = 1 ∨ fd = 2 → converts ((fpConvert h r (integerValue ui (s.src .a ra))).packed h)) ∧
      (fs = 1 ∨ fs = 2 → fd = 0 → converts (fpToInteger ui r (x g))) ∧
      (fs = 1 ∧ fd = 2 ∨ fs = 2 ∧ fd = 1 → converts ((fpConvert h r (x g)).packed h))) ∧
    (fs = 1 ∨ fs = 2 → codes (.sqrt rc ra fn) [⟨.a, ra, srcUse g⟩, ⟨.c, rc, dstUse g⟩] ((fpSqrt g e (x g)).packed g)) ∧
    (fd ≠ 3 → acf = 1 ∨ acf = 2 → codes (.mfacc rc ra fn) [⟨.c, rc, dstUse m⟩]
      ((fpConvert m e (unpack .double s.fastFloat (s.getAcc fs))).packed m))

/-- R512: a reserved control-field value takes the trap of the instruction, with its destination, the accumulators and
FPS unchanged. The places of FMT and ACN are log entry 22 (PRESUMED, R507). CPS after the trap, the R bit of a vector
word and EXOP are log entries 4 (PRESUMED, decision D1) and 5 (PRESUMED, decision D3) and decision D30. That the bank
of a field the instruction does not use (RC of MTACC, RA of MFACC, RB of FMAC and DMAC with FUNC[3] = 1) is not
checked although the trap copies it into a pointer is log entry 52 (DESIGN CHOICE). -/
def Obligations.ReservedControlFieldsTrap : Prop :=
  ∀ (rc ra rb fn : Byte) (s : State), s.TrapReady →
    let fs := fn.toNat % 4
    let fd := fn.toNat / 4 % 4
    let acf := s.sr.fpe.toNat / 2 ^ 9 % 4
    let mac := if fn.getLsbD 5 then [⟨.a, ra, .number⟩] else [⟨.a, ra, .number⟩, ⟨.b, rb, .number⟩]
    let traps (i : Instr) (us : List RegUse) (vn : Byte) : Prop := s.regStop false us = none →
      ∃ t, exec i s = .next t ∧ s.TrapTaken t vn i.opcode ∧ t.sr.fps = s.sr.fps
    let move := fd = 3 ∨ fd = 0 ∧ (acf = 0 ∨ acf = 3)
    (acf = 0 ∨ acf = 3 → traps (.fmac fn ra rb) mac 24 ∧ traps (.dmac fn ra rb) mac 25) ∧
    (fs = 3 ∨ fd = 3 → traps (.convert rc ra fn) [⟨.a, ra, .number⟩, ⟨.c, rc, .number⟩] 36) ∧
    (fs = 0 ∨ fs = 3 → traps (.sqrt rc ra fn) [⟨.a, ra, .number⟩, ⟨.c, rc, .number⟩] 37 ∧
      traps (.classify rc ra fn) [⟨.a, ra, .number⟩, ⟨.c, rc, .number⟩] 38) ∧
    (move → traps (.mtacc rc ra fn) [⟨.a, ra, .number⟩] 40 ∧ traps (.mfacc rc ra fn) [⟨.c, rc, .number⟩] 41)

/-- R513, R540 to R543, R553: multiply-accumulate, multiply-sum and MTACC always complete, whatever the masks: the
accumulator or DEST takes the outcome, its status enters the sticky bits, and nothing else changes. The places of
FUNC, ACN and FMT are log entry 22 (PRESUMED, R507), FMAC with ACF = 10 is log entry 27, the exact product and the
order of two rows of R508 (k) are log entry 32; what fpMac and fpToAcc deliver is the statement
FloatOperationsAreCorrect. That the even register of a pair holds the high word of a double is log entry 21 (PRESUMED,
decision D7). -/
def Obligations.AccumulationCompletes : Prop :=
  ∀ (rc ra rb fn : Byte) (s : State),
    let acf := s.sr.fpe.toNat / 2 ^ 9 % 4
    let n := fn.toNat % 4
    let mode := s.fpEnv.mode
    let fd := fn.toNat / 4 % 4
    let neg (k : Nat) (v : FpValue) : FpValue := if fn.getLsbD k then v.negate else v
    let one : FpValue := .fin false 1 0
    let zero : FpValue := .fin false 0 0
    let o2 (f : Fmt) := neg 2 (if fn.getLsbD 5 then one else s.fpSrc true f .b rb)
    let o3 := neg 3 (if fn.getLsbD 4 then zero else unpack .double true (s.getAcc n))
    let uses (u : Use) : List RegUse := if fn.getLsbD 5 then [⟨.a, ra, u⟩] else [⟨.a, ra, u⟩, ⟨.b, rb, u⟩]
    let keeps (t : State) (st : FpStatus) : Prop := s.SameMemory t ∧ t.alu = s.alu ∧ s.SameSpecialButFps t ∧
      t.sr.fps = s.sr.fps ||| st.bits ∧ t.tlb = s.tlb ∧ t.tlbUsage = s.tlbUsage
    let puts (i : Instr) (us : List RegUse) (r : FpValue × FpStatus) : Prop := s.regStop false us = none →
      Completes i s fun t => t.getAcc n = pack .double r.1 ∧ (∀ k < 4, k ≠ n → t.getAcc k = s.getAcc k) ∧
        s.RegsExcept t [] ∧ keeps t r.2
    let sums (i : Instr) (f : Fmt) : Prop :=
      let r := fpMac f mode (s.fpSrc true f .a ra) (unpack .double true (s.getAcc 0)) (s.fpSrc true f .b rb)
      s.regStop false (usesFp f f rc ra rb) = none →
        Completes i s fun t => s.FloatResult t f (s.absReg .c rc) (pack f r.1) ∧ t.acc = s.acc ∧ keeps t r.2
    let m := fmtOf (if fd = 0 then acf else fd)
    (acf = 1 → puts (.fmac fn ra rb) (uses .fpuSrc) (fpMac .single mode (s.fpSrc true .single .a ra) (o2 .single) o3)) ∧
    (acf = 2 → puts (.fmac fn ra rb) (uses .fpuSrc) (fpMac .double mode (s.fpSrc true .single .a ra) (o2 .single) o3)) ∧
    (acf = 2 → puts (.dmac fn ra rb) (uses .doubleSrc)
      (fpMac .double mode (s.fpSrc true .double .a ra) (o2 .double) o3)) ∧
    (acf = 1 → sums (.fmsm rc ra rb) .single) ∧ (acf = 2 → sums (.dmsm rc ra rb) .double) ∧
    (fd ≠ 3 → acf = 1 ∨ acf = 2 → puts (.mtacc rc ra fn) [⟨.a, ra, srcUse m⟩]
      (fpToAcc (fmtOf acf) mode (s.fpSrc false m .a ra)))

/-- R552: CLASS writes the classification code of its source, whatever FPE.FF says: bit 5 the sign, of a NaN too, bits
4-0 the row of the biased exponent and the column of the fraction, the other bits 0. That the even register of a pair
holds the high word of a double is log entry 21 (PRESUMED, decision D7). -/
def Obligations.ClassifyCompletes : Prop :=
  ∀ (rc ra fn : Byte) (s : State), fn.toNat % 4 = 1 ∨ fn.toNat % 4 = 2 →
    let long : Bool := decide (fn.toNat % 4 = 2)
    let n := s.absReg .a ra
    let p := if long then 52 else 23
    let q := if long then 11 else 8
    let w : Nat := if long then (s.getGR n).toNat * 2 ^ 32 + (s.getGR (n + 1)).toNat else (s.getGR n).toNat
    let sign := w / 2 ^ (p + q) % 2
    let bexp := w / 2 ^ p % 2 ^ q
    let frac := w % 2 ^ p
    let row := if bexp = 0 then 0 else if bexp = 1 then 4 else if bexp < 2 ^ q - 2 then 8 else 12
    let column := if frac = 0 then 0 else if frac = 2 ^ p - 1 then 3 else 2
    let code :=
      if bexp = 2 ^ q - 1 then (if frac = 0 then 16 else if frac < 2 ^ (p - 1) then 18 else 19) else row + column
    PlainCompletes (.classify rc ra fn) [⟨.a, ra, srcUse (if long then .double else .single)⟩, ⟨.c, rc, .dst .fpu⟩]
      (s.absReg .c rc) s (BitVec.ofNat 32 (32 * sign + code))

/-- R503: rounding to the precision of a format with unbounded exponent. The result is a multiple of the unit in the
last place `2^g`; to nearest it is no further from the exact value than any other multiple, and of two equally near
ones the even; the directed modes give the neighbour below, above, or nearer to zero; inexact tells the difference. -/
def Obligations.RoundingIsCorrect : Prop :=
  ∀ (f : Fmt) (mode : Rounding) (neg : Bool) (m : Nat) (e : Int), 0 < m →
    let r := roundTo f mode neg m e
    let g := leadingExp m e - (f.precision - 1 : Nat)
    let x := rationalOf m e
    let y := rationalOf r.m r.e
    let unit (k : Nat) := rationalOf k g
    (∃ k, y = unit k) ∧ (r.inexact = true ↔ y ≠ x) ∧ |y - x| < unit 1 ∧
    (mode = .nearest → ∀ k, |y - x| ≤ |unit k - x| ∧
      (|y - x| = |unit k - x| → y ≠ unit k → ∀ j, y = unit j → j % 2 = 0)) ∧
    (mode = .zero ∨ mode = .down ∧ neg = false ∨ mode = .up ∧ neg = true → y ≤ x) ∧
    (mode = .down ∧ neg = true ∨ mode = .up ∧ neg = false → x ≤ y)

/-- R500 to R502: a bit pattern of a format that is no NaN is the pattern of its own value. -/
def Obligations.PatternsRoundTrip : Prop :=
  (∀ w : DWord, w.toNat < 2 ^ 32 → (unpack .single false w).isNaN = false → pack .single (unpack .single false w) = w) ∧
  (∀ w : DWord, (unpack .double false w).isNaN = false → pack .double (unpack .double false w) = w)

/-- R503, R526, R527, R551: the quotient and the square root that are rounded lie on the right side of every number
with fewer bits: an even last bit says that they are exact, an odd one that the exact value lies strictly between its
two neighbours, and both have at least two bits more than the format holds. -/
def Obligations.QuotientAndRootAreFaithful : Prop :=
  ∀ (f : Fmt) (ma mb : Nat) (ea eb : Int), 0 < ma → 0 < mb →
    let q := quotient f ma mb ea eb
    let z := rationalOf ma ea / rationalOf mb eb
    let r := squareRoot f ma ea
    let between (n : Nat) (e : Int) (below above : ℚ → Prop) : Prop := below (rationalOf (n - 1) e) ∧
      above (rationalOf (n + 1) e)
    (if q.1 % 2 = 0 then rationalOf q.1 q.2 = z else between q.1 q.2 (· < z) (z < ·)) ∧ 2 ^ (f.precision + 2) ≤ q.1 ∧
    (if r.1 % 2 = 0 then rationalOf r.1 r.2 ^ 2 = rationalOf ma ea
     else between r.1 r.2 (· ^ 2 < rationalOf ma ea) (rationalOf ma ea < · ^ 2)) ∧ 2 ^ (f.precision + 2) ≤ r.1

/-- R231 to R235, R244: every instruction is read back from the word that encodes it, with every field at every value.
-/
def Obligations.DecodeOfEncode : Prop := ∀ i : Instr, decode (encode i) = .ok i

/-- R231, R244 to R246: the decoder reads the operation code of the word: an instruction it answers has that operation
code, and a refusal names it; the 37 codes of R245 are illegal and the 19 of R246 reserved with their vectors. -/
def Obligations.OperationCodesDecide : Prop :=
  (∀ w i, decode w = .ok i → i.opcode = opField w) ∧
  (∀ w op, decode w = .error (.illegalOpcode op) ↔ op = opField w ∧ op.toNat ∈
    [0x00, 0x76, 0x77, 0x7F, 0x84, 0x85, 0x8A, 0x8B, 0x8D, 0x8E, 0x8F, 0xA2, 0xA3, 0xA6, 0xA7, 0xAE, 0xAF, 0xB0, 0xB1,
     0xB2, 0xB3, 0xB7, 0xB8, 0xB9, 0xBA, 0xBB, 0xBC, 0xBD, 0xC1, 0xC2, 0xC3, 0xC5, 0xC7, 0xC9, 0xCA, 0xCB, 0xCD]) ∧
  (∀ w op vn, decode w = .error (.reservedForEmulation op vn) ↔ op = opField w ∧ (op.toNat, vn.toNat) ∈
    [(0xBF, 28), (0xCF, 28), (0xD0, 28), (0xD1, 28), (0xD2, 28), (0xD3, 28), (0xD4, 28), (0xD5, 28), (0xD6, 28),
     (0xDC, 28), (0xDD, 29), (0xE7, 39), (0xF8, 56), (0xFA, 58), (0xFB, 59), (0xFC, 60), (0xFD, 61), (0xFE, 62),
     (0xFF, 63)])

/-- R245, R246, R243, R665: a word with an illegal operation code is the Illegal Opcode trap of kind Curr, vector 0;
one reserved for emulation takes its trap of kind Next with the indirect pointers set from its three fields, the
register banks being checked before the trap (decision D18): in User mode one of whose fields names a register in a
protected bank is a Protection Violation of kind Curr instead. CPS after the trap, the R bit of a vector word and EXOP
are log entries 4 (PRESUMED, decision D1) and 5 (PRESUMED, decision D3) and decision D30. -/
def Obligations.UnimplementedCodesTrap : Prop :=
  ∀ (w : Word) (s : State) (run : Instr → State → Out),
    let fields : List (Pos × Byte) := [(.a, aField w), (.b, bField w), (.c, cField w)]
    (∀ op, decode w = .error (.illegalOpcode op) → s.executeWord w run = s.takeInstTrap op 0 .curr) ∧
    (∀ op vn, decode w = .error (.reservedForEmulation op vn) →
      (s.TrapReady →
        s.regStop false [⟨.a, aField w, .number⟩, ⟨.b, bField w, .number⟩, ⟨.c, cField w, .number⟩] = none →
        ∃ t, s.executeWord w run = .next t ∧ s.TrapTaken t vn op ∧
          t.sr.ipc = (s.absReg .c (cField w)).setWidth 32 <<< 2 ∧
          t.sr.ipa = (s.absReg .a (aField w)).setWidth 32 <<< 2 ∧
          t.sr.ipb = (s.absReg .b (bField w)).setWidth 32 <<< 2) ∧
      (s.user = true →
        (∃ e ∈ fields, s.fieldFault e.1 e.2 = none ∧ 4 ≤ (s.absReg e.1 e.2).toNat ∧
          bitOf s.sr.rbp ((s.absReg e.1 e.2).toNat / 16) = true) →
        s.executeWord w run = s.takeInstTrap op 5 .curr))

/-- R251 (and R235): words written out from the encoding decode to their instructions. -/
def Obligations.EncodedWords : Prop :=
  decode 0x15828105 = .ok (.add 0x82 0x81 (.imm 5)) ∧
  decode 0x03014142 = .ok (.const 0x41 0x0142) ∧
  decode 0xA8018003 = .ok (.call false 0x80 0x0103) ∧
  decode 0x16008182 = .ok (.load 0 0x81 (.reg 0x82)) ∧
  decode 0xF0808182 = .ok (.fadd 0x80 0x81 0x82) ∧
  decode 0x88000000 = .ok .iret

/-- R8, R200, R222, R243: a step with no input, interrupt or trap to answer runs the instruction whose word lies at
the program counter, in memory or in the open frame of the Branch Target Cache: the next state is that of `exec`, with
the timer run for the cycles of the step. The state `exec` starts from is the one before the step but for the inputs
of the step, the Usage bit of the TLB line that translated the fetch, the Branch Target Cache, the instructions still
to be fetched under an old RE, PI and SM, and the number of the next free value. An instruction that an interrupt
return has fetched before it resumed a sequence (R606; `early`, log entry 59) is the word of then. It is said of a
step before which no store has overtaken a prefetched word that could still be fetched (R222; `prefetched` is empty).
The moment the timer runs is log entry 15 (DEDUCED), the open frame of the Branch Target Cache is log entry 10 (DESIGN
CHOICE), how the fetches under old RE, PI and SM run out is log entry 11 (DEDUCED, decision D16), and a separate
instruction memory is log entry 47 (DESIGN CHOICE). -/
def Obligations.StepRunsInstruction : Prop :=
  ∀ (s u : State) (i : Instr) (sp : FetchSpace) (p w : Word),
    let s1 := s.sample
    s1.cur.reset = false → s1.warnPending = false → s1.cur.cntl = 3 → s.cur.cntl = 3 → s.opMode = .executing →
    (s.mm = true ∧ s1.derrEvent = none ∨ s.mm = false ∧ s1.asyncDue = none ∧ s.wm = false) →
    s1.fetchPlace = .at sp p u → s.prefetched = [] →
    (u.btcStart.btcWord = some w ∨
      u.btcStart.btcWord = none ∧ s1.cur.ierr = false ∧
        (sp = .idmem ∧ ¬ s.Absent .instr p ∧
          w = (match s.early with | .found _ _ v :: _ => v | _ => readWord (s.imem.getD s.idmem) p) ∨
         sp = .irom ∧ ¬ s.Absent .irom p ∧ w = readWord s.irom p)) →
    decode w = .ok i →
    (s.mm = true ∨ ¬ s.Meets s.sr.iba0 s.sr.ibc0 ∧ ¬ s.Meets s.sr.iba1 s.sr.ibc1) →
    ∃ t, step s = tickedOut (exec i t) s1.cur.cycles ∧ t.btc.pendingInv = s.btc.pendingInv ∧
      t = { s with
        cur := s1.cur, inputs := s.inputs.tail, accesses := 0, tlbUsage := u.tlbUsage, btc := t.btc, fresh := t.fresh
        early := s.early.tail
        oldFetch := (s.oldFetch.takeWhile fun o => decide (1 < o.left)).map fun o => { o with left := o.left - 1 } }

/-- R640, R647, R680, R681, R683: an ordinary trap of kind Next, outside Monitor mode with DA = 0, saves the program
counters and the status, goes to the handler of its vector with traps and interrupts masked, in Supervisor mode, and
changes no general register, memory byte, accumulator, TLB register or flag. CPS after the trap, the R bit of a vector
word and EXOP are log entries 4 (PRESUMED, decision D1) and 5 (PRESUMED, decision D3) and decision D30. -/
def Obligations.TrapEntry : Prop :=
  ∀ (op vn : Byte) (s : State), s.TrapReady →
    ∃ t, s.takeInstTrap op vn .next = .next t ∧ s.TrapTaken t vn op ∧ t.user = false ∧ t.da = true ∧
      t.frozen = true ∧ t.sr.q = s.sr.q ∧ t.sr.fpe = s.sr.fpe ∧ t.sr.rbp = s.sr.rbp ∧ t.sr.ipa = s.sr.ipa ∧
      t.sr.ipb = s.sr.ipb ∧ t.sr.ipc = s.sr.ipc ∧ t.sr.cha = s.sr.cha ∧ t.sr.chc = s.sr.chc

/-- R38, R680, R683, R730: a trap of kind Curr saves the address of the instruction that did not execute in PC1, that
of the one after it in PC0 and that of the last one completed in PC2, and leaves CPS.TP as it was in OPS. That EXOP is
written is decision D30; the two low bits of a vector word, which the handler's address clears, are log entry 5
(PRESUMED, decision D3). -/
def Obligations.UnexecutedTrapEntry : Prop :=
  ∀ (op vn : Byte) (s : State), s.TrapReady → s.lastpcKnown = true →
    ∃ t, s.takeInstTrap op vn .curr = .next t ∧ t.pc = s.handlerAddress vn ∧ t.npc = t.pc + 4 ∧
      t.sr.spc2 = s.lastpc ∧ t.sr.spc1 = s.pc ∧ t.sr.spc0 = s.npc ∧
      (bitOf s.cps 10 = false → s.fzWindow = 0 → t.sr.pc2 = s.lastpc ∧ t.sr.pc1 = s.pc ∧ t.sr.pc0 = s.npc) ∧
      t.sr.ops = fieldOf (putBit s.cps 14 s.interruptPending) 0 16 ∧ t.sr.exop = op.setWidth 32 ∧
      s.SameGeneral t ∧ t.alu = s.alu

/-- R700: with DA = 1 outside Monitor mode a trap enters Monitor mode: execution goes on at ROM address 16, RSN holds
the vector number, SPC0 to SPC2 the program counters; of CPS only MM changes, besides the trace copy, and OPS is not
written. -/
def Obligations.MonitorTrapEntry : Prop :=
  ∀ (op vn : Byte) (s : State), s.mm = false → s.da = true →
    ∃ t, s.takeInstTrap op vn .next = .next t ∧ t.pc = 16 ∧ t.npc = 20 ∧ t.sr.rsn = vn.setWidth 32 ∧
      t.sr.spc2 = s.pc ∧ t.sr.spc1 = s.npc ∧ t.sr.spc0 = s.npc + 4 ∧
      t.cps = putBit (putBit s.cps 12 s.te) 16 true ∧ t.sr.ops = s.sr.ops ∧ t.sr.vab = s.sr.vab ∧ t.alu = s.alu ∧
      s.SameGeneral t ∧ (t.opMode = if s.debugger then .halted else s.opMode)

/-- R702, R705, R742: a WARN trap is taken by the next step whatever is masked: execution goes on at address 16, in
the ROM, and the mode of operation is the one CNTL asks for, or Halt mode where a debugger is present and the trap
enters Monitor mode or meets it. That it comes before the next instruction, and in Monitor mode is another entry at
16, is log entry 40 (DESIGN CHOICE, decisions D34 and D36); the CNTL values of U23 are log entry 34. -/
def Obligations.WarnIsTaken : Prop :=
  ∀ s : State, s.sample.cur.reset = false → s.sample.warnPending = true →
    let c := s.sample.cur.cntl
    s.cur.cntl ^^^ c ≠ 3 → c ≠ 0 →
    ∃ t, step s = .next t ∧ t.pc = 16 ∧ t.npc = 20 ∧ t.warnPending = false ∧ t.eRE = true ∧ s.SameGeneral t ∧
      t.opMode = (if (s.mm || s.da) && s.debugger then .halted
        else if c = 2 then .halted else if c = 1 then .stepping else .executing)

/-- R642, R646, R647, R660, R661, R664, R690, R702, R710, R720, R730, R731, R740, R742: what a step does before an
instruction executes, outside Monitor mode where nothing else is said. An access answered with DERR takes vector 7, or
4 for a coprocessor, once the delay the model drew is over, something else is due, or the next instruction waits for
the access (log entry 16, decision D15); CHC.TF does the same with DA = 0; in Monitor mode such an access is another
entry at 16. TRAP0 and TRAP1 take vectors 20 and 21. An active and enabled interrupt input is taken when nothing of
higher priority is due, the lowest-numbered one first, with vector 16 plus its number; then the Timer interrupt,
vector 14, by IN and IE. A Trace trap is due by TP; with DA = 1 it enters Monitor mode. A waiting processor lets only
time pass. A fetch goes where RE, PI and the translation say, or where an interrupt return has found it before it
resumed a sequence (R606, log entry 59); it takes trap 8 or 10 for a miss, 12 for a violation and 6 for IERR or an
address that does not exist (log entry 47), in Monitor mode another entry at 16. An instruction breakpoint takes trap
15, sets BHO of a unit that breaks, clears it of one met with BHO set, and with a debugger halts. How long fetches use
an old RE, PI and SM is decision D16 (log entry 11), and the last address is not said after an interrupt return (log
entry 30). Of CPS after an ordinary trap only TP and TE of the Trace trap are said (log entry 4, PRESUMED, decision
D1); the two low bits of a vector word, which the handler's address clears, are log entry 5 (PRESUMED, decision D3).
-/
def Obligations.StepTakesInterruptsAndTraps : Prop :=
  ∀ (s : State) (vn : Byte) (u : State) (sp : FetchSpace) (p : Word),
    let s1 := s.sample
    let enters (vn : Byte) (P : State → Prop) : Prop := s.da = false → s1.vectorFails vn = false →
      ∃ t, step s = .next t ∧ s.Entered t vn ∧ P t
    let monitor (vn : Byte) (P : State → Prop) : Prop := s.da = true →
      ∃ t, step s = .next t ∧ t.pc = 16 ∧ t.npc = 20 ∧ t.sr.rsn = vn.setWidth 32 ∧ s.CountersSaved t ∧
        t.cps = putBit s.cps 16 true ∧ t.sr.ops = s.sr.ops ∧ s.RegsExcept t [] ∧ s.SameMemory t ∧
        t.opMode = (if s.debugger then .halted else .executing) ∧ P t
    let again (P : State → Prop) : Prop :=
      ∃ t, step s = .next t ∧ t.pc = 16 ∧ t.npc = 20 ∧ t.cps = s.cps ∧ s.RegsExcept t [] ∧ s.SameMemory t ∧
        { t.sr with tmc := s.sr.tmc, tmr := s.sr.tmr } = s.sr ∧
        t.opMode = (if s.debugger then .halted else .executing) ∧ P t
    let any (_ : State) : Prop := True
    let held : Prop := ∀ i, s1.upcoming = some i → s1.heldByAccess i = true
    let quiet : Prop := s.derrEvent = none ∧ (bitOf s.sr.chc 10 = true → s.da = true)
    let masked (k : Nat) : Prop := s1.cur.intr.getLsbD k = true → s.di = true ∨ s.im < k
    -- an access answered with DERR
    (∀ v, s.Runs → s.mm = false → s.derrEvent = some v →
      s.derrLeft = 0 ∨ s.wm = true ∨ s1.otherDue ≠ none ∨ held →
      enters v (·.derrEvent = none) ∧ monitor v (·.derrEvent = none)) ∧
    (s.Runs → s.mm = false → s.derrEvent = none → bitOf s.sr.chc 10 = true →
      enters (if bitOf s.sr.chc 31 then 4 else 7) any) ∧
    (∀ v, s.Runs → s.mm = true → s.derrEvent = some v → s.derrLeft = 0 ∨ held → again (·.derrEvent = none)) ∧
    -- TRAP0 and TRAP1
    (s.Runs → s.mm = false → quiet → s1.cur.trap.getLsbD 0 = true → enters 20 any) ∧
    (s.Runs → s.mm = false → quiet → s1.cur.trap.getLsbD 0 = false → s1.cur.trap.getLsbD 1 = true → enters 21 any) ∧
    -- interrupts
    (∀ n < 4, s.Runs → s.mm = false → s.di = false → n ≤ s.im → quiet → s1.cur.trap = 0 →
      s1.cur.intr.getLsbD n = true → (∀ k < n, s1.cur.intr.getLsbD k = false) →
      enters (BitVec.ofNat 8 (16 + n)) any) ∧
    (s.Runs → s.mm = false → quiet → s1.cur.trap = 0 → (∀ k < 4, masked k) →
      bitOf s.sr.tmr 25 = true → bitOf s.sr.tmr 24 = true → enters 14 any) ∧
    -- the Trace trap
    (s.Runs → s.mm = false → quiet → bitOf s.cps 12 = true →
      (s.da = false → s1.cur.trap = 0 ∧ (bitOf s.sr.tmr 25 && bitOf s.sr.tmr 24) = false ∧ ∀ k < 4, masked k) →
      enters 15 (fun t => bitOf t.sr.ops 12 = true ∧ bitOf t.cps 12 = false ∧ bitOf t.cps 13 = false) ∧
      monitor 15 any) ∧
    -- Wait mode
    (s.Runs → s.mm = false → s1.asyncDue = none → s.wm = true →
      step s = .next (timerTicks (s1.cur.cycles + 1) s1)) ∧
    -- where a fetch goes
    (let now (o : OldFetch → Bool) (k : Nat) : Bool :=
        match s.oldFetch.getLast? with | some f => o f | none => bitOf s.cps k || bitOf s.cps 16
      s.early = [] → s.fetchPlace =
        if now (·.re) 8 then .at .irom s.pc s
        else if now (·.pi) 5 then .at .idmem s.pc s
        else match s.translate s.pc (!now (·.sm) 4) .fetch with
          | .ok q io t => .at (if io then .io else .idmem) q t
          | .miss t => .trap (if now (·.sm) 4 then 10 else 8) t
          | .violation t => .trap 12 t
          | .fault f => .fault f) ∧
    (∀ q a w es, s.early = .found q a w :: es → s.fetchPlace = .at q a s) ∧
    (∀ v l es, s.early = .trap v l :: es →
      s.fetchPlace = .trap v { s with sr := { s.sr with lru := l.setWidth 32 <<< 1 } }) ∧
    (∀ f es, s.early = .fault f :: es → s.fetchPlace = .fault f) ∧
    -- its traps
    (s.Executes → s1.fetchPlace = .trap vn u →
      enters vn (fun t => t.sr.lru = u.sr.lru) ∧ monitor vn (fun t => t.sr.lru = u.sr.lru)) ∧
    (s1.fetchPlace = .at sp p u → u.btcStart.btcWord = none → s1.cur.ierr = true ∨ s.Absent sp.map p →
      (s.Executes → enters 6 any ∧ monitor 6 any) ∧ (s.Runs → s.mm = true → s.derrEvent = none → again any)) ∧
    -- breakpoints
    (let broken (t : State) : Prop :=
        (bitOf t.sr.ibc0 12 = true ↔ s.Breaks s.sr.iba0 s.sr.ibc0 ∨ ¬ s.Meets s.sr.iba0 s.sr.ibc0 ∧
          bitOf s.sr.ibc0 12 = true) ∧
        (bitOf t.sr.ibc1 12 = true ↔ s.Breaks s.sr.iba1 s.sr.ibc1 ∨ ¬ s.Meets s.sr.iba1 s.sr.ibc1 ∧
          bitOf s.sr.ibc1 12 = true)
      ∀ w, s.Executes → s1.fetch = .ok w u → s.Breaks s.sr.iba0 s.sr.ibc0 ∨ s.Breaks s.sr.iba1 s.sr.ibc1 →
        enters 15 (fun t => broken t ∧ t.opMode = if s.debugger then .halted else .executing) ∧ monitor 15 broken)

/-- R720: the Timer Facility counts down once a cycle; a counter that has reached zero is reloaded and IN is set, and
OV is set when zero is reached with IN still set. After `n` cycles from a count `c ≥ n` it holds `c - n`. -/
def Obligations.TimerCounts : Prop :=
  (∀ s : State, s.sr.tmc = 0#32 → s.timerTick =
    { s with sr := { s.sr with tmc := s.sr.tmr &&& 0x00FFFFFF, tmr := s.sr.tmr ||| 0x02000000 } }) ∧
  (∀ (s : State) (n : Nat), n ≤ s.sr.tmc.toNat →
    (timerTicks n s).sr.tmc.toNat = s.sr.tmc.toNat - n ∧
    (n < s.sr.tmc.toNat ∨ n = 0 ∨ bitOf s.sr.tmr 25 = false → (timerTicks n s).sr.tmr = s.sr.tmr) ∧
    (n = s.sr.tmc.toNat → 0 < n → bitOf s.sr.tmr 25 = true →
      (timerTicks n s).sr.tmr = s.sr.tmr ||| 0x04000000))

/-- R140, R760, R761: what reset leaves, from any state: execution at address 0 of the ROM, CFG.CD = 1 and CFG.DW =
CFG.EE = CFG.CO = 0, both bits of INTE 1, CHC.CV = 0, IBC0.BEN = IBC1.BEN = 0, RE = 1, an invalid shadow Stack
Pointer, no pending event; memories and ROM as before. -/
def Obligations.ResetInput : Prop :=
  ∀ s : State, s.sample.cur.reset = true → s.sample.cur.cntl = 3 →
    ∃ t, step s = .next t ∧ t.pc = 0 ∧ t.npc = 4 ∧ bitOf t.sr.cfg 0 = true ∧ t.sr.cfg &&& 0xE0 = 0 ∧
      t.sr.inte &&& 3 = 3 ∧ bitOf t.sr.chc 0 = false ∧ bitOf t.sr.ibc0 11 = false ∧ bitOf t.sr.ibc1 11 = false ∧
      bitOf t.cps 8 = true ∧ t.spValid = false ∧ t.warnPending = false ∧ t.derrEvent = none ∧ t.hz = Hazards.none ∧
      t.opMode = .executing ∧ s.SameMemory t

/-- The invariant `State.Sound` holds after reset. -/
def Obligations.ResetSound : Prop := State.reset.Sound

/-- Every step keeps the invariant `State.Sound`: word-aligned program counters (R36), memories in canonical form, and
every reserved bit of CPS, ALU, the special registers and the TLB at 0 (R40, R45, R66, R82). -/
def Obligations.StepKeepsSound : Prop := ∀ s t : State, s.Sound → step s = .next t → t.Sound

/-- R26, R40, R453, R454, R604, R605: a User-mode program cannot change what is protected. An instruction that leaves
the processor in User mode leaves the general registers of the banks that RBP protects, the protected registers that
the hardware does not write for it, the TLB, the mode and mask bits of CPS and the bank protection as they were. -/
def Obligations.UserModeIsConfined : Prop :=
  ∀ (i : Instr) (s t : State), s.user = true → exec i s = .next t → t.user = true →
    (∀ n : Byte, 64 ≤ n.toNat → bitOf s.sr.rbp (n.toNat / 16) = true → t.getGR n = s.getGR n) ∧
    t.tlb = s.tlb ∧ t.sr.vab = s.sr.vab ∧ t.sr.ops = s.sr.ops ∧ t.sr.cfg = s.sr.cfg ∧ t.sr.rbp = s.sr.rbp ∧
      t.sr.tmc = s.sr.tmc ∧ t.sr.tmr = s.sr.tmr ∧ t.sr.mmu = s.sr.mmu ∧ t.sr.rma0 = s.sr.rma0 ∧
      t.sr.rmc0 = s.sr.rmc0 ∧ t.sr.rma1 = s.sr.rma1 ∧ t.sr.rmc1 = s.sr.rmc1 ∧ t.sr.rsn = s.sr.rsn ∧
      t.sr.iba0 = s.sr.iba0 ∧ t.sr.ibc0 = s.sr.ibc0 ∧ t.sr.iba1 = s.sr.iba1 ∧ t.sr.ibc1 = s.sr.ibc1 ∧
      t.sr.pc0 = s.sr.pc0 ∧ t.sr.pc1 = s.sr.pc1 ∧ t.sr.pc2 = s.sr.pc2 ∧
      t.cps &&& 0xFFFF6FFF = s.cps &&& 0xFFFF6FFF

/-- R38, R606, R680: an interrupt return gives back what a trap took. If the trap of an instruction was taken with FZ
= 0, no access is pending, and the handler returns at once, execution goes on where it would have, with the status of
before, IP and the trace bits aside. -/
def Obligations.ReturnUndoesTrap : Prop :=
  ∀ (op vn : Byte) (s t : State), s.TrapReady → bitOf s.cps 10 = false → s.fzWindow = 0 →
    s.npc &&& 3 = 0 → s.cps &&& 0xFFFE4000 = 0 → bitOf s.sr.chc 0 = false →
    s.takeInstTrap op vn .next = .next t →
    ∃ u, exec .iret t = .next u ∧ u.pc = s.npc ∧ u.npc = s.npc + 4 ∧ u.cps = putBit s.cps 12 s.te ∧
      s.SameGeneral u ∧ u.alu = s.alu
end

