-- ==== Sys2Proof/Laws/Bits.lean ====
section
/-! SUPPORT. The laws of bit fields. -/

namespace Sys2Proof.Machine

theorem getLsbD_ofNat_two_pow (k j : Nat) (hj : j < 32) : (BitVec.ofNat 32 (2 ^ k)).getLsbD j = decide (j = k) := by
  rw [BitVec.getLsbD_ofNat, Nat.testBit_two_pow]
  simp [hj, eq_comm]

/-- A bit of a word after one bit is replaced. -/
theorem bitOf_putBit (w : Word) (k j : Nat) (b : Bool) (hk : k < 32) :
    bitOf (putBit w k b) j = if j = k then b else bitOf w j := by
  unfold bitOf putBit
  by_cases hj : j < 32
  · cases b
    · simp only [Bool.false_eq_true, if_false, BitVec.getLsbD_and, BitVec.getLsbD_not, hj, decide_true,
        getLsbD_ofNat_two_pow k j hj, Bool.true_and]
      by_cases h : j = k <;> simp [h]
    · simp only [if_true, BitVec.getLsbD_or, getLsbD_ofNat_two_pow k j hj]
      by_cases h : j = k <;> simp [h]
  · have h : j ≠ k := by omega
    rw [if_neg h, BitVec.getLsbD_of_ge _ _ (by omega), BitVec.getLsbD_of_ge _ _ (by omega)]

/-- Replacing a bit is invisible under a mask without it. -/
theorem putBit_and (w m : Word) (k : Nat) (b : Bool) (hk : k < 32) (hm : bitOf m k = false) :
    putBit w k b &&& m = w &&& m := by
  apply BitVec.eq_of_getLsbD_eq
  intro j hj
  have h := bitOf_putBit w k j b hk
  unfold bitOf at h hm
  rw [BitVec.getLsbD_and, BitVec.getLsbD_and, h]
  by_cases e : j = k
  · subst e; simp [hm]
  · simp [e]

/-- A field of a word as a number. -/
theorem fieldOf_toNat (w : Word) (lo len : Nat) (h : len ≤ 32) : (fieldOf w lo len).toNat = w.toNat / 2 ^ lo % 2 ^ len := by
  have hp : 2 ^ len ≤ 2 ^ 32 := Nat.pow_le_pow_right (by decide) h
  have h1 : 0 < 2 ^ len := Nat.two_pow_pos len
  unfold fieldOf
  rw [BitVec.toNat_and, BitVec.toNat_ushiftRight, BitVec.toNat_ofNat, Nat.mod_eq_of_lt (by omega),
    Nat.and_two_pow_sub_one_eq_mod, Nat.shiftRight_eq_div_pow]

/-- The bits of a word after a field is replaced. -/
theorem bitOf_putField (w v : Word) (lo len j : Nat) (h : lo + len ≤ 32) :
    bitOf (putField w lo len v) j = if lo ≤ j ∧ j < lo + len then bitOf v (j - lo) else bitOf w j := by
  have hm : ∀ i < 32, (BitVec.ofNat 32 ((2 ^ len - 1) * 2 ^ lo)).getLsbD i = decide (lo ≤ i ∧ i < lo + len) := by
    intro i hi
    rw [BitVec.getLsbD_ofNat, Nat.testBit_mul_two_pow, Nat.testBit_two_pow_sub_one]
    by_cases a : lo ≤ i <;> by_cases b : i < lo + len <;> simp [hi, a, b] <;> omega
  unfold bitOf putField
  by_cases hj : j < 32
  · rw [BitVec.getLsbD_or, BitVec.getLsbD_and, BitVec.getLsbD_and, BitVec.getLsbD_not, hm j hj, BitVec.getLsbD_shiftLeft]
    by_cases a : lo ≤ j <;> by_cases b : j < lo + len <;> simp [hj, a, b]
  · rw [BitVec.getLsbD_of_ge _ _ (by omega), BitVec.getLsbD_of_ge w _ (by omega), if_neg (by omega)]

end Sys2Proof.Machine
end

