-- ==== Sys2Proof/Laws/State.lean ====
section
/-! SUPPORT. One lemma per field per update of the state, each true by `rfl`. -/

namespace Sys2Proof.Machine

@[simp] theorem State.retire_pc (s : State) : (s.retire).pc = s.pc := rfl
@[simp] theorem State.retire_npc (s : State) : (s.retire).npc = s.npc := rfl
@[simp] theorem State.retire_pcSeq (s : State) : (s.retire).pcSeq = s.pcSeq := rfl
@[simp] theorem State.retire_npcSeq (s : State) : (s.retire).npcSeq = s.npcSeq := rfl
@[simp] theorem State.retire_sp (s : State) : (s.retire).sp = s.sp := rfl
@[simp] theorem State.retire_spShadow (s : State) : (s.retire).spShadow = s.spShadow := rfl
@[simp] theorem State.retire_spValid (s : State) : (s.retire).spValid = s.spValid := rfl
@[simp] theorem State.retire_cca (s : State) : (s.retire).cca = s.cca := rfl
@[simp] theorem State.retire_globals (s : State) : (s.retire).globals = s.globals := rfl
@[simp] theorem State.retire_locals (s : State) : (s.retire).locals = s.locals := rfl
@[simp] theorem State.retire_acc (s : State) : (s.retire).acc = s.acc := rfl
@[simp] theorem State.retire_alu (s : State) : (s.retire).alu = s.alu := rfl
@[simp] theorem State.retire_sr (s : State) : (s.retire).sr = s.sr := rfl
@[simp] theorem State.retire_tlb (s : State) : (s.retire).tlb = s.tlb := rfl
@[simp] theorem State.retire_tlbUsage (s : State) : (s.retire).tlbUsage = s.tlbUsage := rfl
@[simp] theorem State.retire_idmem (s : State) : (s.retire).idmem = s.idmem := rfl
@[simp] theorem State.retire_imem (s : State) : (s.retire).imem = s.imem := rfl
@[simp] theorem State.retire_irom (s : State) : (s.retire).irom = s.irom := rfl
@[simp] theorem State.retire_btc (s : State) : (s.retire).btc = s.btc := rfl
@[simp] theorem State.retire_prefetched (s : State) : (s.retire).prefetched = s.prefetched := rfl
@[simp] theorem State.retire_early (s : State) : (s.retire).early = s.early := rfl
@[simp] theorem State.retire_oldFetch (s : State) : (s.retire).oldFetch = s.oldFetch := rfl
@[simp] theorem State.retire_derrEvent (s : State) : (s.retire).derrEvent = s.derrEvent := rfl
@[simp] theorem State.retire_derrLeft (s : State) : (s.retire).derrLeft = s.derrLeft := rfl
@[simp] theorem State.retire_derrLoad (s : State) : (s.retire).derrLoad = s.derrLoad := rfl
@[simp] theorem State.retire_warnPending (s : State) : (s.retire).warnPending = s.warnPending := rfl
@[simp] theorem State.retire_opMode (s : State) : (s.retire).opMode = s.opMode := rfl
@[simp] theorem State.retire_debugger (s : State) : (s.retire).debugger = s.debugger := rfl
@[simp] theorem State.retire_holes (s : State) : (s.retire).holes = s.holes := rfl
@[simp] theorem State.retire_cur (s : State) : (s.retire).cur = s.cur := rfl
@[simp] theorem State.retire_inputs (s : State) : (s.retire).inputs = s.inputs := rfl
@[simp] theorem State.retire_accesses (s : State) : (s.retire).accesses = s.accesses := rfl
@[simp] theorem State.retire_fresh (s : State) : (s.retire).fresh = s.fresh := rfl

@[simp] theorem State.goto_lastpc (s : State) (a b : Word) (q : Bool) : (s.goto a b q).lastpc = s.lastpc := rfl
@[simp] theorem State.goto_lastpcKnown (s : State) (a b : Word) (q : Bool) : (s.goto a b q).lastpcKnown = s.lastpcKnown := rfl
@[simp] theorem State.goto_sp (s : State) (a b : Word) (q : Bool) : (s.goto a b q).sp = s.sp := rfl
@[simp] theorem State.goto_spShadow (s : State) (a b : Word) (q : Bool) : (s.goto a b q).spShadow = s.spShadow := rfl
@[simp] theorem State.goto_spValid (s : State) (a b : Word) (q : Bool) : (s.goto a b q).spValid = s.spValid := rfl
@[simp] theorem State.goto_cca (s : State) (a b : Word) (q : Bool) : (s.goto a b q).cca = s.cca := rfl
@[simp] theorem State.goto_globals (s : State) (a b : Word) (q : Bool) : (s.goto a b q).globals = s.globals := rfl
@[simp] theorem State.goto_locals (s : State) (a b : Word) (q : Bool) : (s.goto a b q).locals = s.locals := rfl
@[simp] theorem State.goto_acc (s : State) (a b : Word) (q : Bool) : (s.goto a b q).acc = s.acc := rfl
@[simp] theorem State.goto_cps (s : State) (a b : Word) (q : Bool) : (s.goto a b q).cps = s.cps := rfl
@[simp] theorem State.goto_alu (s : State) (a b : Word) (q : Bool) : (s.goto a b q).alu = s.alu := rfl
@[simp] theorem State.goto_sr (s : State) (a b : Word) (q : Bool) : (s.goto a b q).sr = s.sr := rfl
@[simp] theorem State.goto_tlb (s : State) (a b : Word) (q : Bool) : (s.goto a b q).tlb = s.tlb := rfl
@[simp] theorem State.goto_tlbUsage (s : State) (a b : Word) (q : Bool) : (s.goto a b q).tlbUsage = s.tlbUsage := rfl
@[simp] theorem State.goto_idmem (s : State) (a b : Word) (q : Bool) : (s.goto a b q).idmem = s.idmem := rfl
@[simp] theorem State.goto_imem (s : State) (a b : Word) (q : Bool) : (s.goto a b q).imem = s.imem := rfl
@[simp] theorem State.goto_irom (s : State) (a b : Word) (q : Bool) : (s.goto a b q).irom = s.irom := rfl
@[simp] theorem State.goto_derrEvent (s : State) (a b : Word) (q : Bool) : (s.goto a b q).derrEvent = s.derrEvent := rfl
@[simp] theorem State.goto_derrLeft (s : State) (a b : Word) (q : Bool) : (s.goto a b q).derrLeft = s.derrLeft := rfl
@[simp] theorem State.goto_derrLoad (s : State) (a b : Word) (q : Bool) : (s.goto a b q).derrLoad = s.derrLoad := rfl
@[simp] theorem State.goto_warnPending (s : State) (a b : Word) (q : Bool) : (s.goto a b q).warnPending = s.warnPending := rfl
@[simp] theorem State.goto_opMode (s : State) (a b : Word) (q : Bool) : (s.goto a b q).opMode = s.opMode := rfl
@[simp] theorem State.goto_debugger (s : State) (a b : Word) (q : Bool) : (s.goto a b q).debugger = s.debugger := rfl
@[simp] theorem State.goto_holes (s : State) (a b : Word) (q : Bool) : (s.goto a b q).holes = s.holes := rfl
@[simp] theorem State.goto_cur (s : State) (a b : Word) (q : Bool) : (s.goto a b q).cur = s.cur := rfl
@[simp] theorem State.goto_inputs (s : State) (a b : Word) (q : Bool) : (s.goto a b q).inputs = s.inputs := rfl
@[simp] theorem State.goto_accesses (s : State) (a b : Word) (q : Bool) : (s.goto a b q).accesses = s.accesses := rfl
@[simp] theorem State.goto_fresh (s : State) (a b : Word) (q : Bool) : (s.goto a b q).fresh = s.fresh := rfl

@[simp] theorem State.setPointers_pc (s : State) (rc ra rb : Byte) : (s.setPointers rc ra rb).pc = s.pc := rfl
@[simp] theorem State.setPointers_npc (s : State) (rc ra rb : Byte) : (s.setPointers rc ra rb).npc = s.npc := rfl
@[simp] theorem State.setPointers_lastpc (s : State) (rc ra rb : Byte) : (s.setPointers rc ra rb).lastpc = s.lastpc := rfl
@[simp] theorem State.setPointers_lastpcKnown (s : State) (rc ra rb : Byte) : (s.setPointers rc ra rb).lastpcKnown = s.lastpcKnown := rfl
@[simp] theorem State.setPointers_pcSeq (s : State) (rc ra rb : Byte) : (s.setPointers rc ra rb).pcSeq = s.pcSeq := rfl
@[simp] theorem State.setPointers_npcSeq (s : State) (rc ra rb : Byte) : (s.setPointers rc ra rb).npcSeq = s.npcSeq := rfl
@[simp] theorem State.setPointers_sp (s : State) (rc ra rb : Byte) : (s.setPointers rc ra rb).sp = s.sp := rfl
@[simp] theorem State.setPointers_spShadow (s : State) (rc ra rb : Byte) : (s.setPointers rc ra rb).spShadow = s.spShadow := rfl
@[simp] theorem State.setPointers_spValid (s : State) (rc ra rb : Byte) : (s.setPointers rc ra rb).spValid = s.spValid := rfl
@[simp] theorem State.setPointers_cca (s : State) (rc ra rb : Byte) : (s.setPointers rc ra rb).cca = s.cca := rfl
@[simp] theorem State.setPointers_globals (s : State) (rc ra rb : Byte) : (s.setPointers rc ra rb).globals = s.globals := rfl
@[simp] theorem State.setPointers_locals (s : State) (rc ra rb : Byte) : (s.setPointers rc ra rb).locals = s.locals := rfl
@[simp] theorem State.setPointers_acc (s : State) (rc ra rb : Byte) : (s.setPointers rc ra rb).acc = s.acc := rfl
@[simp] theorem State.setPointers_cps (s : State) (rc ra rb : Byte) : (s.setPointers rc ra rb).cps = s.cps := rfl
@[simp] theorem State.setPointers_alu (s : State) (rc ra rb : Byte) : (s.setPointers rc ra rb).alu = s.alu := rfl
@[simp] theorem State.setPointers_tlb (s : State) (rc ra rb : Byte) : (s.setPointers rc ra rb).tlb = s.tlb := rfl
@[simp] theorem State.setPointers_tlbUsage (s : State) (rc ra rb : Byte) : (s.setPointers rc ra rb).tlbUsage = s.tlbUsage := rfl
@[simp] theorem State.setPointers_idmem (s : State) (rc ra rb : Byte) : (s.setPointers rc ra rb).idmem = s.idmem := rfl
@[simp] theorem State.setPointers_imem (s : State) (rc ra rb : Byte) : (s.setPointers rc ra rb).imem = s.imem := rfl
@[simp] theorem State.setPointers_irom (s : State) (rc ra rb : Byte) : (s.setPointers rc ra rb).irom = s.irom := rfl
@[simp] theorem State.setPointers_btc (s : State) (rc ra rb : Byte) : (s.setPointers rc ra rb).btc = s.btc := rfl
@[simp] theorem State.setPointers_prefetched (s : State) (rc ra rb : Byte) : (s.setPointers rc ra rb).prefetched = s.prefetched := rfl
@[simp] theorem State.setPointers_early (s : State) (rc ra rb : Byte) : (s.setPointers rc ra rb).early = s.early := rfl
@[simp] theorem State.setPointers_oldFetch (s : State) (rc ra rb : Byte) : (s.setPointers rc ra rb).oldFetch = s.oldFetch := rfl
@[simp] theorem State.setPointers_hz (s : State) (rc ra rb : Byte) : (s.setPointers rc ra rb).hz = s.hz := rfl
@[simp] theorem State.setPointers_hzNext (s : State) (rc ra rb : Byte) : (s.setPointers rc ra rb).hzNext = s.hzNext := rfl
@[simp] theorem State.setPointers_fzWindow (s : State) (rc ra rb : Byte) : (s.setPointers rc ra rb).fzWindow = s.fzWindow := rfl
@[simp] theorem State.setPointers_derrEvent (s : State) (rc ra rb : Byte) : (s.setPointers rc ra rb).derrEvent = s.derrEvent := rfl
@[simp] theorem State.setPointers_derrLeft (s : State) (rc ra rb : Byte) : (s.setPointers rc ra rb).derrLeft = s.derrLeft := rfl
@[simp] theorem State.setPointers_derrLoad (s : State) (rc ra rb : Byte) : (s.setPointers rc ra rb).derrLoad = s.derrLoad := rfl
@[simp] theorem State.setPointers_warnPending (s : State) (rc ra rb : Byte) : (s.setPointers rc ra rb).warnPending = s.warnPending := rfl
@[simp] theorem State.setPointers_opMode (s : State) (rc ra rb : Byte) : (s.setPointers rc ra rb).opMode = s.opMode := rfl
@[simp] theorem State.setPointers_debugger (s : State) (rc ra rb : Byte) : (s.setPointers rc ra rb).debugger = s.debugger := rfl
@[simp] theorem State.setPointers_holes (s : State) (rc ra rb : Byte) : (s.setPointers rc ra rb).holes = s.holes := rfl
@[simp] theorem State.setPointers_cur (s : State) (rc ra rb : Byte) : (s.setPointers rc ra rb).cur = s.cur := rfl
@[simp] theorem State.setPointers_inputs (s : State) (rc ra rb : Byte) : (s.setPointers rc ra rb).inputs = s.inputs := rfl
@[simp] theorem State.setPointers_accesses (s : State) (rc ra rb : Byte) : (s.setPointers rc ra rb).accesses = s.accesses := rfl
@[simp] theorem State.setPointers_fresh (s : State) (rc ra rb : Byte) : (s.setPointers rc ra rb).fresh = s.fresh := rfl

@[simp] theorem State.copyTrace_pc (s : State) : (s.copyTrace).pc = s.pc := rfl
@[simp] theorem State.copyTrace_npc (s : State) : (s.copyTrace).npc = s.npc := rfl
@[simp] theorem State.copyTrace_lastpc (s : State) : (s.copyTrace).lastpc = s.lastpc := rfl
@[simp] theorem State.copyTrace_lastpcKnown (s : State) : (s.copyTrace).lastpcKnown = s.lastpcKnown := rfl
@[simp] theorem State.copyTrace_pcSeq (s : State) : (s.copyTrace).pcSeq = s.pcSeq := rfl
@[simp] theorem State.copyTrace_npcSeq (s : State) : (s.copyTrace).npcSeq = s.npcSeq := rfl
@[simp] theorem State.copyTrace_sp (s : State) : (s.copyTrace).sp = s.sp := rfl
@[simp] theorem State.copyTrace_spShadow (s : State) : (s.copyTrace).spShadow = s.spShadow := rfl
@[simp] theorem State.copyTrace_spValid (s : State) : (s.copyTrace).spValid = s.spValid := rfl
@[simp] theorem State.copyTrace_cca (s : State) : (s.copyTrace).cca = s.cca := rfl
@[simp] theorem State.copyTrace_globals (s : State) : (s.copyTrace).globals = s.globals := rfl
@[simp] theorem State.copyTrace_locals (s : State) : (s.copyTrace).locals = s.locals := rfl
@[simp] theorem State.copyTrace_acc (s : State) : (s.copyTrace).acc = s.acc := rfl
@[simp] theorem State.copyTrace_alu (s : State) : (s.copyTrace).alu = s.alu := rfl
@[simp] theorem State.copyTrace_sr (s : State) : (s.copyTrace).sr = s.sr := rfl
@[simp] theorem State.copyTrace_tlb (s : State) : (s.copyTrace).tlb = s.tlb := rfl
@[simp] theorem State.copyTrace_tlbUsage (s : State) : (s.copyTrace).tlbUsage = s.tlbUsage := rfl
@[simp] theorem State.copyTrace_idmem (s : State) : (s.copyTrace).idmem = s.idmem := rfl
@[simp] theorem State.copyTrace_imem (s : State) : (s.copyTrace).imem = s.imem := rfl
@[simp] theorem State.copyTrace_irom (s : State) : (s.copyTrace).irom = s.irom := rfl
@[simp] theorem State.copyTrace_btc (s : State) : (s.copyTrace).btc = s.btc := rfl
@[simp] theorem State.copyTrace_prefetched (s : State) : (s.copyTrace).prefetched = s.prefetched := rfl
@[simp] theorem State.copyTrace_early (s : State) : (s.copyTrace).early = s.early := rfl
@[simp] theorem State.copyTrace_oldFetch (s : State) : (s.copyTrace).oldFetch = s.oldFetch := rfl
@[simp] theorem State.copyTrace_hz (s : State) : (s.copyTrace).hz = s.hz := rfl
@[simp] theorem State.copyTrace_hzNext (s : State) : (s.copyTrace).hzNext = s.hzNext := rfl
@[simp] theorem State.copyTrace_fzWindow (s : State) : (s.copyTrace).fzWindow = s.fzWindow := rfl
@[simp] theorem State.copyTrace_derrEvent (s : State) : (s.copyTrace).derrEvent = s.derrEvent := rfl
@[simp] theorem State.copyTrace_derrLeft (s : State) : (s.copyTrace).derrLeft = s.derrLeft := rfl
@[simp] theorem State.copyTrace_derrLoad (s : State) : (s.copyTrace).derrLoad = s.derrLoad := rfl
@[simp] theorem State.copyTrace_warnPending (s : State) : (s.copyTrace).warnPending = s.warnPending := rfl
@[simp] theorem State.copyTrace_opMode (s : State) : (s.copyTrace).opMode = s.opMode := rfl
@[simp] theorem State.copyTrace_debugger (s : State) : (s.copyTrace).debugger = s.debugger := rfl
@[simp] theorem State.copyTrace_holes (s : State) : (s.copyTrace).holes = s.holes := rfl
@[simp] theorem State.copyTrace_cur (s : State) : (s.copyTrace).cur = s.cur := rfl
@[simp] theorem State.copyTrace_inputs (s : State) : (s.copyTrace).inputs = s.inputs := rfl
@[simp] theorem State.copyTrace_accesses (s : State) : (s.copyTrace).accesses = s.accesses := rfl
@[simp] theorem State.copyTrace_fresh (s : State) : (s.copyTrace).fresh = s.fresh := rfl

@[simp] theorem State.switchStatus_pc (s : State) : (s.switchStatus).pc = s.pc := rfl
@[simp] theorem State.switchStatus_npc (s : State) : (s.switchStatus).npc = s.npc := rfl
@[simp] theorem State.switchStatus_lastpc (s : State) : (s.switchStatus).lastpc = s.lastpc := rfl
@[simp] theorem State.switchStatus_lastpcKnown (s : State) : (s.switchStatus).lastpcKnown = s.lastpcKnown := rfl
@[simp] theorem State.switchStatus_pcSeq (s : State) : (s.switchStatus).pcSeq = s.pcSeq := rfl
@[simp] theorem State.switchStatus_npcSeq (s : State) : (s.switchStatus).npcSeq = s.npcSeq := rfl
@[simp] theorem State.switchStatus_sp (s : State) : (s.switchStatus).sp = s.sp := rfl
@[simp] theorem State.switchStatus_spShadow (s : State) : (s.switchStatus).spShadow = s.spShadow := rfl
@[simp] theorem State.switchStatus_spValid (s : State) : (s.switchStatus).spValid = s.spValid := rfl
@[simp] theorem State.switchStatus_cca (s : State) : (s.switchStatus).cca = s.cca := rfl
@[simp] theorem State.switchStatus_globals (s : State) : (s.switchStatus).globals = s.globals := rfl
@[simp] theorem State.switchStatus_locals (s : State) : (s.switchStatus).locals = s.locals := rfl
@[simp] theorem State.switchStatus_acc (s : State) : (s.switchStatus).acc = s.acc := rfl
@[simp] theorem State.switchStatus_alu (s : State) : (s.switchStatus).alu = s.alu := rfl
@[simp] theorem State.switchStatus_tlb (s : State) : (s.switchStatus).tlb = s.tlb := rfl
@[simp] theorem State.switchStatus_tlbUsage (s : State) : (s.switchStatus).tlbUsage = s.tlbUsage := rfl
@[simp] theorem State.switchStatus_idmem (s : State) : (s.switchStatus).idmem = s.idmem := rfl
@[simp] theorem State.switchStatus_imem (s : State) : (s.switchStatus).imem = s.imem := rfl
@[simp] theorem State.switchStatus_irom (s : State) : (s.switchStatus).irom = s.irom := rfl
@[simp] theorem State.switchStatus_btc (s : State) : (s.switchStatus).btc = s.btc := rfl
@[simp] theorem State.switchStatus_prefetched (s : State) : (s.switchStatus).prefetched = s.prefetched := rfl
@[simp] theorem State.switchStatus_early (s : State) : (s.switchStatus).early = s.early := rfl
@[simp] theorem State.switchStatus_oldFetch (s : State) : (s.switchStatus).oldFetch = s.oldFetch := rfl
@[simp] theorem State.switchStatus_hz (s : State) : (s.switchStatus).hz = s.hz := rfl
@[simp] theorem State.switchStatus_hzNext (s : State) : (s.switchStatus).hzNext = s.hzNext := rfl
@[simp] theorem State.switchStatus_fzWindow (s : State) : (s.switchStatus).fzWindow = s.fzWindow := rfl
@[simp] theorem State.switchStatus_derrEvent (s : State) : (s.switchStatus).derrEvent = s.derrEvent := rfl
@[simp] theorem State.switchStatus_derrLeft (s : State) : (s.switchStatus).derrLeft = s.derrLeft := rfl
@[simp] theorem State.switchStatus_derrLoad (s : State) : (s.switchStatus).derrLoad = s.derrLoad := rfl
@[simp] theorem State.switchStatus_warnPending (s : State) : (s.switchStatus).warnPending = s.warnPending := rfl
@[simp] theorem State.switchStatus_opMode (s : State) : (s.switchStatus).opMode = s.opMode := rfl
@[simp] theorem State.switchStatus_debugger (s : State) : (s.switchStatus).debugger = s.debugger := rfl
@[simp] theorem State.switchStatus_holes (s : State) : (s.switchStatus).holes = s.holes := rfl
@[simp] theorem State.switchStatus_cur (s : State) : (s.switchStatus).cur = s.cur := rfl
@[simp] theorem State.switchStatus_inputs (s : State) : (s.switchStatus).inputs = s.inputs := rfl
@[simp] theorem State.switchStatus_accesses (s : State) : (s.switchStatus).accesses = s.accesses := rfl
@[simp] theorem State.switchStatus_fresh (s : State) : (s.switchStatus).fresh = s.fresh := rfl

@[simp] theorem State.loseQ_pc (s : State) : (s.loseQ).pc = s.pc := rfl
@[simp] theorem State.loseQ_npc (s : State) : (s.loseQ).npc = s.npc := rfl
@[simp] theorem State.loseQ_lastpc (s : State) : (s.loseQ).lastpc = s.lastpc := rfl
@[simp] theorem State.loseQ_lastpcKnown (s : State) : (s.loseQ).lastpcKnown = s.lastpcKnown := rfl
@[simp] theorem State.loseQ_pcSeq (s : State) : (s.loseQ).pcSeq = s.pcSeq := rfl
@[simp] theorem State.loseQ_npcSeq (s : State) : (s.loseQ).npcSeq = s.npcSeq := rfl
@[simp] theorem State.loseQ_sp (s : State) : (s.loseQ).sp = s.sp := rfl
@[simp] theorem State.loseQ_spShadow (s : State) : (s.loseQ).spShadow = s.spShadow := rfl
@[simp] theorem State.loseQ_spValid (s : State) : (s.loseQ).spValid = s.spValid := rfl
@[simp] theorem State.loseQ_cca (s : State) : (s.loseQ).cca = s.cca := rfl
@[simp] theorem State.loseQ_globals (s : State) : (s.loseQ).globals = s.globals := rfl
@[simp] theorem State.loseQ_locals (s : State) : (s.loseQ).locals = s.locals := rfl
@[simp] theorem State.loseQ_acc (s : State) : (s.loseQ).acc = s.acc := rfl
@[simp] theorem State.loseQ_cps (s : State) : (s.loseQ).cps = s.cps := rfl
@[simp] theorem State.loseQ_alu (s : State) : (s.loseQ).alu = s.alu := rfl
@[simp] theorem State.loseQ_tlb (s : State) : (s.loseQ).tlb = s.tlb := rfl
@[simp] theorem State.loseQ_tlbUsage (s : State) : (s.loseQ).tlbUsage = s.tlbUsage := rfl
@[simp] theorem State.loseQ_idmem (s : State) : (s.loseQ).idmem = s.idmem := rfl
@[simp] theorem State.loseQ_imem (s : State) : (s.loseQ).imem = s.imem := rfl
@[simp] theorem State.loseQ_irom (s : State) : (s.loseQ).irom = s.irom := rfl
@[simp] theorem State.loseQ_btc (s : State) : (s.loseQ).btc = s.btc := rfl
@[simp] theorem State.loseQ_prefetched (s : State) : (s.loseQ).prefetched = s.prefetched := rfl
@[simp] theorem State.loseQ_early (s : State) : (s.loseQ).early = s.early := rfl
@[simp] theorem State.loseQ_oldFetch (s : State) : (s.loseQ).oldFetch = s.oldFetch := rfl
@[simp] theorem State.loseQ_hz (s : State) : (s.loseQ).hz = s.hz := rfl
@[simp] theorem State.loseQ_hzNext (s : State) : (s.loseQ).hzNext = s.hzNext := rfl
@[simp] theorem State.loseQ_fzWindow (s : State) : (s.loseQ).fzWindow = s.fzWindow := rfl
@[simp] theorem State.loseQ_derrEvent (s : State) : (s.loseQ).derrEvent = s.derrEvent := rfl
@[simp] theorem State.loseQ_derrLeft (s : State) : (s.loseQ).derrLeft = s.derrLeft := rfl
@[simp] theorem State.loseQ_derrLoad (s : State) : (s.loseQ).derrLoad = s.derrLoad := rfl
@[simp] theorem State.loseQ_warnPending (s : State) : (s.loseQ).warnPending = s.warnPending := rfl
@[simp] theorem State.loseQ_opMode (s : State) : (s.loseQ).opMode = s.opMode := rfl
@[simp] theorem State.loseQ_debugger (s : State) : (s.loseQ).debugger = s.debugger := rfl
@[simp] theorem State.loseQ_holes (s : State) : (s.loseQ).holes = s.holes := rfl
@[simp] theorem State.loseQ_cur (s : State) : (s.loseQ).cur = s.cur := rfl
@[simp] theorem State.loseQ_inputs (s : State) : (s.loseQ).inputs = s.inputs := rfl
@[simp] theorem State.loseQ_accesses (s : State) : (s.loseQ).accesses = s.accesses := rfl

@[simp] theorem State.setSticky_pc (s : State) (t : FpStatus) : (s.setSticky t).pc = s.pc := rfl
@[simp] theorem State.setSticky_npc (s : State) (t : FpStatus) : (s.setSticky t).npc = s.npc := rfl
@[simp] theorem State.setSticky_lastpc (s : State) (t : FpStatus) : (s.setSticky t).lastpc = s.lastpc := rfl
@[simp] theorem State.setSticky_lastpcKnown (s : State) (t : FpStatus) : (s.setSticky t).lastpcKnown = s.lastpcKnown := rfl
@[simp] theorem State.setSticky_pcSeq (s : State) (t : FpStatus) : (s.setSticky t).pcSeq = s.pcSeq := rfl
@[simp] theorem State.setSticky_npcSeq (s : State) (t : FpStatus) : (s.setSticky t).npcSeq = s.npcSeq := rfl
@[simp] theorem State.setSticky_sp (s : State) (t : FpStatus) : (s.setSticky t).sp = s.sp := rfl
@[simp] theorem State.setSticky_spShadow (s : State) (t : FpStatus) : (s.setSticky t).spShadow = s.spShadow := rfl
@[simp] theorem State.setSticky_spValid (s : State) (t : FpStatus) : (s.setSticky t).spValid = s.spValid := rfl
@[simp] theorem State.setSticky_cca (s : State) (t : FpStatus) : (s.setSticky t).cca = s.cca := rfl
@[simp] theorem State.setSticky_globals (s : State) (t : FpStatus) : (s.setSticky t).globals = s.globals := rfl
@[simp] theorem State.setSticky_locals (s : State) (t : FpStatus) : (s.setSticky t).locals = s.locals := rfl
@[simp] theorem State.setSticky_acc (s : State) (t : FpStatus) : (s.setSticky t).acc = s.acc := rfl
@[simp] theorem State.setSticky_cps (s : State) (t : FpStatus) : (s.setSticky t).cps = s.cps := rfl
@[simp] theorem State.setSticky_alu (s : State) (t : FpStatus) : (s.setSticky t).alu = s.alu := rfl
@[simp] theorem State.setSticky_tlb (s : State) (t : FpStatus) : (s.setSticky t).tlb = s.tlb := rfl
@[simp] theorem State.setSticky_tlbUsage (s : State) (t : FpStatus) : (s.setSticky t).tlbUsage = s.tlbUsage := rfl
@[simp] theorem State.setSticky_idmem (s : State) (t : FpStatus) : (s.setSticky t).idmem = s.idmem := rfl
@[simp] theorem State.setSticky_imem (s : State) (t : FpStatus) : (s.setSticky t).imem = s.imem := rfl
@[simp] theorem State.setSticky_irom (s : State) (t : FpStatus) : (s.setSticky t).irom = s.irom := rfl
@[simp] theorem State.setSticky_btc (s : State) (t : FpStatus) : (s.setSticky t).btc = s.btc := rfl
@[simp] theorem State.setSticky_prefetched (s : State) (t : FpStatus) : (s.setSticky t).prefetched = s.prefetched := rfl
@[simp] theorem State.setSticky_early (s : State) (t : FpStatus) : (s.setSticky t).early = s.early := rfl
@[simp] theorem State.setSticky_oldFetch (s : State) (t : FpStatus) : (s.setSticky t).oldFetch = s.oldFetch := rfl
@[simp] theorem State.setSticky_hz (s : State) (t : FpStatus) : (s.setSticky t).hz = s.hz := rfl
@[simp] theorem State.setSticky_hzNext (s : State) (t : FpStatus) : (s.setSticky t).hzNext = s.hzNext := rfl
@[simp] theorem State.setSticky_fzWindow (s : State) (t : FpStatus) : (s.setSticky t).fzWindow = s.fzWindow := rfl
@[simp] theorem State.setSticky_derrEvent (s : State) (t : FpStatus) : (s.setSticky t).derrEvent = s.derrEvent := rfl
@[simp] theorem State.setSticky_derrLeft (s : State) (t : FpStatus) : (s.setSticky t).derrLeft = s.derrLeft := rfl
@[simp] theorem State.setSticky_derrLoad (s : State) (t : FpStatus) : (s.setSticky t).derrLoad = s.derrLoad := rfl
@[simp] theorem State.setSticky_warnPending (s : State) (t : FpStatus) : (s.setSticky t).warnPending = s.warnPending := rfl
@[simp] theorem State.setSticky_opMode (s : State) (t : FpStatus) : (s.setSticky t).opMode = s.opMode := rfl
@[simp] theorem State.setSticky_debugger (s : State) (t : FpStatus) : (s.setSticky t).debugger = s.debugger := rfl
@[simp] theorem State.setSticky_holes (s : State) (t : FpStatus) : (s.setSticky t).holes = s.holes := rfl
@[simp] theorem State.setSticky_cur (s : State) (t : FpStatus) : (s.setSticky t).cur = s.cur := rfl
@[simp] theorem State.setSticky_inputs (s : State) (t : FpStatus) : (s.setSticky t).inputs = s.inputs := rfl
@[simp] theorem State.setSticky_accesses (s : State) (t : FpStatus) : (s.setSticky t).accesses = s.accesses := rfl
@[simp] theorem State.setSticky_fresh (s : State) (t : FpStatus) : (s.setSticky t).fresh = s.fresh := rfl

@[simp] theorem State.setAllSticky_pc (s : State) (t : FpStatus) : (s.setAllSticky t).pc = s.pc := rfl
@[simp] theorem State.setAllSticky_npc (s : State) (t : FpStatus) : (s.setAllSticky t).npc = s.npc := rfl
@[simp] theorem State.setAllSticky_lastpc (s : State) (t : FpStatus) : (s.setAllSticky t).lastpc = s.lastpc := rfl
@[simp] theorem State.setAllSticky_lastpcKnown (s : State) (t : FpStatus) : (s.setAllSticky t).lastpcKnown = s.lastpcKnown := rfl
@[simp] theorem State.setAllSticky_pcSeq (s : State) (t : FpStatus) : (s.setAllSticky t).pcSeq = s.pcSeq := rfl
@[simp] theorem State.setAllSticky_npcSeq (s : State) (t : FpStatus) : (s.setAllSticky t).npcSeq = s.npcSeq := rfl
@[simp] theorem State.setAllSticky_sp (s : State) (t : FpStatus) : (s.setAllSticky t).sp = s.sp := rfl
@[simp] theorem State.setAllSticky_spShadow (s : State) (t : FpStatus) : (s.setAllSticky t).spShadow = s.spShadow := rfl
@[simp] theorem State.setAllSticky_spValid (s : State) (t : FpStatus) : (s.setAllSticky t).spValid = s.spValid := rfl
@[simp] theorem State.setAllSticky_cca (s : State) (t : FpStatus) : (s.setAllSticky t).cca = s.cca := rfl
@[simp] theorem State.setAllSticky_globals (s : State) (t : FpStatus) : (s.setAllSticky t).globals = s.globals := rfl
@[simp] theorem State.setAllSticky_locals (s : State) (t : FpStatus) : (s.setAllSticky t).locals = s.locals := rfl
@[simp] theorem State.setAllSticky_acc (s : State) (t : FpStatus) : (s.setAllSticky t).acc = s.acc := rfl
@[simp] theorem State.setAllSticky_cps (s : State) (t : FpStatus) : (s.setAllSticky t).cps = s.cps := rfl
@[simp] theorem State.setAllSticky_alu (s : State) (t : FpStatus) : (s.setAllSticky t).alu = s.alu := rfl
@[simp] theorem State.setAllSticky_tlb (s : State) (t : FpStatus) : (s.setAllSticky t).tlb = s.tlb := rfl
@[simp] theorem State.setAllSticky_tlbUsage (s : State) (t : FpStatus) : (s.setAllSticky t).tlbUsage = s.tlbUsage := rfl
@[simp] theorem State.setAllSticky_idmem (s : State) (t : FpStatus) : (s.setAllSticky t).idmem = s.idmem := rfl
@[simp] theorem State.setAllSticky_imem (s : State) (t : FpStatus) : (s.setAllSticky t).imem = s.imem := rfl
@[simp] theorem State.setAllSticky_irom (s : State) (t : FpStatus) : (s.setAllSticky t).irom = s.irom := rfl
@[simp] theorem State.setAllSticky_btc (s : State) (t : FpStatus) : (s.setAllSticky t).btc = s.btc := rfl
@[simp] theorem State.setAllSticky_prefetched (s : State) (t : FpStatus) : (s.setAllSticky t).prefetched = s.prefetched := rfl
@[simp] theorem State.setAllSticky_early (s : State) (t : FpStatus) : (s.setAllSticky t).early = s.early := rfl
@[simp] theorem State.setAllSticky_oldFetch (s : State) (t : FpStatus) : (s.setAllSticky t).oldFetch = s.oldFetch := rfl
@[simp] theorem State.setAllSticky_hz (s : State) (t : FpStatus) : (s.setAllSticky t).hz = s.hz := rfl
@[simp] theorem State.setAllSticky_hzNext (s : State) (t : FpStatus) : (s.setAllSticky t).hzNext = s.hzNext := rfl
@[simp] theorem State.setAllSticky_fzWindow (s : State) (t : FpStatus) : (s.setAllSticky t).fzWindow = s.fzWindow := rfl
@[simp] theorem State.setAllSticky_derrEvent (s : State) (t : FpStatus) : (s.setAllSticky t).derrEvent = s.derrEvent := rfl
@[simp] theorem State.setAllSticky_derrLeft (s : State) (t : FpStatus) : (s.setAllSticky t).derrLeft = s.derrLeft := rfl
@[simp] theorem State.setAllSticky_derrLoad (s : State) (t : FpStatus) : (s.setAllSticky t).derrLoad = s.derrLoad := rfl
@[simp] theorem State.setAllSticky_warnPending (s : State) (t : FpStatus) : (s.setAllSticky t).warnPending = s.warnPending := rfl
@[simp] theorem State.setAllSticky_opMode (s : State) (t : FpStatus) : (s.setAllSticky t).opMode = s.opMode := rfl
@[simp] theorem State.setAllSticky_debugger (s : State) (t : FpStatus) : (s.setAllSticky t).debugger = s.debugger := rfl
@[simp] theorem State.setAllSticky_holes (s : State) (t : FpStatus) : (s.setAllSticky t).holes = s.holes := rfl
@[simp] theorem State.setAllSticky_cur (s : State) (t : FpStatus) : (s.setAllSticky t).cur = s.cur := rfl
@[simp] theorem State.setAllSticky_inputs (s : State) (t : FpStatus) : (s.setAllSticky t).inputs = s.inputs := rfl
@[simp] theorem State.setAllSticky_accesses (s : State) (t : FpStatus) : (s.setAllSticky t).accesses = s.accesses := rfl
@[simp] theorem State.setAllSticky_fresh (s : State) (t : FpStatus) : (s.setAllSticky t).fresh = s.fresh := rfl

@[simp] theorem State.setTrapStatus_pc (s : State) (t : FpStatus) : (s.setTrapStatus t).pc = s.pc := rfl
@[simp] theorem State.setTrapStatus_npc (s : State) (t : FpStatus) : (s.setTrapStatus t).npc = s.npc := rfl
@[simp] theorem State.setTrapStatus_lastpc (s : State) (t : FpStatus) : (s.setTrapStatus t).lastpc = s.lastpc := rfl
@[simp] theorem State.setTrapStatus_lastpcKnown (s : State) (t : FpStatus) : (s.setTrapStatus t).lastpcKnown = s.lastpcKnown := rfl
@[simp] theorem State.setTrapStatus_pcSeq (s : State) (t : FpStatus) : (s.setTrapStatus t).pcSeq = s.pcSeq := rfl
@[simp] theorem State.setTrapStatus_npcSeq (s : State) (t : FpStatus) : (s.setTrapStatus t).npcSeq = s.npcSeq := rfl
@[simp] theorem State.setTrapStatus_sp (s : State) (t : FpStatus) : (s.setTrapStatus t).sp = s.sp := rfl
@[simp] theorem State.setTrapStatus_spShadow (s : State) (t : FpStatus) : (s.setTrapStatus t).spShadow = s.spShadow := rfl
@[simp] theorem State.setTrapStatus_spValid (s : State) (t : FpStatus) : (s.setTrapStatus t).spValid = s.spValid := rfl
@[simp] theorem State.setTrapStatus_cca (s : State) (t : FpStatus) : (s.setTrapStatus t).cca = s.cca := rfl
@[simp] theorem State.setTrapStatus_globals (s : State) (t : FpStatus) : (s.setTrapStatus t).globals = s.globals := rfl
@[simp] theorem State.setTrapStatus_locals (s : State) (t : FpStatus) : (s.setTrapStatus t).locals = s.locals := rfl
@[simp] theorem State.setTrapStatus_acc (s : State) (t : FpStatus) : (s.setTrapStatus t).acc = s.acc := rfl
@[simp] theorem State.setTrapStatus_cps (s : State) (t : FpStatus) : (s.setTrapStatus t).cps = s.cps := rfl
@[simp] theorem State.setTrapStatus_alu (s : State) (t : FpStatus) : (s.setTrapStatus t).alu = s.alu := rfl
@[simp] theorem State.setTrapStatus_tlb (s : State) (t : FpStatus) : (s.setTrapStatus t).tlb = s.tlb := rfl
@[simp] theorem State.setTrapStatus_tlbUsage (s : State) (t : FpStatus) : (s.setTrapStatus t).tlbUsage = s.tlbUsage := rfl
@[simp] theorem State.setTrapStatus_idmem (s : State) (t : FpStatus) : (s.setTrapStatus t).idmem = s.idmem := rfl
@[simp] theorem State.setTrapStatus_imem (s : State) (t : FpStatus) : (s.setTrapStatus t).imem = s.imem := rfl
@[simp] theorem State.setTrapStatus_irom (s : State) (t : FpStatus) : (s.setTrapStatus t).irom = s.irom := rfl
@[simp] theorem State.setTrapStatus_btc (s : State) (t : FpStatus) : (s.setTrapStatus t).btc = s.btc := rfl
@[simp] theorem State.setTrapStatus_prefetched (s : State) (t : FpStatus) : (s.setTrapStatus t).prefetched = s.prefetched := rfl
@[simp] theorem State.setTrapStatus_early (s : State) (t : FpStatus) : (s.setTrapStatus t).early = s.early := rfl
@[simp] theorem State.setTrapStatus_oldFetch (s : State) (t : FpStatus) : (s.setTrapStatus t).oldFetch = s.oldFetch := rfl
@[simp] theorem State.setTrapStatus_hz (s : State) (t : FpStatus) : (s.setTrapStatus t).hz = s.hz := rfl
@[simp] theorem State.setTrapStatus_hzNext (s : State) (t : FpStatus) : (s.setTrapStatus t).hzNext = s.hzNext := rfl
@[simp] theorem State.setTrapStatus_fzWindow (s : State) (t : FpStatus) : (s.setTrapStatus t).fzWindow = s.fzWindow := rfl
@[simp] theorem State.setTrapStatus_derrEvent (s : State) (t : FpStatus) : (s.setTrapStatus t).derrEvent = s.derrEvent := rfl
@[simp] theorem State.setTrapStatus_derrLeft (s : State) (t : FpStatus) : (s.setTrapStatus t).derrLeft = s.derrLeft := rfl
@[simp] theorem State.setTrapStatus_derrLoad (s : State) (t : FpStatus) : (s.setTrapStatus t).derrLoad = s.derrLoad := rfl
@[simp] theorem State.setTrapStatus_warnPending (s : State) (t : FpStatus) : (s.setTrapStatus t).warnPending = s.warnPending := rfl
@[simp] theorem State.setTrapStatus_opMode (s : State) (t : FpStatus) : (s.setTrapStatus t).opMode = s.opMode := rfl
@[simp] theorem State.setTrapStatus_debugger (s : State) (t : FpStatus) : (s.setTrapStatus t).debugger = s.debugger := rfl
@[simp] theorem State.setTrapStatus_holes (s : State) (t : FpStatus) : (s.setTrapStatus t).holes = s.holes := rfl
@[simp] theorem State.setTrapStatus_cur (s : State) (t : FpStatus) : (s.setTrapStatus t).cur = s.cur := rfl
@[simp] theorem State.setTrapStatus_inputs (s : State) (t : FpStatus) : (s.setTrapStatus t).inputs = s.inputs := rfl
@[simp] theorem State.setTrapStatus_accesses (s : State) (t : FpStatus) : (s.setTrapStatus t).accesses = s.accesses := rfl
@[simp] theorem State.setTrapStatus_fresh (s : State) (t : FpStatus) : (s.setTrapStatus t).fresh = s.fresh := rfl

@[simp] theorem State.trapPointers_pc (s : State) (k : CodeFields) (c a b : Byte) : (s.trapPointers k c a b).pc = s.pc := rfl
@[simp] theorem State.trapPointers_npc (s : State) (k : CodeFields) (c a b : Byte) : (s.trapPointers k c a b).npc = s.npc := rfl
@[simp] theorem State.trapPointers_lastpc (s : State) (k : CodeFields) (c a b : Byte) : (s.trapPointers k c a b).lastpc = s.lastpc := rfl
@[simp] theorem State.trapPointers_lastpcKnown (s : State) (k : CodeFields) (c a b : Byte) : (s.trapPointers k c a b).lastpcKnown = s.lastpcKnown := rfl
@[simp] theorem State.trapPointers_pcSeq (s : State) (k : CodeFields) (c a b : Byte) : (s.trapPointers k c a b).pcSeq = s.pcSeq := rfl
@[simp] theorem State.trapPointers_npcSeq (s : State) (k : CodeFields) (c a b : Byte) : (s.trapPointers k c a b).npcSeq = s.npcSeq := rfl
@[simp] theorem State.trapPointers_sp (s : State) (k : CodeFields) (c a b : Byte) : (s.trapPointers k c a b).sp = s.sp := rfl
@[simp] theorem State.trapPointers_spShadow (s : State) (k : CodeFields) (c a b : Byte) : (s.trapPointers k c a b).spShadow = s.spShadow := rfl
@[simp] theorem State.trapPointers_spValid (s : State) (k : CodeFields) (c a b : Byte) : (s.trapPointers k c a b).spValid = s.spValid := rfl
@[simp] theorem State.trapPointers_cca (s : State) (k : CodeFields) (c a b : Byte) : (s.trapPointers k c a b).cca = s.cca := rfl
@[simp] theorem State.trapPointers_globals (s : State) (k : CodeFields) (c a b : Byte) : (s.trapPointers k c a b).globals = s.globals := rfl
@[simp] theorem State.trapPointers_locals (s : State) (k : CodeFields) (c a b : Byte) : (s.trapPointers k c a b).locals = s.locals := rfl
@[simp] theorem State.trapPointers_acc (s : State) (k : CodeFields) (c a b : Byte) : (s.trapPointers k c a b).acc = s.acc := rfl
@[simp] theorem State.trapPointers_cps (s : State) (k : CodeFields) (c a b : Byte) : (s.trapPointers k c a b).cps = s.cps := rfl
@[simp] theorem State.trapPointers_alu (s : State) (k : CodeFields) (c a b : Byte) : (s.trapPointers k c a b).alu = s.alu := rfl
@[simp] theorem State.trapPointers_tlb (s : State) (k : CodeFields) (c a b : Byte) : (s.trapPointers k c a b).tlb = s.tlb := rfl
@[simp] theorem State.trapPointers_tlbUsage (s : State) (k : CodeFields) (c a b : Byte) : (s.trapPointers k c a b).tlbUsage = s.tlbUsage := rfl
@[simp] theorem State.trapPointers_idmem (s : State) (k : CodeFields) (c a b : Byte) : (s.trapPointers k c a b).idmem = s.idmem := rfl
@[simp] theorem State.trapPointers_imem (s : State) (k : CodeFields) (c a b : Byte) : (s.trapPointers k c a b).imem = s.imem := rfl
@[simp] theorem State.trapPointers_irom (s : State) (k : CodeFields) (c a b : Byte) : (s.trapPointers k c a b).irom = s.irom := rfl
@[simp] theorem State.trapPointers_btc (s : State) (k : CodeFields) (c a b : Byte) : (s.trapPointers k c a b).btc = s.btc := rfl
@[simp] theorem State.trapPointers_prefetched (s : State) (k : CodeFields) (c a b : Byte) : (s.trapPointers k c a b).prefetched = s.prefetched := rfl
@[simp] theorem State.trapPointers_early (s : State) (k : CodeFields) (c a b : Byte) : (s.trapPointers k c a b).early = s.early := rfl
@[simp] theorem State.trapPointers_oldFetch (s : State) (k : CodeFields) (c a b : Byte) : (s.trapPointers k c a b).oldFetch = s.oldFetch := rfl
@[simp] theorem State.trapPointers_hz (s : State) (k : CodeFields) (c a b : Byte) : (s.trapPointers k c a b).hz = s.hz := rfl
@[simp] theorem State.trapPointers_hzNext (s : State) (k : CodeFields) (c a b : Byte) : (s.trapPointers k c a b).hzNext = s.hzNext := rfl
@[simp] theorem State.trapPointers_fzWindow (s : State) (k : CodeFields) (c a b : Byte) : (s.trapPointers k c a b).fzWindow = s.fzWindow := rfl
@[simp] theorem State.trapPointers_derrEvent (s : State) (k : CodeFields) (c a b : Byte) : (s.trapPointers k c a b).derrEvent = s.derrEvent := rfl
@[simp] theorem State.trapPointers_derrLeft (s : State) (k : CodeFields) (c a b : Byte) : (s.trapPointers k c a b).derrLeft = s.derrLeft := rfl
@[simp] theorem State.trapPointers_derrLoad (s : State) (k : CodeFields) (c a b : Byte) : (s.trapPointers k c a b).derrLoad = s.derrLoad := rfl
@[simp] theorem State.trapPointers_warnPending (s : State) (k : CodeFields) (c a b : Byte) : (s.trapPointers k c a b).warnPending = s.warnPending := rfl
@[simp] theorem State.trapPointers_opMode (s : State) (k : CodeFields) (c a b : Byte) : (s.trapPointers k c a b).opMode = s.opMode := rfl
@[simp] theorem State.trapPointers_debugger (s : State) (k : CodeFields) (c a b : Byte) : (s.trapPointers k c a b).debugger = s.debugger := rfl
@[simp] theorem State.trapPointers_holes (s : State) (k : CodeFields) (c a b : Byte) : (s.trapPointers k c a b).holes = s.holes := rfl
@[simp] theorem State.trapPointers_cur (s : State) (k : CodeFields) (c a b : Byte) : (s.trapPointers k c a b).cur = s.cur := rfl
@[simp] theorem State.trapPointers_inputs (s : State) (k : CodeFields) (c a b : Byte) : (s.trapPointers k c a b).inputs = s.inputs := rfl
@[simp] theorem State.trapPointers_accesses (s : State) (k : CodeFields) (c a b : Byte) : (s.trapPointers k c a b).accesses = s.accesses := rfl

@[simp] theorem State.putAcc_pc (s : State) (n : Nat) (v : DWord) : (s.putAcc n v).pc = s.pc := rfl
@[simp] theorem State.putAcc_npc (s : State) (n : Nat) (v : DWord) : (s.putAcc n v).npc = s.npc := rfl
@[simp] theorem State.putAcc_lastpc (s : State) (n : Nat) (v : DWord) : (s.putAcc n v).lastpc = s.lastpc := rfl
@[simp] theorem State.putAcc_lastpcKnown (s : State) (n : Nat) (v : DWord) : (s.putAcc n v).lastpcKnown = s.lastpcKnown := rfl
@[simp] theorem State.putAcc_pcSeq (s : State) (n : Nat) (v : DWord) : (s.putAcc n v).pcSeq = s.pcSeq := rfl
@[simp] theorem State.putAcc_npcSeq (s : State) (n : Nat) (v : DWord) : (s.putAcc n v).npcSeq = s.npcSeq := rfl
@[simp] theorem State.putAcc_sp (s : State) (n : Nat) (v : DWord) : (s.putAcc n v).sp = s.sp := rfl
@[simp] theorem State.putAcc_spShadow (s : State) (n : Nat) (v : DWord) : (s.putAcc n v).spShadow = s.spShadow := rfl
@[simp] theorem State.putAcc_spValid (s : State) (n : Nat) (v : DWord) : (s.putAcc n v).spValid = s.spValid := rfl
@[simp] theorem State.putAcc_cca (s : State) (n : Nat) (v : DWord) : (s.putAcc n v).cca = s.cca := rfl
@[simp] theorem State.putAcc_globals (s : State) (n : Nat) (v : DWord) : (s.putAcc n v).globals = s.globals := rfl
@[simp] theorem State.putAcc_locals (s : State) (n : Nat) (v : DWord) : (s.putAcc n v).locals = s.locals := rfl
@[simp] theorem State.putAcc_cps (s : State) (n : Nat) (v : DWord) : (s.putAcc n v).cps = s.cps := rfl
@[simp] theorem State.putAcc_alu (s : State) (n : Nat) (v : DWord) : (s.putAcc n v).alu = s.alu := rfl
@[simp] theorem State.putAcc_sr (s : State) (n : Nat) (v : DWord) : (s.putAcc n v).sr = s.sr := rfl
@[simp] theorem State.putAcc_tlb (s : State) (n : Nat) (v : DWord) : (s.putAcc n v).tlb = s.tlb := rfl
@[simp] theorem State.putAcc_tlbUsage (s : State) (n : Nat) (v : DWord) : (s.putAcc n v).tlbUsage = s.tlbUsage := rfl
@[simp] theorem State.putAcc_idmem (s : State) (n : Nat) (v : DWord) : (s.putAcc n v).idmem = s.idmem := rfl
@[simp] theorem State.putAcc_imem (s : State) (n : Nat) (v : DWord) : (s.putAcc n v).imem = s.imem := rfl
@[simp] theorem State.putAcc_irom (s : State) (n : Nat) (v : DWord) : (s.putAcc n v).irom = s.irom := rfl
@[simp] theorem State.putAcc_btc (s : State) (n : Nat) (v : DWord) : (s.putAcc n v).btc = s.btc := rfl
@[simp] theorem State.putAcc_prefetched (s : State) (n : Nat) (v : DWord) : (s.putAcc n v).prefetched = s.prefetched := rfl
@[simp] theorem State.putAcc_early (s : State) (n : Nat) (v : DWord) : (s.putAcc n v).early = s.early := rfl
@[simp] theorem State.putAcc_oldFetch (s : State) (n : Nat) (v : DWord) : (s.putAcc n v).oldFetch = s.oldFetch := rfl
@[simp] theorem State.putAcc_hz (s : State) (n : Nat) (v : DWord) : (s.putAcc n v).hz = s.hz := rfl
@[simp] theorem State.putAcc_hzNext (s : State) (n : Nat) (v : DWord) : (s.putAcc n v).hzNext = s.hzNext := rfl
@[simp] theorem State.putAcc_fzWindow (s : State) (n : Nat) (v : DWord) : (s.putAcc n v).fzWindow = s.fzWindow := rfl
@[simp] theorem State.putAcc_derrEvent (s : State) (n : Nat) (v : DWord) : (s.putAcc n v).derrEvent = s.derrEvent := rfl
@[simp] theorem State.putAcc_derrLeft (s : State) (n : Nat) (v : DWord) : (s.putAcc n v).derrLeft = s.derrLeft := rfl
@[simp] theorem State.putAcc_derrLoad (s : State) (n : Nat) (v : DWord) : (s.putAcc n v).derrLoad = s.derrLoad := rfl
@[simp] theorem State.putAcc_warnPending (s : State) (n : Nat) (v : DWord) : (s.putAcc n v).warnPending = s.warnPending := rfl
@[simp] theorem State.putAcc_opMode (s : State) (n : Nat) (v : DWord) : (s.putAcc n v).opMode = s.opMode := rfl
@[simp] theorem State.putAcc_debugger (s : State) (n : Nat) (v : DWord) : (s.putAcc n v).debugger = s.debugger := rfl
@[simp] theorem State.putAcc_holes (s : State) (n : Nat) (v : DWord) : (s.putAcc n v).holes = s.holes := rfl
@[simp] theorem State.putAcc_cur (s : State) (n : Nat) (v : DWord) : (s.putAcc n v).cur = s.cur := rfl
@[simp] theorem State.putAcc_inputs (s : State) (n : Nat) (v : DWord) : (s.putAcc n v).inputs = s.inputs := rfl
@[simp] theorem State.putAcc_accesses (s : State) (n : Nat) (v : DWord) : (s.putAcc n v).accesses = s.accesses := rfl
@[simp] theorem State.putAcc_fresh (s : State) (n : Nat) (v : DWord) : (s.putAcc n v).fresh = s.fresh := rfl

@[simp] theorem State.bumpAccess_pc (s : State) : (s.bumpAccess).pc = s.pc := rfl
@[simp] theorem State.bumpAccess_npc (s : State) : (s.bumpAccess).npc = s.npc := rfl
@[simp] theorem State.bumpAccess_lastpc (s : State) : (s.bumpAccess).lastpc = s.lastpc := rfl
@[simp] theorem State.bumpAccess_lastpcKnown (s : State) : (s.bumpAccess).lastpcKnown = s.lastpcKnown := rfl
@[simp] theorem State.bumpAccess_pcSeq (s : State) : (s.bumpAccess).pcSeq = s.pcSeq := rfl
@[simp] theorem State.bumpAccess_npcSeq (s : State) : (s.bumpAccess).npcSeq = s.npcSeq := rfl
@[simp] theorem State.bumpAccess_sp (s : State) : (s.bumpAccess).sp = s.sp := rfl
@[simp] theorem State.bumpAccess_spShadow (s : State) : (s.bumpAccess).spShadow = s.spShadow := rfl
@[simp] theorem State.bumpAccess_spValid (s : State) : (s.bumpAccess).spValid = s.spValid := rfl
@[simp] theorem State.bumpAccess_cca (s : State) : (s.bumpAccess).cca = s.cca := rfl
@[simp] theorem State.bumpAccess_globals (s : State) : (s.bumpAccess).globals = s.globals := rfl
@[simp] theorem State.bumpAccess_locals (s : State) : (s.bumpAccess).locals = s.locals := rfl
@[simp] theorem State.bumpAccess_acc (s : State) : (s.bumpAccess).acc = s.acc := rfl
@[simp] theorem State.bumpAccess_cps (s : State) : (s.bumpAccess).cps = s.cps := rfl
@[simp] theorem State.bumpAccess_alu (s : State) : (s.bumpAccess).alu = s.alu := rfl
@[simp] theorem State.bumpAccess_sr (s : State) : (s.bumpAccess).sr = s.sr := rfl
@[simp] theorem State.bumpAccess_tlb (s : State) : (s.bumpAccess).tlb = s.tlb := rfl
@[simp] theorem State.bumpAccess_tlbUsage (s : State) : (s.bumpAccess).tlbUsage = s.tlbUsage := rfl
@[simp] theorem State.bumpAccess_idmem (s : State) : (s.bumpAccess).idmem = s.idmem := rfl
@[simp] theorem State.bumpAccess_imem (s : State) : (s.bumpAccess).imem = s.imem := rfl
@[simp] theorem State.bumpAccess_irom (s : State) : (s.bumpAccess).irom = s.irom := rfl
@[simp] theorem State.bumpAccess_btc (s : State) : (s.bumpAccess).btc = s.btc := rfl
@[simp] theorem State.bumpAccess_prefetched (s : State) : (s.bumpAccess).prefetched = s.prefetched := rfl
@[simp] theorem State.bumpAccess_early (s : State) : (s.bumpAccess).early = s.early := rfl
@[simp] theorem State.bumpAccess_oldFetch (s : State) : (s.bumpAccess).oldFetch = s.oldFetch := rfl
@[simp] theorem State.bumpAccess_hz (s : State) : (s.bumpAccess).hz = s.hz := rfl
@[simp] theorem State.bumpAccess_hzNext (s : State) : (s.bumpAccess).hzNext = s.hzNext := rfl
@[simp] theorem State.bumpAccess_fzWindow (s : State) : (s.bumpAccess).fzWindow = s.fzWindow := rfl
@[simp] theorem State.bumpAccess_derrEvent (s : State) : (s.bumpAccess).derrEvent = s.derrEvent := rfl
@[simp] theorem State.bumpAccess_derrLeft (s : State) : (s.bumpAccess).derrLeft = s.derrLeft := rfl
@[simp] theorem State.bumpAccess_derrLoad (s : State) : (s.bumpAccess).derrLoad = s.derrLoad := rfl
@[simp] theorem State.bumpAccess_warnPending (s : State) : (s.bumpAccess).warnPending = s.warnPending := rfl
@[simp] theorem State.bumpAccess_opMode (s : State) : (s.bumpAccess).opMode = s.opMode := rfl
@[simp] theorem State.bumpAccess_debugger (s : State) : (s.bumpAccess).debugger = s.debugger := rfl
@[simp] theorem State.bumpAccess_holes (s : State) : (s.bumpAccess).holes = s.holes := rfl
@[simp] theorem State.bumpAccess_cur (s : State) : (s.bumpAccess).cur = s.cur := rfl
@[simp] theorem State.bumpAccess_inputs (s : State) : (s.bumpAccess).inputs = s.inputs := rfl
@[simp] theorem State.bumpAccess_fresh (s : State) : (s.bumpAccess).fresh = s.fresh := rfl

@[simp] theorem State.useSet_pc (s : State) (l : Nat) (b : Bool) : (s.useSet l b).pc = s.pc := rfl
@[simp] theorem State.useSet_npc (s : State) (l : Nat) (b : Bool) : (s.useSet l b).npc = s.npc := rfl
@[simp] theorem State.useSet_lastpc (s : State) (l : Nat) (b : Bool) : (s.useSet l b).lastpc = s.lastpc := rfl
@[simp] theorem State.useSet_lastpcKnown (s : State) (l : Nat) (b : Bool) : (s.useSet l b).lastpcKnown = s.lastpcKnown := rfl
@[simp] theorem State.useSet_pcSeq (s : State) (l : Nat) (b : Bool) : (s.useSet l b).pcSeq = s.pcSeq := rfl
@[simp] theorem State.useSet_npcSeq (s : State) (l : Nat) (b : Bool) : (s.useSet l b).npcSeq = s.npcSeq := rfl
@[simp] theorem State.useSet_sp (s : State) (l : Nat) (b : Bool) : (s.useSet l b).sp = s.sp := rfl
@[simp] theorem State.useSet_spShadow (s : State) (l : Nat) (b : Bool) : (s.useSet l b).spShadow = s.spShadow := rfl
@[simp] theorem State.useSet_spValid (s : State) (l : Nat) (b : Bool) : (s.useSet l b).spValid = s.spValid := rfl
@[simp] theorem State.useSet_cca (s : State) (l : Nat) (b : Bool) : (s.useSet l b).cca = s.cca := rfl
@[simp] theorem State.useSet_globals (s : State) (l : Nat) (b : Bool) : (s.useSet l b).globals = s.globals := rfl
@[simp] theorem State.useSet_locals (s : State) (l : Nat) (b : Bool) : (s.useSet l b).locals = s.locals := rfl
@[simp] theorem State.useSet_acc (s : State) (l : Nat) (b : Bool) : (s.useSet l b).acc = s.acc := rfl
@[simp] theorem State.useSet_cps (s : State) (l : Nat) (b : Bool) : (s.useSet l b).cps = s.cps := rfl
@[simp] theorem State.useSet_alu (s : State) (l : Nat) (b : Bool) : (s.useSet l b).alu = s.alu := rfl
@[simp] theorem State.useSet_sr (s : State) (l : Nat) (b : Bool) : (s.useSet l b).sr = s.sr := rfl
@[simp] theorem State.useSet_tlb (s : State) (l : Nat) (b : Bool) : (s.useSet l b).tlb = s.tlb := rfl
@[simp] theorem State.useSet_idmem (s : State) (l : Nat) (b : Bool) : (s.useSet l b).idmem = s.idmem := rfl
@[simp] theorem State.useSet_imem (s : State) (l : Nat) (b : Bool) : (s.useSet l b).imem = s.imem := rfl
@[simp] theorem State.useSet_irom (s : State) (l : Nat) (b : Bool) : (s.useSet l b).irom = s.irom := rfl
@[simp] theorem State.useSet_btc (s : State) (l : Nat) (b : Bool) : (s.useSet l b).btc = s.btc := rfl
@[simp] theorem State.useSet_prefetched (s : State) (l : Nat) (b : Bool) : (s.useSet l b).prefetched = s.prefetched := rfl
@[simp] theorem State.useSet_early (s : State) (l : Nat) (b : Bool) : (s.useSet l b).early = s.early := rfl
@[simp] theorem State.useSet_oldFetch (s : State) (l : Nat) (b : Bool) : (s.useSet l b).oldFetch = s.oldFetch := rfl
@[simp] theorem State.useSet_hz (s : State) (l : Nat) (b : Bool) : (s.useSet l b).hz = s.hz := rfl
@[simp] theorem State.useSet_hzNext (s : State) (l : Nat) (b : Bool) : (s.useSet l b).hzNext = s.hzNext := rfl
@[simp] theorem State.useSet_fzWindow (s : State) (l : Nat) (b : Bool) : (s.useSet l b).fzWindow = s.fzWindow := rfl
@[simp] theorem State.useSet_derrEvent (s : State) (l : Nat) (b : Bool) : (s.useSet l b).derrEvent = s.derrEvent := rfl
@[simp] theorem State.useSet_derrLeft (s : State) (l : Nat) (b : Bool) : (s.useSet l b).derrLeft = s.derrLeft := rfl
@[simp] theorem State.useSet_derrLoad (s : State) (l : Nat) (b : Bool) : (s.useSet l b).derrLoad = s.derrLoad := rfl
@[simp] theorem State.useSet_warnPending (s : State) (l : Nat) (b : Bool) : (s.useSet l b).warnPending = s.warnPending := rfl
@[simp] theorem State.useSet_opMode (s : State) (l : Nat) (b : Bool) : (s.useSet l b).opMode = s.opMode := rfl
@[simp] theorem State.useSet_debugger (s : State) (l : Nat) (b : Bool) : (s.useSet l b).debugger = s.debugger := rfl
@[simp] theorem State.useSet_holes (s : State) (l : Nat) (b : Bool) : (s.useSet l b).holes = s.holes := rfl
@[simp] theorem State.useSet_cur (s : State) (l : Nat) (b : Bool) : (s.useSet l b).cur = s.cur := rfl
@[simp] theorem State.useSet_inputs (s : State) (l : Nat) (b : Bool) : (s.useSet l b).inputs = s.inputs := rfl
@[simp] theorem State.useSet_accesses (s : State) (l : Nat) (b : Bool) : (s.useSet l b).accesses = s.accesses := rfl
@[simp] theorem State.useSet_fresh (s : State) (l : Nat) (b : Bool) : (s.useSet l b).fresh = s.fresh := rfl

@[simp] theorem State.missLru_pc (s : State) (l : Nat) : (s.missLru l).pc = s.pc := rfl
@[simp] theorem State.missLru_npc (s : State) (l : Nat) : (s.missLru l).npc = s.npc := rfl
@[simp] theorem State.missLru_lastpc (s : State) (l : Nat) : (s.missLru l).lastpc = s.lastpc := rfl
@[simp] theorem State.missLru_lastpcKnown (s : State) (l : Nat) : (s.missLru l).lastpcKnown = s.lastpcKnown := rfl
@[simp] theorem State.missLru_pcSeq (s : State) (l : Nat) : (s.missLru l).pcSeq = s.pcSeq := rfl
@[simp] theorem State.missLru_npcSeq (s : State) (l : Nat) : (s.missLru l).npcSeq = s.npcSeq := rfl
@[simp] theorem State.missLru_sp (s : State) (l : Nat) : (s.missLru l).sp = s.sp := rfl
@[simp] theorem State.missLru_spShadow (s : State) (l : Nat) : (s.missLru l).spShadow = s.spShadow := rfl
@[simp] theorem State.missLru_spValid (s : State) (l : Nat) : (s.missLru l).spValid = s.spValid := rfl
@[simp] theorem State.missLru_cca (s : State) (l : Nat) : (s.missLru l).cca = s.cca := rfl
@[simp] theorem State.missLru_globals (s : State) (l : Nat) : (s.missLru l).globals = s.globals := rfl
@[simp] theorem State.missLru_locals (s : State) (l : Nat) : (s.missLru l).locals = s.locals := rfl
@[simp] theorem State.missLru_acc (s : State) (l : Nat) : (s.missLru l).acc = s.acc := rfl
@[simp] theorem State.missLru_cps (s : State) (l : Nat) : (s.missLru l).cps = s.cps := rfl
@[simp] theorem State.missLru_alu (s : State) (l : Nat) : (s.missLru l).alu = s.alu := rfl
@[simp] theorem State.missLru_tlb (s : State) (l : Nat) : (s.missLru l).tlb = s.tlb := rfl
@[simp] theorem State.missLru_tlbUsage (s : State) (l : Nat) : (s.missLru l).tlbUsage = s.tlbUsage := rfl
@[simp] theorem State.missLru_idmem (s : State) (l : Nat) : (s.missLru l).idmem = s.idmem := rfl
@[simp] theorem State.missLru_imem (s : State) (l : Nat) : (s.missLru l).imem = s.imem := rfl
@[simp] theorem State.missLru_irom (s : State) (l : Nat) : (s.missLru l).irom = s.irom := rfl
@[simp] theorem State.missLru_btc (s : State) (l : Nat) : (s.missLru l).btc = s.btc := rfl
@[simp] theorem State.missLru_prefetched (s : State) (l : Nat) : (s.missLru l).prefetched = s.prefetched := rfl
@[simp] theorem State.missLru_early (s : State) (l : Nat) : (s.missLru l).early = s.early := rfl
@[simp] theorem State.missLru_oldFetch (s : State) (l : Nat) : (s.missLru l).oldFetch = s.oldFetch := rfl
@[simp] theorem State.missLru_hz (s : State) (l : Nat) : (s.missLru l).hz = s.hz := rfl
@[simp] theorem State.missLru_hzNext (s : State) (l : Nat) : (s.missLru l).hzNext = s.hzNext := rfl
@[simp] theorem State.missLru_fzWindow (s : State) (l : Nat) : (s.missLru l).fzWindow = s.fzWindow := rfl
@[simp] theorem State.missLru_derrEvent (s : State) (l : Nat) : (s.missLru l).derrEvent = s.derrEvent := rfl
@[simp] theorem State.missLru_derrLeft (s : State) (l : Nat) : (s.missLru l).derrLeft = s.derrLeft := rfl
@[simp] theorem State.missLru_derrLoad (s : State) (l : Nat) : (s.missLru l).derrLoad = s.derrLoad := rfl
@[simp] theorem State.missLru_warnPending (s : State) (l : Nat) : (s.missLru l).warnPending = s.warnPending := rfl
@[simp] theorem State.missLru_opMode (s : State) (l : Nat) : (s.missLru l).opMode = s.opMode := rfl
@[simp] theorem State.missLru_debugger (s : State) (l : Nat) : (s.missLru l).debugger = s.debugger := rfl
@[simp] theorem State.missLru_holes (s : State) (l : Nat) : (s.missLru l).holes = s.holes := rfl
@[simp] theorem State.missLru_cur (s : State) (l : Nat) : (s.missLru l).cur = s.cur := rfl
@[simp] theorem State.missLru_inputs (s : State) (l : Nat) : (s.missLru l).inputs = s.inputs := rfl
@[simp] theorem State.missLru_accesses (s : State) (l : Nat) : (s.missLru l).accesses = s.accesses := rfl
@[simp] theorem State.missLru_fresh (s : State) (l : Nat) : (s.missLru l).fresh = s.fresh := rfl

@[simp] theorem State.violationLru_pc (s : State) : (s.violationLru).pc = s.pc := rfl
@[simp] theorem State.violationLru_npc (s : State) : (s.violationLru).npc = s.npc := rfl
@[simp] theorem State.violationLru_lastpc (s : State) : (s.violationLru).lastpc = s.lastpc := rfl
@[simp] theorem State.violationLru_lastpcKnown (s : State) : (s.violationLru).lastpcKnown = s.lastpcKnown := rfl
@[simp] theorem State.violationLru_pcSeq (s : State) : (s.violationLru).pcSeq = s.pcSeq := rfl
@[simp] theorem State.violationLru_npcSeq (s : State) : (s.violationLru).npcSeq = s.npcSeq := rfl
@[simp] theorem State.violationLru_sp (s : State) : (s.violationLru).sp = s.sp := rfl
@[simp] theorem State.violationLru_spShadow (s : State) : (s.violationLru).spShadow = s.spShadow := rfl
@[simp] theorem State.violationLru_spValid (s : State) : (s.violationLru).spValid = s.spValid := rfl
@[simp] theorem State.violationLru_cca (s : State) : (s.violationLru).cca = s.cca := rfl
@[simp] theorem State.violationLru_globals (s : State) : (s.violationLru).globals = s.globals := rfl
@[simp] theorem State.violationLru_locals (s : State) : (s.violationLru).locals = s.locals := rfl
@[simp] theorem State.violationLru_acc (s : State) : (s.violationLru).acc = s.acc := rfl
@[simp] theorem State.violationLru_cps (s : State) : (s.violationLru).cps = s.cps := rfl
@[simp] theorem State.violationLru_alu (s : State) : (s.violationLru).alu = s.alu := rfl
@[simp] theorem State.violationLru_tlb (s : State) : (s.violationLru).tlb = s.tlb := rfl
@[simp] theorem State.violationLru_tlbUsage (s : State) : (s.violationLru).tlbUsage = s.tlbUsage := rfl
@[simp] theorem State.violationLru_idmem (s : State) : (s.violationLru).idmem = s.idmem := rfl
@[simp] theorem State.violationLru_imem (s : State) : (s.violationLru).imem = s.imem := rfl
@[simp] theorem State.violationLru_irom (s : State) : (s.violationLru).irom = s.irom := rfl
@[simp] theorem State.violationLru_btc (s : State) : (s.violationLru).btc = s.btc := rfl
@[simp] theorem State.violationLru_prefetched (s : State) : (s.violationLru).prefetched = s.prefetched := rfl
@[simp] theorem State.violationLru_early (s : State) : (s.violationLru).early = s.early := rfl
@[simp] theorem State.violationLru_oldFetch (s : State) : (s.violationLru).oldFetch = s.oldFetch := rfl
@[simp] theorem State.violationLru_hz (s : State) : (s.violationLru).hz = s.hz := rfl
@[simp] theorem State.violationLru_hzNext (s : State) : (s.violationLru).hzNext = s.hzNext := rfl
@[simp] theorem State.violationLru_fzWindow (s : State) : (s.violationLru).fzWindow = s.fzWindow := rfl
@[simp] theorem State.violationLru_derrEvent (s : State) : (s.violationLru).derrEvent = s.derrEvent := rfl
@[simp] theorem State.violationLru_derrLeft (s : State) : (s.violationLru).derrLeft = s.derrLeft := rfl
@[simp] theorem State.violationLru_derrLoad (s : State) : (s.violationLru).derrLoad = s.derrLoad := rfl
@[simp] theorem State.violationLru_warnPending (s : State) : (s.violationLru).warnPending = s.warnPending := rfl
@[simp] theorem State.violationLru_opMode (s : State) : (s.violationLru).opMode = s.opMode := rfl
@[simp] theorem State.violationLru_debugger (s : State) : (s.violationLru).debugger = s.debugger := rfl
@[simp] theorem State.violationLru_holes (s : State) : (s.violationLru).holes = s.holes := rfl
@[simp] theorem State.violationLru_cur (s : State) : (s.violationLru).cur = s.cur := rfl
@[simp] theorem State.violationLru_inputs (s : State) : (s.violationLru).inputs = s.inputs := rfl
@[simp] theorem State.violationLru_accesses (s : State) : (s.violationLru).accesses = s.accesses := rfl

@[simp] theorem State.nextTransfer_pc (s : State) : (s.nextTransfer).pc = s.pc := rfl
@[simp] theorem State.nextTransfer_npc (s : State) : (s.nextTransfer).npc = s.npc := rfl
@[simp] theorem State.nextTransfer_lastpc (s : State) : (s.nextTransfer).lastpc = s.lastpc := rfl
@[simp] theorem State.nextTransfer_lastpcKnown (s : State) : (s.nextTransfer).lastpcKnown = s.lastpcKnown := rfl
@[simp] theorem State.nextTransfer_pcSeq (s : State) : (s.nextTransfer).pcSeq = s.pcSeq := rfl
@[simp] theorem State.nextTransfer_npcSeq (s : State) : (s.nextTransfer).npcSeq = s.npcSeq := rfl
@[simp] theorem State.nextTransfer_sp (s : State) : (s.nextTransfer).sp = s.sp := rfl
@[simp] theorem State.nextTransfer_spShadow (s : State) : (s.nextTransfer).spShadow = s.spShadow := rfl
@[simp] theorem State.nextTransfer_spValid (s : State) : (s.nextTransfer).spValid = s.spValid := rfl
@[simp] theorem State.nextTransfer_cca (s : State) : (s.nextTransfer).cca = s.cca := rfl
@[simp] theorem State.nextTransfer_globals (s : State) : (s.nextTransfer).globals = s.globals := rfl
@[simp] theorem State.nextTransfer_locals (s : State) : (s.nextTransfer).locals = s.locals := rfl
@[simp] theorem State.nextTransfer_acc (s : State) : (s.nextTransfer).acc = s.acc := rfl
@[simp] theorem State.nextTransfer_cps (s : State) : (s.nextTransfer).cps = s.cps := rfl
@[simp] theorem State.nextTransfer_alu (s : State) : (s.nextTransfer).alu = s.alu := rfl
@[simp] theorem State.nextTransfer_tlb (s : State) : (s.nextTransfer).tlb = s.tlb := rfl
@[simp] theorem State.nextTransfer_tlbUsage (s : State) : (s.nextTransfer).tlbUsage = s.tlbUsage := rfl
@[simp] theorem State.nextTransfer_idmem (s : State) : (s.nextTransfer).idmem = s.idmem := rfl
@[simp] theorem State.nextTransfer_imem (s : State) : (s.nextTransfer).imem = s.imem := rfl
@[simp] theorem State.nextTransfer_irom (s : State) : (s.nextTransfer).irom = s.irom := rfl
@[simp] theorem State.nextTransfer_btc (s : State) : (s.nextTransfer).btc = s.btc := rfl
@[simp] theorem State.nextTransfer_prefetched (s : State) : (s.nextTransfer).prefetched = s.prefetched := rfl
@[simp] theorem State.nextTransfer_early (s : State) : (s.nextTransfer).early = s.early := rfl
@[simp] theorem State.nextTransfer_oldFetch (s : State) : (s.nextTransfer).oldFetch = s.oldFetch := rfl
@[simp] theorem State.nextTransfer_hz (s : State) : (s.nextTransfer).hz = s.hz := rfl
@[simp] theorem State.nextTransfer_hzNext (s : State) : (s.nextTransfer).hzNext = s.hzNext := rfl
@[simp] theorem State.nextTransfer_fzWindow (s : State) : (s.nextTransfer).fzWindow = s.fzWindow := rfl
@[simp] theorem State.nextTransfer_derrEvent (s : State) : (s.nextTransfer).derrEvent = s.derrEvent := rfl
@[simp] theorem State.nextTransfer_derrLeft (s : State) : (s.nextTransfer).derrLeft = s.derrLeft := rfl
@[simp] theorem State.nextTransfer_derrLoad (s : State) : (s.nextTransfer).derrLoad = s.derrLoad := rfl
@[simp] theorem State.nextTransfer_warnPending (s : State) : (s.nextTransfer).warnPending = s.warnPending := rfl
@[simp] theorem State.nextTransfer_opMode (s : State) : (s.nextTransfer).opMode = s.opMode := rfl
@[simp] theorem State.nextTransfer_debugger (s : State) : (s.nextTransfer).debugger = s.debugger := rfl
@[simp] theorem State.nextTransfer_holes (s : State) : (s.nextTransfer).holes = s.holes := rfl
@[simp] theorem State.nextTransfer_cur (s : State) : (s.nextTransfer).cur = s.cur := rfl
@[simp] theorem State.nextTransfer_inputs (s : State) : (s.nextTransfer).inputs = s.inputs := rfl
@[simp] theorem State.nextTransfer_accesses (s : State) : (s.nextTransfer).accesses = s.accesses := rfl
@[simp] theorem State.nextTransfer_fresh (s : State) : (s.nextTransfer).fresh = s.fresh := rfl

@[simp] theorem State.lastTransfer_pc (s : State) : (s.lastTransfer).pc = s.pc := rfl
@[simp] theorem State.lastTransfer_npc (s : State) : (s.lastTransfer).npc = s.npc := rfl
@[simp] theorem State.lastTransfer_lastpc (s : State) : (s.lastTransfer).lastpc = s.lastpc := rfl
@[simp] theorem State.lastTransfer_lastpcKnown (s : State) : (s.lastTransfer).lastpcKnown = s.lastpcKnown := rfl
@[simp] theorem State.lastTransfer_pcSeq (s : State) : (s.lastTransfer).pcSeq = s.pcSeq := rfl
@[simp] theorem State.lastTransfer_npcSeq (s : State) : (s.lastTransfer).npcSeq = s.npcSeq := rfl
@[simp] theorem State.lastTransfer_sp (s : State) : (s.lastTransfer).sp = s.sp := rfl
@[simp] theorem State.lastTransfer_spShadow (s : State) : (s.lastTransfer).spShadow = s.spShadow := rfl
@[simp] theorem State.lastTransfer_spValid (s : State) : (s.lastTransfer).spValid = s.spValid := rfl
@[simp] theorem State.lastTransfer_cca (s : State) : (s.lastTransfer).cca = s.cca := rfl
@[simp] theorem State.lastTransfer_globals (s : State) : (s.lastTransfer).globals = s.globals := rfl
@[simp] theorem State.lastTransfer_locals (s : State) : (s.lastTransfer).locals = s.locals := rfl
@[simp] theorem State.lastTransfer_acc (s : State) : (s.lastTransfer).acc = s.acc := rfl
@[simp] theorem State.lastTransfer_cps (s : State) : (s.lastTransfer).cps = s.cps := rfl
@[simp] theorem State.lastTransfer_alu (s : State) : (s.lastTransfer).alu = s.alu := rfl
@[simp] theorem State.lastTransfer_tlb (s : State) : (s.lastTransfer).tlb = s.tlb := rfl
@[simp] theorem State.lastTransfer_tlbUsage (s : State) : (s.lastTransfer).tlbUsage = s.tlbUsage := rfl
@[simp] theorem State.lastTransfer_idmem (s : State) : (s.lastTransfer).idmem = s.idmem := rfl
@[simp] theorem State.lastTransfer_imem (s : State) : (s.lastTransfer).imem = s.imem := rfl
@[simp] theorem State.lastTransfer_irom (s : State) : (s.lastTransfer).irom = s.irom := rfl
@[simp] theorem State.lastTransfer_btc (s : State) : (s.lastTransfer).btc = s.btc := rfl
@[simp] theorem State.lastTransfer_prefetched (s : State) : (s.lastTransfer).prefetched = s.prefetched := rfl
@[simp] theorem State.lastTransfer_early (s : State) : (s.lastTransfer).early = s.early := rfl
@[simp] theorem State.lastTransfer_oldFetch (s : State) : (s.lastTransfer).oldFetch = s.oldFetch := rfl
@[simp] theorem State.lastTransfer_hz (s : State) : (s.lastTransfer).hz = s.hz := rfl
@[simp] theorem State.lastTransfer_hzNext (s : State) : (s.lastTransfer).hzNext = s.hzNext := rfl
@[simp] theorem State.lastTransfer_fzWindow (s : State) : (s.lastTransfer).fzWindow = s.fzWindow := rfl
@[simp] theorem State.lastTransfer_derrEvent (s : State) : (s.lastTransfer).derrEvent = s.derrEvent := rfl
@[simp] theorem State.lastTransfer_derrLeft (s : State) : (s.lastTransfer).derrLeft = s.derrLeft := rfl
@[simp] theorem State.lastTransfer_derrLoad (s : State) : (s.lastTransfer).derrLoad = s.derrLoad := rfl
@[simp] theorem State.lastTransfer_warnPending (s : State) : (s.lastTransfer).warnPending = s.warnPending := rfl
@[simp] theorem State.lastTransfer_opMode (s : State) : (s.lastTransfer).opMode = s.opMode := rfl
@[simp] theorem State.lastTransfer_debugger (s : State) : (s.lastTransfer).debugger = s.debugger := rfl
@[simp] theorem State.lastTransfer_holes (s : State) : (s.lastTransfer).holes = s.holes := rfl
@[simp] theorem State.lastTransfer_cur (s : State) : (s.lastTransfer).cur = s.cur := rfl
@[simp] theorem State.lastTransfer_inputs (s : State) : (s.lastTransfer).inputs = s.inputs := rfl
@[simp] theorem State.lastTransfer_accesses (s : State) : (s.lastTransfer).accesses = s.accesses := rfl
@[simp] theorem State.lastTransfer_fresh (s : State) : (s.lastTransfer).fresh = s.fresh := rfl

@[simp] theorem State.keepFetched_pc (s : State) : (s.keepFetched).pc = s.pc := rfl
@[simp] theorem State.keepFetched_npc (s : State) : (s.keepFetched).npc = s.npc := rfl
@[simp] theorem State.keepFetched_lastpc (s : State) : (s.keepFetched).lastpc = s.lastpc := rfl
@[simp] theorem State.keepFetched_lastpcKnown (s : State) : (s.keepFetched).lastpcKnown = s.lastpcKnown := rfl
@[simp] theorem State.keepFetched_pcSeq (s : State) : (s.keepFetched).pcSeq = s.pcSeq := rfl
@[simp] theorem State.keepFetched_npcSeq (s : State) : (s.keepFetched).npcSeq = s.npcSeq := rfl
@[simp] theorem State.keepFetched_sp (s : State) : (s.keepFetched).sp = s.sp := rfl
@[simp] theorem State.keepFetched_spShadow (s : State) : (s.keepFetched).spShadow = s.spShadow := rfl
@[simp] theorem State.keepFetched_spValid (s : State) : (s.keepFetched).spValid = s.spValid := rfl
@[simp] theorem State.keepFetched_cca (s : State) : (s.keepFetched).cca = s.cca := rfl
@[simp] theorem State.keepFetched_globals (s : State) : (s.keepFetched).globals = s.globals := rfl
@[simp] theorem State.keepFetched_locals (s : State) : (s.keepFetched).locals = s.locals := rfl
@[simp] theorem State.keepFetched_acc (s : State) : (s.keepFetched).acc = s.acc := rfl
@[simp] theorem State.keepFetched_cps (s : State) : (s.keepFetched).cps = s.cps := rfl
@[simp] theorem State.keepFetched_alu (s : State) : (s.keepFetched).alu = s.alu := rfl
@[simp] theorem State.keepFetched_sr (s : State) : (s.keepFetched).sr = s.sr := rfl
@[simp] theorem State.keepFetched_tlb (s : State) : (s.keepFetched).tlb = s.tlb := rfl
@[simp] theorem State.keepFetched_tlbUsage (s : State) : (s.keepFetched).tlbUsage = s.tlbUsage := rfl
@[simp] theorem State.keepFetched_idmem (s : State) : (s.keepFetched).idmem = s.idmem := rfl
@[simp] theorem State.keepFetched_imem (s : State) : (s.keepFetched).imem = s.imem := rfl
@[simp] theorem State.keepFetched_irom (s : State) : (s.keepFetched).irom = s.irom := rfl
@[simp] theorem State.keepFetched_btc (s : State) : (s.keepFetched).btc = s.btc := rfl
@[simp] theorem State.keepFetched_early (s : State) : (s.keepFetched).early = s.early := rfl
@[simp] theorem State.keepFetched_oldFetch (s : State) : (s.keepFetched).oldFetch = s.oldFetch := rfl
@[simp] theorem State.keepFetched_hz (s : State) : (s.keepFetched).hz = s.hz := rfl
@[simp] theorem State.keepFetched_hzNext (s : State) : (s.keepFetched).hzNext = s.hzNext := rfl
@[simp] theorem State.keepFetched_fzWindow (s : State) : (s.keepFetched).fzWindow = s.fzWindow := rfl
@[simp] theorem State.keepFetched_derrEvent (s : State) : (s.keepFetched).derrEvent = s.derrEvent := rfl
@[simp] theorem State.keepFetched_derrLeft (s : State) : (s.keepFetched).derrLeft = s.derrLeft := rfl
@[simp] theorem State.keepFetched_derrLoad (s : State) : (s.keepFetched).derrLoad = s.derrLoad := rfl
@[simp] theorem State.keepFetched_warnPending (s : State) : (s.keepFetched).warnPending = s.warnPending := rfl
@[simp] theorem State.keepFetched_opMode (s : State) : (s.keepFetched).opMode = s.opMode := rfl
@[simp] theorem State.keepFetched_debugger (s : State) : (s.keepFetched).debugger = s.debugger := rfl
@[simp] theorem State.keepFetched_holes (s : State) : (s.keepFetched).holes = s.holes := rfl
@[simp] theorem State.keepFetched_cur (s : State) : (s.keepFetched).cur = s.cur := rfl
@[simp] theorem State.keepFetched_inputs (s : State) : (s.keepFetched).inputs = s.inputs := rfl
@[simp] theorem State.keepFetched_accesses (s : State) : (s.keepFetched).accesses = s.accesses := rfl
@[simp] theorem State.keepFetched_fresh (s : State) : (s.keepFetched).fresh = s.fresh := rfl

@[simp] theorem State.freezePcs_pc (s : State) : (s.freezePcs).pc = s.pc := rfl
@[simp] theorem State.freezePcs_npc (s : State) : (s.freezePcs).npc = s.npc := rfl
@[simp] theorem State.freezePcs_lastpc (s : State) : (s.freezePcs).lastpc = s.lastpc := rfl
@[simp] theorem State.freezePcs_lastpcKnown (s : State) : (s.freezePcs).lastpcKnown = s.lastpcKnown := rfl
@[simp] theorem State.freezePcs_pcSeq (s : State) : (s.freezePcs).pcSeq = s.pcSeq := rfl
@[simp] theorem State.freezePcs_npcSeq (s : State) : (s.freezePcs).npcSeq = s.npcSeq := rfl
@[simp] theorem State.freezePcs_sp (s : State) : (s.freezePcs).sp = s.sp := rfl
@[simp] theorem State.freezePcs_spShadow (s : State) : (s.freezePcs).spShadow = s.spShadow := rfl
@[simp] theorem State.freezePcs_spValid (s : State) : (s.freezePcs).spValid = s.spValid := rfl
@[simp] theorem State.freezePcs_cca (s : State) : (s.freezePcs).cca = s.cca := rfl
@[simp] theorem State.freezePcs_globals (s : State) : (s.freezePcs).globals = s.globals := rfl
@[simp] theorem State.freezePcs_locals (s : State) : (s.freezePcs).locals = s.locals := rfl
@[simp] theorem State.freezePcs_acc (s : State) : (s.freezePcs).acc = s.acc := rfl
@[simp] theorem State.freezePcs_cps (s : State) : (s.freezePcs).cps = s.cps := rfl
@[simp] theorem State.freezePcs_alu (s : State) : (s.freezePcs).alu = s.alu := rfl
@[simp] theorem State.freezePcs_tlb (s : State) : (s.freezePcs).tlb = s.tlb := rfl
@[simp] theorem State.freezePcs_tlbUsage (s : State) : (s.freezePcs).tlbUsage = s.tlbUsage := rfl
@[simp] theorem State.freezePcs_idmem (s : State) : (s.freezePcs).idmem = s.idmem := rfl
@[simp] theorem State.freezePcs_imem (s : State) : (s.freezePcs).imem = s.imem := rfl
@[simp] theorem State.freezePcs_irom (s : State) : (s.freezePcs).irom = s.irom := rfl
@[simp] theorem State.freezePcs_btc (s : State) : (s.freezePcs).btc = s.btc := rfl
@[simp] theorem State.freezePcs_prefetched (s : State) : (s.freezePcs).prefetched = s.prefetched := rfl
@[simp] theorem State.freezePcs_early (s : State) : (s.freezePcs).early = s.early := rfl
@[simp] theorem State.freezePcs_oldFetch (s : State) : (s.freezePcs).oldFetch = s.oldFetch := rfl
@[simp] theorem State.freezePcs_hz (s : State) : (s.freezePcs).hz = s.hz := rfl
@[simp] theorem State.freezePcs_hzNext (s : State) : (s.freezePcs).hzNext = s.hzNext := rfl
@[simp] theorem State.freezePcs_fzWindow (s : State) : (s.freezePcs).fzWindow = s.fzWindow := rfl
@[simp] theorem State.freezePcs_derrEvent (s : State) : (s.freezePcs).derrEvent = s.derrEvent := rfl
@[simp] theorem State.freezePcs_derrLeft (s : State) : (s.freezePcs).derrLeft = s.derrLeft := rfl
@[simp] theorem State.freezePcs_derrLoad (s : State) : (s.freezePcs).derrLoad = s.derrLoad := rfl
@[simp] theorem State.freezePcs_warnPending (s : State) : (s.freezePcs).warnPending = s.warnPending := rfl
@[simp] theorem State.freezePcs_opMode (s : State) : (s.freezePcs).opMode = s.opMode := rfl
@[simp] theorem State.freezePcs_debugger (s : State) : (s.freezePcs).debugger = s.debugger := rfl
@[simp] theorem State.freezePcs_holes (s : State) : (s.freezePcs).holes = s.holes := rfl
@[simp] theorem State.freezePcs_cur (s : State) : (s.freezePcs).cur = s.cur := rfl
@[simp] theorem State.freezePcs_inputs (s : State) : (s.freezePcs).inputs = s.inputs := rfl
@[simp] theorem State.freezePcs_accesses (s : State) : (s.freezePcs).accesses = s.accesses := rfl

@[simp] theorem Done.advance_seq_sp (s : State) : ((.seq s : Done).advance).sp = s.sp := rfl
@[simp] theorem Done.advance_seq_spShadow (s : State) : ((.seq s : Done).advance).spShadow = s.spShadow := rfl
@[simp] theorem Done.advance_seq_spValid (s : State) : ((.seq s : Done).advance).spValid = s.spValid := rfl
@[simp] theorem Done.advance_seq_cca (s : State) : ((.seq s : Done).advance).cca = s.cca := rfl
@[simp] theorem Done.advance_seq_globals (s : State) : ((.seq s : Done).advance).globals = s.globals := rfl
@[simp] theorem Done.advance_seq_locals (s : State) : ((.seq s : Done).advance).locals = s.locals := rfl
@[simp] theorem Done.advance_seq_acc (s : State) : ((.seq s : Done).advance).acc = s.acc := rfl
@[simp] theorem Done.advance_seq_alu (s : State) : ((.seq s : Done).advance).alu = s.alu := rfl
@[simp] theorem Done.advance_seq_sr (s : State) : ((.seq s : Done).advance).sr = s.sr := rfl
@[simp] theorem Done.advance_seq_tlb (s : State) : ((.seq s : Done).advance).tlb = s.tlb := rfl
@[simp] theorem Done.advance_seq_tlbUsage (s : State) : ((.seq s : Done).advance).tlbUsage = s.tlbUsage := rfl
@[simp] theorem Done.advance_seq_idmem (s : State) : ((.seq s : Done).advance).idmem = s.idmem := rfl
@[simp] theorem Done.advance_seq_imem (s : State) : ((.seq s : Done).advance).imem = s.imem := rfl
@[simp] theorem Done.advance_seq_irom (s : State) : ((.seq s : Done).advance).irom = s.irom := rfl
@[simp] theorem Done.advance_seq_btc (s : State) : ((.seq s : Done).advance).btc = s.btc := rfl
@[simp] theorem Done.advance_seq_prefetched (s : State) : ((.seq s : Done).advance).prefetched = s.prefetched := rfl
@[simp] theorem Done.advance_seq_early (s : State) : ((.seq s : Done).advance).early = s.early := rfl
@[simp] theorem Done.advance_seq_oldFetch (s : State) : ((.seq s : Done).advance).oldFetch = s.oldFetch := rfl
@[simp] theorem Done.advance_seq_derrEvent (s : State) : ((.seq s : Done).advance).derrEvent = s.derrEvent := rfl
@[simp] theorem Done.advance_seq_derrLeft (s : State) : ((.seq s : Done).advance).derrLeft = s.derrLeft := rfl
@[simp] theorem Done.advance_seq_derrLoad (s : State) : ((.seq s : Done).advance).derrLoad = s.derrLoad := rfl
@[simp] theorem Done.advance_seq_warnPending (s : State) : ((.seq s : Done).advance).warnPending = s.warnPending := rfl
@[simp] theorem Done.advance_seq_opMode (s : State) : ((.seq s : Done).advance).opMode = s.opMode := rfl
@[simp] theorem Done.advance_seq_debugger (s : State) : ((.seq s : Done).advance).debugger = s.debugger := rfl
@[simp] theorem Done.advance_seq_holes (s : State) : ((.seq s : Done).advance).holes = s.holes := rfl
@[simp] theorem Done.advance_seq_cur (s : State) : ((.seq s : Done).advance).cur = s.cur := rfl
@[simp] theorem Done.advance_seq_inputs (s : State) : ((.seq s : Done).advance).inputs = s.inputs := rfl
@[simp] theorem Done.advance_seq_accesses (s : State) : ((.seq s : Done).advance).accesses = s.accesses := rfl
@[simp] theorem Done.advance_seq_fresh (s : State) : ((.seq s : Done).advance).fresh = s.fresh := rfl

@[simp] theorem Done.advance_status_sp (s : State) : ((.status s : Done).advance).sp = s.sp := rfl
@[simp] theorem Done.advance_status_spShadow (s : State) : ((.status s : Done).advance).spShadow = s.spShadow := rfl
@[simp] theorem Done.advance_status_spValid (s : State) : ((.status s : Done).advance).spValid = s.spValid := rfl
@[simp] theorem Done.advance_status_cca (s : State) : ((.status s : Done).advance).cca = s.cca := rfl
@[simp] theorem Done.advance_status_globals (s : State) : ((.status s : Done).advance).globals = s.globals := rfl
@[simp] theorem Done.advance_status_locals (s : State) : ((.status s : Done).advance).locals = s.locals := rfl
@[simp] theorem Done.advance_status_acc (s : State) : ((.status s : Done).advance).acc = s.acc := rfl
@[simp] theorem Done.advance_status_alu (s : State) : ((.status s : Done).advance).alu = s.alu := rfl
@[simp] theorem Done.advance_status_sr (s : State) : ((.status s : Done).advance).sr = s.sr := rfl
@[simp] theorem Done.advance_status_tlb (s : State) : ((.status s : Done).advance).tlb = s.tlb := rfl
@[simp] theorem Done.advance_status_tlbUsage (s : State) : ((.status s : Done).advance).tlbUsage = s.tlbUsage := rfl
@[simp] theorem Done.advance_status_idmem (s : State) : ((.status s : Done).advance).idmem = s.idmem := rfl
@[simp] theorem Done.advance_status_imem (s : State) : ((.status s : Done).advance).imem = s.imem := rfl
@[simp] theorem Done.advance_status_irom (s : State) : ((.status s : Done).advance).irom = s.irom := rfl
@[simp] theorem Done.advance_status_btc (s : State) : ((.status s : Done).advance).btc = s.btc := rfl
@[simp] theorem Done.advance_status_prefetched (s : State) : ((.status s : Done).advance).prefetched = s.prefetched := rfl
@[simp] theorem Done.advance_status_early (s : State) : ((.status s : Done).advance).early = s.early := rfl
@[simp] theorem Done.advance_status_oldFetch (s : State) : ((.status s : Done).advance).oldFetch = s.oldFetch := rfl
@[simp] theorem Done.advance_status_derrEvent (s : State) : ((.status s : Done).advance).derrEvent = s.derrEvent := rfl
@[simp] theorem Done.advance_status_derrLeft (s : State) : ((.status s : Done).advance).derrLeft = s.derrLeft := rfl
@[simp] theorem Done.advance_status_derrLoad (s : State) : ((.status s : Done).advance).derrLoad = s.derrLoad := rfl
@[simp] theorem Done.advance_status_warnPending (s : State) : ((.status s : Done).advance).warnPending = s.warnPending := rfl
@[simp] theorem Done.advance_status_opMode (s : State) : ((.status s : Done).advance).opMode = s.opMode := rfl
@[simp] theorem Done.advance_status_debugger (s : State) : ((.status s : Done).advance).debugger = s.debugger := rfl
@[simp] theorem Done.advance_status_holes (s : State) : ((.status s : Done).advance).holes = s.holes := rfl
@[simp] theorem Done.advance_status_cur (s : State) : ((.status s : Done).advance).cur = s.cur := rfl
@[simp] theorem Done.advance_status_inputs (s : State) : ((.status s : Done).advance).inputs = s.inputs := rfl
@[simp] theorem Done.advance_status_accesses (s : State) : ((.status s : Done).advance).accesses = s.accesses := rfl
@[simp] theorem Done.advance_status_fresh (s : State) : ((.status s : Done).advance).fresh = s.fresh := rfl

@[simp] theorem Done.advance_branch_sp (s : State) (t : Word) : ((.branch s t : Done).advance).sp = s.sp := rfl
@[simp] theorem Done.advance_branch_spShadow (s : State) (t : Word) : ((.branch s t : Done).advance).spShadow = s.spShadow := rfl
@[simp] theorem Done.advance_branch_spValid (s : State) (t : Word) : ((.branch s t : Done).advance).spValid = s.spValid := rfl
@[simp] theorem Done.advance_branch_cca (s : State) (t : Word) : ((.branch s t : Done).advance).cca = s.cca := rfl
@[simp] theorem Done.advance_branch_globals (s : State) (t : Word) : ((.branch s t : Done).advance).globals = s.globals := rfl
@[simp] theorem Done.advance_branch_locals (s : State) (t : Word) : ((.branch s t : Done).advance).locals = s.locals := rfl
@[simp] theorem Done.advance_branch_acc (s : State) (t : Word) : ((.branch s t : Done).advance).acc = s.acc := rfl
@[simp] theorem Done.advance_branch_alu (s : State) (t : Word) : ((.branch s t : Done).advance).alu = s.alu := rfl
@[simp] theorem Done.advance_branch_sr (s : State) (t : Word) : ((.branch s t : Done).advance).sr = s.sr := rfl
@[simp] theorem Done.advance_branch_tlb (s : State) (t : Word) : ((.branch s t : Done).advance).tlb = s.tlb := rfl
@[simp] theorem Done.advance_branch_tlbUsage (s : State) (t : Word) : ((.branch s t : Done).advance).tlbUsage = s.tlbUsage := rfl
@[simp] theorem Done.advance_branch_idmem (s : State) (t : Word) : ((.branch s t : Done).advance).idmem = s.idmem := rfl
@[simp] theorem Done.advance_branch_imem (s : State) (t : Word) : ((.branch s t : Done).advance).imem = s.imem := rfl
@[simp] theorem Done.advance_branch_irom (s : State) (t : Word) : ((.branch s t : Done).advance).irom = s.irom := rfl
@[simp] theorem Done.advance_branch_prefetched (s : State) (t : Word) : ((.branch s t : Done).advance).prefetched = s.prefetched := rfl
@[simp] theorem Done.advance_branch_early (s : State) (t : Word) : ((.branch s t : Done).advance).early = s.early := rfl
@[simp] theorem Done.advance_branch_oldFetch (s : State) (t : Word) : ((.branch s t : Done).advance).oldFetch = s.oldFetch := rfl
@[simp] theorem Done.advance_branch_derrEvent (s : State) (t : Word) : ((.branch s t : Done).advance).derrEvent = s.derrEvent := rfl
@[simp] theorem Done.advance_branch_derrLeft (s : State) (t : Word) : ((.branch s t : Done).advance).derrLeft = s.derrLeft := rfl
@[simp] theorem Done.advance_branch_derrLoad (s : State) (t : Word) : ((.branch s t : Done).advance).derrLoad = s.derrLoad := rfl
@[simp] theorem Done.advance_branch_warnPending (s : State) (t : Word) : ((.branch s t : Done).advance).warnPending = s.warnPending := rfl
@[simp] theorem Done.advance_branch_opMode (s : State) (t : Word) : ((.branch s t : Done).advance).opMode = s.opMode := rfl
@[simp] theorem Done.advance_branch_debugger (s : State) (t : Word) : ((.branch s t : Done).advance).debugger = s.debugger := rfl
@[simp] theorem Done.advance_branch_holes (s : State) (t : Word) : ((.branch s t : Done).advance).holes = s.holes := rfl
@[simp] theorem Done.advance_branch_cur (s : State) (t : Word) : ((.branch s t : Done).advance).cur = s.cur := rfl
@[simp] theorem Done.advance_branch_inputs (s : State) (t : Word) : ((.branch s t : Done).advance).inputs = s.inputs := rfl
@[simp] theorem Done.advance_branch_accesses (s : State) (t : Word) : ((.branch s t : Done).advance).accesses = s.accesses := rfl
@[simp] theorem Done.advance_branch_fresh (s : State) (t : Word) : ((.branch s t : Done).advance).fresh = s.fresh := rfl

@[simp] theorem State.goto_pc (s : State) (a b : Word) (q : Bool) : (s.goto a b q).pc = a := rfl
@[simp] theorem State.goto_npc (s : State) (a b : Word) (q : Bool) : (s.goto a b q).npc = b := rfl
@[simp] theorem State.goto_hz (s : State) (a b : Word) (q : Bool) : (s.goto a b q).hz = Hazards.none := rfl
@[simp] theorem State.goto_hzNext (s : State) (a b : Word) (q : Bool) : (s.goto a b q).hzNext = Hazards.none := rfl
@[simp] theorem State.copyTrace_cps (s : State) : s.copyTrace.cps = s.tracedCps := rfl
@[simp] theorem State.switchStatus_cps (s : State) : s.switchStatus.cps = afterTrap s.cps := rfl
@[simp] theorem State.switchStatus_ops (s : State) : s.switchStatus.sr.ops = fieldOf s.cpsRead 0 16 := rfl
@[simp] theorem Done.advance_seq_pc (s : State) : (.seq s : Done).advance.pc = s.npc := rfl
@[simp] theorem Done.advance_seq_npc (s : State) : (.seq s : Done).advance.npc = s.npc + 4 := rfl
@[simp] theorem Done.advance_seq_cps (s : State) : (.seq s : Done).advance.cps = s.tracedCps := rfl
@[simp] theorem Done.advance_seq_lastpc (s : State) : (.seq s : Done).advance.lastpc = s.pc := rfl
@[simp] theorem Done.advance_status_pc (s : State) : (.status s : Done).advance.pc = s.npc := rfl
@[simp] theorem Done.advance_status_npc (s : State) : (.status s : Done).advance.npc = s.npc + 4 := rfl
@[simp] theorem Done.advance_status_cps (s : State) : (.status s : Done).advance.cps = s.movedCps := rfl
@[simp] theorem Done.advance_status_lastpc (s : State) : (.status s : Done).advance.lastpc = s.pc := rfl
@[simp] theorem Done.advance_branch_pc (s : State) (t : Word) : (.branch s t : Done).advance.pc = s.npc := rfl
@[simp] theorem Done.advance_branch_npc (s : State) (t : Word) : (.branch s t : Done).advance.npc = alignWord t := rfl
@[simp] theorem Done.advance_branch_cps (s : State) (t : Word) :
    (.branch s t : Done).advance.cps = s.tracedCps := rfl
@[simp] theorem Done.advance_branch_lastpc (s : State) (t : Word) : (.branch s t : Done).advance.lastpc = s.pc := rfl
@[simp] theorem Done.advance_returned_sr (s : State) : (.returned s : Done).advance.sr = s.sr := rfl
@[simp] theorem Done.advance_returned_cps (s : State) : (.returned s : Done).advance.cps = s.cps := rfl
@[simp] theorem Done.advance_returned_pc (s : State) : (.returned s : Done).advance.pc = s.pc := rfl
@[simp] theorem Done.advance_returned_npc (s : State) : (.returned s : Done).advance.npc = s.npc := rfl

end Sys2Proof.Machine
end

