-- ==== Sys2Proof/Laws/Fields.lean ====
section
/-! SUPPORT. The fields that the operations with a condition leave unchanged. -/

namespace Sys2Proof.Machine

@[simp] theorem State.putGR_pc (s : State) (c : WriteClass) (n : Byte) (v : Word) : (s.putGR c n v).pc = s.pc := by
  unfold State.putGR; split_ifs <;> rfl
@[simp] theorem State.putGR_npc (s : State) (c : WriteClass) (n : Byte) (v : Word) : (s.putGR c n v).npc = s.npc := by
  unfold State.putGR; split_ifs <;> rfl
@[simp] theorem State.putGR_lastpc (s : State) (c : WriteClass) (n : Byte) (v : Word) : (s.putGR c n v).lastpc = s.lastpc := by
  unfold State.putGR; split_ifs <;> rfl
@[simp] theorem State.putGR_lastpcKnown (s : State) (c : WriteClass) (n : Byte) (v : Word) : (s.putGR c n v).lastpcKnown = s.lastpcKnown := by
  unfold State.putGR; split_ifs <;> rfl
@[simp] theorem State.putGR_pcSeq (s : State) (c : WriteClass) (n : Byte) (v : Word) : (s.putGR c n v).pcSeq = s.pcSeq := by
  unfold State.putGR; split_ifs <;> rfl
@[simp] theorem State.putGR_npcSeq (s : State) (c : WriteClass) (n : Byte) (v : Word) : (s.putGR c n v).npcSeq = s.npcSeq := by
  unfold State.putGR; split_ifs <;> rfl
@[simp] theorem State.putGR_acc (s : State) (c : WriteClass) (n : Byte) (v : Word) : (s.putGR c n v).acc = s.acc := by
  unfold State.putGR; split_ifs <;> rfl
@[simp] theorem State.putGR_cps (s : State) (c : WriteClass) (n : Byte) (v : Word) : (s.putGR c n v).cps = s.cps := by
  unfold State.putGR; split_ifs <;> rfl
@[simp] theorem State.putGR_alu (s : State) (c : WriteClass) (n : Byte) (v : Word) : (s.putGR c n v).alu = s.alu := by
  unfold State.putGR; split_ifs <;> rfl
@[simp] theorem State.putGR_sr (s : State) (c : WriteClass) (n : Byte) (v : Word) : (s.putGR c n v).sr = s.sr := by
  unfold State.putGR; split_ifs <;> rfl
@[simp] theorem State.putGR_tlb (s : State) (c : WriteClass) (n : Byte) (v : Word) : (s.putGR c n v).tlb = s.tlb := by
  unfold State.putGR; split_ifs <;> rfl
@[simp] theorem State.putGR_tlbUsage (s : State) (c : WriteClass) (n : Byte) (v : Word) : (s.putGR c n v).tlbUsage = s.tlbUsage := by
  unfold State.putGR; split_ifs <;> rfl
@[simp] theorem State.putGR_idmem (s : State) (c : WriteClass) (n : Byte) (v : Word) : (s.putGR c n v).idmem = s.idmem := by
  unfold State.putGR; split_ifs <;> rfl
@[simp] theorem State.putGR_imem (s : State) (c : WriteClass) (n : Byte) (v : Word) : (s.putGR c n v).imem = s.imem := by
  unfold State.putGR; split_ifs <;> rfl
@[simp] theorem State.putGR_irom (s : State) (c : WriteClass) (n : Byte) (v : Word) : (s.putGR c n v).irom = s.irom := by
  unfold State.putGR; split_ifs <;> rfl
@[simp] theorem State.putGR_btc (s : State) (c : WriteClass) (n : Byte) (v : Word) : (s.putGR c n v).btc = s.btc := by
  unfold State.putGR; split_ifs <;> rfl
@[simp] theorem State.putGR_prefetched (s : State) (c : WriteClass) (n : Byte) (v : Word) : (s.putGR c n v).prefetched = s.prefetched := by
  unfold State.putGR; split_ifs <;> rfl
@[simp] theorem State.putGR_early (s : State) (c : WriteClass) (n : Byte) (v : Word) : (s.putGR c n v).early = s.early := by
  unfold State.putGR; split_ifs <;> rfl
@[simp] theorem State.putGR_oldFetch (s : State) (c : WriteClass) (n : Byte) (v : Word) : (s.putGR c n v).oldFetch = s.oldFetch := by
  unfold State.putGR; split_ifs <;> rfl
@[simp] theorem State.putGR_hz (s : State) (c : WriteClass) (n : Byte) (v : Word) : (s.putGR c n v).hz = s.hz := by
  unfold State.putGR; split_ifs <;> rfl
@[simp] theorem State.putGR_fzWindow (s : State) (c : WriteClass) (n : Byte) (v : Word) : (s.putGR c n v).fzWindow = s.fzWindow := by
  unfold State.putGR; split_ifs <;> rfl
@[simp] theorem State.putGR_derrEvent (s : State) (c : WriteClass) (n : Byte) (v : Word) : (s.putGR c n v).derrEvent = s.derrEvent := by
  unfold State.putGR; split_ifs <;> rfl
@[simp] theorem State.putGR_derrLeft (s : State) (c : WriteClass) (n : Byte) (v : Word) : (s.putGR c n v).derrLeft = s.derrLeft := by
  unfold State.putGR; split_ifs <;> rfl
@[simp] theorem State.putGR_derrLoad (s : State) (c : WriteClass) (n : Byte) (v : Word) : (s.putGR c n v).derrLoad = s.derrLoad := by
  unfold State.putGR; split_ifs <;> rfl
@[simp] theorem State.putGR_warnPending (s : State) (c : WriteClass) (n : Byte) (v : Word) : (s.putGR c n v).warnPending = s.warnPending := by
  unfold State.putGR; split_ifs <;> rfl
@[simp] theorem State.putGR_opMode (s : State) (c : WriteClass) (n : Byte) (v : Word) : (s.putGR c n v).opMode = s.opMode := by
  unfold State.putGR; split_ifs <;> rfl
@[simp] theorem State.putGR_debugger (s : State) (c : WriteClass) (n : Byte) (v : Word) : (s.putGR c n v).debugger = s.debugger := by
  unfold State.putGR; split_ifs <;> rfl
@[simp] theorem State.putGR_holes (s : State) (c : WriteClass) (n : Byte) (v : Word) : (s.putGR c n v).holes = s.holes := by
  unfold State.putGR; split_ifs <;> rfl
@[simp] theorem State.putGR_cur (s : State) (c : WriteClass) (n : Byte) (v : Word) : (s.putGR c n v).cur = s.cur := by
  unfold State.putGR; split_ifs <;> rfl
@[simp] theorem State.putGR_inputs (s : State) (c : WriteClass) (n : Byte) (v : Word) : (s.putGR c n v).inputs = s.inputs := by
  unfold State.putGR; split_ifs <;> rfl
@[simp] theorem State.putGR_accesses (s : State) (c : WriteClass) (n : Byte) (v : Word) : (s.putGR c n v).accesses = s.accesses := by
  unfold State.putGR; split_ifs <;> rfl
@[simp] theorem State.putGR_fresh (s : State) (c : WriteClass) (n : Byte) (v : Word) : (s.putGR c n v).fresh = s.fresh := by
  unfold State.putGR; split_ifs <;> rfl

@[simp] theorem State.setVNZC_pc (s : State) (x : Sum) (w : Word) : (s.setVNZC x w).pc = s.pc := by
  unfold State.setVNZC; split_ifs <;> rfl
@[simp] theorem State.setVNZC_npc (s : State) (x : Sum) (w : Word) : (s.setVNZC x w).npc = s.npc := by
  unfold State.setVNZC; split_ifs <;> rfl
@[simp] theorem State.setVNZC_lastpc (s : State) (x : Sum) (w : Word) : (s.setVNZC x w).lastpc = s.lastpc := by
  unfold State.setVNZC; split_ifs <;> rfl
@[simp] theorem State.setVNZC_lastpcKnown (s : State) (x : Sum) (w : Word) : (s.setVNZC x w).lastpcKnown = s.lastpcKnown := by
  unfold State.setVNZC; split_ifs <;> rfl
@[simp] theorem State.setVNZC_pcSeq (s : State) (x : Sum) (w : Word) : (s.setVNZC x w).pcSeq = s.pcSeq := by
  unfold State.setVNZC; split_ifs <;> rfl
@[simp] theorem State.setVNZC_npcSeq (s : State) (x : Sum) (w : Word) : (s.setVNZC x w).npcSeq = s.npcSeq := by
  unfold State.setVNZC; split_ifs <;> rfl
@[simp] theorem State.setVNZC_sp (s : State) (x : Sum) (w : Word) : (s.setVNZC x w).sp = s.sp := by
  unfold State.setVNZC; split_ifs <;> rfl
@[simp] theorem State.setVNZC_spShadow (s : State) (x : Sum) (w : Word) : (s.setVNZC x w).spShadow = s.spShadow := by
  unfold State.setVNZC; split_ifs <;> rfl
@[simp] theorem State.setVNZC_spValid (s : State) (x : Sum) (w : Word) : (s.setVNZC x w).spValid = s.spValid := by
  unfold State.setVNZC; split_ifs <;> rfl
@[simp] theorem State.setVNZC_cca (s : State) (x : Sum) (w : Word) : (s.setVNZC x w).cca = s.cca := by
  unfold State.setVNZC; split_ifs <;> rfl
@[simp] theorem State.setVNZC_globals (s : State) (x : Sum) (w : Word) : (s.setVNZC x w).globals = s.globals := by
  unfold State.setVNZC; split_ifs <;> rfl
@[simp] theorem State.setVNZC_locals (s : State) (x : Sum) (w : Word) : (s.setVNZC x w).locals = s.locals := by
  unfold State.setVNZC; split_ifs <;> rfl
@[simp] theorem State.setVNZC_acc (s : State) (x : Sum) (w : Word) : (s.setVNZC x w).acc = s.acc := by
  unfold State.setVNZC; split_ifs <;> rfl
@[simp] theorem State.setVNZC_cps (s : State) (x : Sum) (w : Word) : (s.setVNZC x w).cps = s.cps := by
  unfold State.setVNZC; split_ifs <;> rfl
@[simp] theorem State.setVNZC_sr (s : State) (x : Sum) (w : Word) : (s.setVNZC x w).sr = s.sr := by
  unfold State.setVNZC; split_ifs <;> rfl
@[simp] theorem State.setVNZC_tlb (s : State) (x : Sum) (w : Word) : (s.setVNZC x w).tlb = s.tlb := by
  unfold State.setVNZC; split_ifs <;> rfl
@[simp] theorem State.setVNZC_tlbUsage (s : State) (x : Sum) (w : Word) : (s.setVNZC x w).tlbUsage = s.tlbUsage := by
  unfold State.setVNZC; split_ifs <;> rfl
@[simp] theorem State.setVNZC_idmem (s : State) (x : Sum) (w : Word) : (s.setVNZC x w).idmem = s.idmem := by
  unfold State.setVNZC; split_ifs <;> rfl
@[simp] theorem State.setVNZC_imem (s : State) (x : Sum) (w : Word) : (s.setVNZC x w).imem = s.imem := by
  unfold State.setVNZC; split_ifs <;> rfl
@[simp] theorem State.setVNZC_irom (s : State) (x : Sum) (w : Word) : (s.setVNZC x w).irom = s.irom := by
  unfold State.setVNZC; split_ifs <;> rfl
@[simp] theorem State.setVNZC_btc (s : State) (x : Sum) (w : Word) : (s.setVNZC x w).btc = s.btc := by
  unfold State.setVNZC; split_ifs <;> rfl
@[simp] theorem State.setVNZC_prefetched (s : State) (x : Sum) (w : Word) : (s.setVNZC x w).prefetched = s.prefetched := by
  unfold State.setVNZC; split_ifs <;> rfl
@[simp] theorem State.setVNZC_early (s : State) (x : Sum) (w : Word) : (s.setVNZC x w).early = s.early := by
  unfold State.setVNZC; split_ifs <;> rfl
@[simp] theorem State.setVNZC_oldFetch (s : State) (x : Sum) (w : Word) : (s.setVNZC x w).oldFetch = s.oldFetch := by
  unfold State.setVNZC; split_ifs <;> rfl
@[simp] theorem State.setVNZC_hz (s : State) (x : Sum) (w : Word) : (s.setVNZC x w).hz = s.hz := by
  unfold State.setVNZC; split_ifs <;> rfl
@[simp] theorem State.setVNZC_hzNext (s : State) (x : Sum) (w : Word) : (s.setVNZC x w).hzNext = s.hzNext := by
  unfold State.setVNZC; split_ifs <;> rfl
@[simp] theorem State.setVNZC_fzWindow (s : State) (x : Sum) (w : Word) : (s.setVNZC x w).fzWindow = s.fzWindow := by
  unfold State.setVNZC; split_ifs <;> rfl
@[simp] theorem State.setVNZC_derrEvent (s : State) (x : Sum) (w : Word) : (s.setVNZC x w).derrEvent = s.derrEvent := by
  unfold State.setVNZC; split_ifs <;> rfl
@[simp] theorem State.setVNZC_derrLeft (s : State) (x : Sum) (w : Word) : (s.setVNZC x w).derrLeft = s.derrLeft := by
  unfold State.setVNZC; split_ifs <;> rfl
@[simp] theorem State.setVNZC_derrLoad (s : State) (x : Sum) (w : Word) : (s.setVNZC x w).derrLoad = s.derrLoad := by
  unfold State.setVNZC; split_ifs <;> rfl
@[simp] theorem State.setVNZC_warnPending (s : State) (x : Sum) (w : Word) : (s.setVNZC x w).warnPending = s.warnPending := by
  unfold State.setVNZC; split_ifs <;> rfl
@[simp] theorem State.setVNZC_opMode (s : State) (x : Sum) (w : Word) : (s.setVNZC x w).opMode = s.opMode := by
  unfold State.setVNZC; split_ifs <;> rfl
@[simp] theorem State.setVNZC_debugger (s : State) (x : Sum) (w : Word) : (s.setVNZC x w).debugger = s.debugger := by
  unfold State.setVNZC; split_ifs <;> rfl
@[simp] theorem State.setVNZC_holes (s : State) (x : Sum) (w : Word) : (s.setVNZC x w).holes = s.holes := by
  unfold State.setVNZC; split_ifs <;> rfl
@[simp] theorem State.setVNZC_cur (s : State) (x : Sum) (w : Word) : (s.setVNZC x w).cur = s.cur := by
  unfold State.setVNZC; split_ifs <;> rfl
@[simp] theorem State.setVNZC_inputs (s : State) (x : Sum) (w : Word) : (s.setVNZC x w).inputs = s.inputs := by
  unfold State.setVNZC; split_ifs <;> rfl
@[simp] theorem State.setVNZC_accesses (s : State) (x : Sum) (w : Word) : (s.setVNZC x w).accesses = s.accesses := by
  unfold State.setVNZC; split_ifs <;> rfl
@[simp] theorem State.setVNZC_fresh (s : State) (x : Sum) (w : Word) : (s.setVNZC x w).fresh = s.fresh := by
  unfold State.setVNZC; split_ifs <;> rfl

@[simp] theorem State.setNZ_pc (s : State) (r : Word) : (s.setNZ r).pc = s.pc := by
  unfold State.setNZ; split_ifs <;> rfl
@[simp] theorem State.setNZ_npc (s : State) (r : Word) : (s.setNZ r).npc = s.npc := by
  unfold State.setNZ; split_ifs <;> rfl
@[simp] theorem State.setNZ_lastpc (s : State) (r : Word) : (s.setNZ r).lastpc = s.lastpc := by
  unfold State.setNZ; split_ifs <;> rfl
@[simp] theorem State.setNZ_lastpcKnown (s : State) (r : Word) : (s.setNZ r).lastpcKnown = s.lastpcKnown := by
  unfold State.setNZ; split_ifs <;> rfl
@[simp] theorem State.setNZ_pcSeq (s : State) (r : Word) : (s.setNZ r).pcSeq = s.pcSeq := by
  unfold State.setNZ; split_ifs <;> rfl
@[simp] theorem State.setNZ_npcSeq (s : State) (r : Word) : (s.setNZ r).npcSeq = s.npcSeq := by
  unfold State.setNZ; split_ifs <;> rfl
@[simp] theorem State.setNZ_sp (s : State) (r : Word) : (s.setNZ r).sp = s.sp := by
  unfold State.setNZ; split_ifs <;> rfl
@[simp] theorem State.setNZ_spShadow (s : State) (r : Word) : (s.setNZ r).spShadow = s.spShadow := by
  unfold State.setNZ; split_ifs <;> rfl
@[simp] theorem State.setNZ_spValid (s : State) (r : Word) : (s.setNZ r).spValid = s.spValid := by
  unfold State.setNZ; split_ifs <;> rfl
@[simp] theorem State.setNZ_cca (s : State) (r : Word) : (s.setNZ r).cca = s.cca := by
  unfold State.setNZ; split_ifs <;> rfl
@[simp] theorem State.setNZ_globals (s : State) (r : Word) : (s.setNZ r).globals = s.globals := by
  unfold State.setNZ; split_ifs <;> rfl
@[simp] theorem State.setNZ_locals (s : State) (r : Word) : (s.setNZ r).locals = s.locals := by
  unfold State.setNZ; split_ifs <;> rfl
@[simp] theorem State.setNZ_acc (s : State) (r : Word) : (s.setNZ r).acc = s.acc := by
  unfold State.setNZ; split_ifs <;> rfl
@[simp] theorem State.setNZ_cps (s : State) (r : Word) : (s.setNZ r).cps = s.cps := by
  unfold State.setNZ; split_ifs <;> rfl
@[simp] theorem State.setNZ_sr (s : State) (r : Word) : (s.setNZ r).sr = s.sr := by
  unfold State.setNZ; split_ifs <;> rfl
@[simp] theorem State.setNZ_tlb (s : State) (r : Word) : (s.setNZ r).tlb = s.tlb := by
  unfold State.setNZ; split_ifs <;> rfl
@[simp] theorem State.setNZ_tlbUsage (s : State) (r : Word) : (s.setNZ r).tlbUsage = s.tlbUsage := by
  unfold State.setNZ; split_ifs <;> rfl
@[simp] theorem State.setNZ_idmem (s : State) (r : Word) : (s.setNZ r).idmem = s.idmem := by
  unfold State.setNZ; split_ifs <;> rfl
@[simp] theorem State.setNZ_imem (s : State) (r : Word) : (s.setNZ r).imem = s.imem := by
  unfold State.setNZ; split_ifs <;> rfl
@[simp] theorem State.setNZ_irom (s : State) (r : Word) : (s.setNZ r).irom = s.irom := by
  unfold State.setNZ; split_ifs <;> rfl
@[simp] theorem State.setNZ_btc (s : State) (r : Word) : (s.setNZ r).btc = s.btc := by
  unfold State.setNZ; split_ifs <;> rfl
@[simp] theorem State.setNZ_prefetched (s : State) (r : Word) : (s.setNZ r).prefetched = s.prefetched := by
  unfold State.setNZ; split_ifs <;> rfl
@[simp] theorem State.setNZ_early (s : State) (r : Word) : (s.setNZ r).early = s.early := by
  unfold State.setNZ; split_ifs <;> rfl
@[simp] theorem State.setNZ_oldFetch (s : State) (r : Word) : (s.setNZ r).oldFetch = s.oldFetch := by
  unfold State.setNZ; split_ifs <;> rfl
@[simp] theorem State.setNZ_hz (s : State) (r : Word) : (s.setNZ r).hz = s.hz := by
  unfold State.setNZ; split_ifs <;> rfl
@[simp] theorem State.setNZ_hzNext (s : State) (r : Word) : (s.setNZ r).hzNext = s.hzNext := by
  unfold State.setNZ; split_ifs <;> rfl
@[simp] theorem State.setNZ_fzWindow (s : State) (r : Word) : (s.setNZ r).fzWindow = s.fzWindow := by
  unfold State.setNZ; split_ifs <;> rfl
@[simp] theorem State.setNZ_derrEvent (s : State) (r : Word) : (s.setNZ r).derrEvent = s.derrEvent := by
  unfold State.setNZ; split_ifs <;> rfl
@[simp] theorem State.setNZ_derrLeft (s : State) (r : Word) : (s.setNZ r).derrLeft = s.derrLeft := by
  unfold State.setNZ; split_ifs <;> rfl
@[simp] theorem State.setNZ_derrLoad (s : State) (r : Word) : (s.setNZ r).derrLoad = s.derrLoad := by
  unfold State.setNZ; split_ifs <;> rfl
@[simp] theorem State.setNZ_warnPending (s : State) (r : Word) : (s.setNZ r).warnPending = s.warnPending := by
  unfold State.setNZ; split_ifs <;> rfl
@[simp] theorem State.setNZ_opMode (s : State) (r : Word) : (s.setNZ r).opMode = s.opMode := by
  unfold State.setNZ; split_ifs <;> rfl
@[simp] theorem State.setNZ_debugger (s : State) (r : Word) : (s.setNZ r).debugger = s.debugger := by
  unfold State.setNZ; split_ifs <;> rfl
@[simp] theorem State.setNZ_holes (s : State) (r : Word) : (s.setNZ r).holes = s.holes := by
  unfold State.setNZ; split_ifs <;> rfl
@[simp] theorem State.setNZ_cur (s : State) (r : Word) : (s.setNZ r).cur = s.cur := by
  unfold State.setNZ; split_ifs <;> rfl
@[simp] theorem State.setNZ_inputs (s : State) (r : Word) : (s.setNZ r).inputs = s.inputs := by
  unfold State.setNZ; split_ifs <;> rfl
@[simp] theorem State.setNZ_accesses (s : State) (r : Word) : (s.setNZ r).accesses = s.accesses := by
  unfold State.setNZ; split_ifs <;> rfl
@[simp] theorem State.setNZ_fresh (s : State) (r : Word) : (s.setNZ r).fresh = s.fresh := by
  unfold State.setNZ; split_ifs <;> rfl

@[simp] theorem State.setDF_pc (s : State) (b : Bool) : (s.setDF b).pc = s.pc := by
  unfold State.setDF; split_ifs <;> rfl
@[simp] theorem State.setDF_npc (s : State) (b : Bool) : (s.setDF b).npc = s.npc := by
  unfold State.setDF; split_ifs <;> rfl
@[simp] theorem State.setDF_lastpc (s : State) (b : Bool) : (s.setDF b).lastpc = s.lastpc := by
  unfold State.setDF; split_ifs <;> rfl
@[simp] theorem State.setDF_lastpcKnown (s : State) (b : Bool) : (s.setDF b).lastpcKnown = s.lastpcKnown := by
  unfold State.setDF; split_ifs <;> rfl
@[simp] theorem State.setDF_pcSeq (s : State) (b : Bool) : (s.setDF b).pcSeq = s.pcSeq := by
  unfold State.setDF; split_ifs <;> rfl
@[simp] theorem State.setDF_npcSeq (s : State) (b : Bool) : (s.setDF b).npcSeq = s.npcSeq := by
  unfold State.setDF; split_ifs <;> rfl
@[simp] theorem State.setDF_sp (s : State) (b : Bool) : (s.setDF b).sp = s.sp := by
  unfold State.setDF; split_ifs <;> rfl
@[simp] theorem State.setDF_spShadow (s : State) (b : Bool) : (s.setDF b).spShadow = s.spShadow := by
  unfold State.setDF; split_ifs <;> rfl
@[simp] theorem State.setDF_spValid (s : State) (b : Bool) : (s.setDF b).spValid = s.spValid := by
  unfold State.setDF; split_ifs <;> rfl
@[simp] theorem State.setDF_cca (s : State) (b : Bool) : (s.setDF b).cca = s.cca := by
  unfold State.setDF; split_ifs <;> rfl
@[simp] theorem State.setDF_globals (s : State) (b : Bool) : (s.setDF b).globals = s.globals := by
  unfold State.setDF; split_ifs <;> rfl
@[simp] theorem State.setDF_locals (s : State) (b : Bool) : (s.setDF b).locals = s.locals := by
  unfold State.setDF; split_ifs <;> rfl
@[simp] theorem State.setDF_acc (s : State) (b : Bool) : (s.setDF b).acc = s.acc := by
  unfold State.setDF; split_ifs <;> rfl
@[simp] theorem State.setDF_cps (s : State) (b : Bool) : (s.setDF b).cps = s.cps := by
  unfold State.setDF; split_ifs <;> rfl
@[simp] theorem State.setDF_sr (s : State) (b : Bool) : (s.setDF b).sr = s.sr := by
  unfold State.setDF; split_ifs <;> rfl
@[simp] theorem State.setDF_tlb (s : State) (b : Bool) : (s.setDF b).tlb = s.tlb := by
  unfold State.setDF; split_ifs <;> rfl
@[simp] theorem State.setDF_tlbUsage (s : State) (b : Bool) : (s.setDF b).tlbUsage = s.tlbUsage := by
  unfold State.setDF; split_ifs <;> rfl
@[simp] theorem State.setDF_idmem (s : State) (b : Bool) : (s.setDF b).idmem = s.idmem := by
  unfold State.setDF; split_ifs <;> rfl
@[simp] theorem State.setDF_imem (s : State) (b : Bool) : (s.setDF b).imem = s.imem := by
  unfold State.setDF; split_ifs <;> rfl
@[simp] theorem State.setDF_irom (s : State) (b : Bool) : (s.setDF b).irom = s.irom := by
  unfold State.setDF; split_ifs <;> rfl
@[simp] theorem State.setDF_btc (s : State) (b : Bool) : (s.setDF b).btc = s.btc := by
  unfold State.setDF; split_ifs <;> rfl
@[simp] theorem State.setDF_prefetched (s : State) (b : Bool) : (s.setDF b).prefetched = s.prefetched := by
  unfold State.setDF; split_ifs <;> rfl
@[simp] theorem State.setDF_early (s : State) (b : Bool) : (s.setDF b).early = s.early := by
  unfold State.setDF; split_ifs <;> rfl
@[simp] theorem State.setDF_oldFetch (s : State) (b : Bool) : (s.setDF b).oldFetch = s.oldFetch := by
  unfold State.setDF; split_ifs <;> rfl
@[simp] theorem State.setDF_hz (s : State) (b : Bool) : (s.setDF b).hz = s.hz := by
  unfold State.setDF; split_ifs <;> rfl
@[simp] theorem State.setDF_hzNext (s : State) (b : Bool) : (s.setDF b).hzNext = s.hzNext := by
  unfold State.setDF; split_ifs <;> rfl
@[simp] theorem State.setDF_fzWindow (s : State) (b : Bool) : (s.setDF b).fzWindow = s.fzWindow := by
  unfold State.setDF; split_ifs <;> rfl
@[simp] theorem State.setDF_derrEvent (s : State) (b : Bool) : (s.setDF b).derrEvent = s.derrEvent := by
  unfold State.setDF; split_ifs <;> rfl
@[simp] theorem State.setDF_derrLeft (s : State) (b : Bool) : (s.setDF b).derrLeft = s.derrLeft := by
  unfold State.setDF; split_ifs <;> rfl
@[simp] theorem State.setDF_derrLoad (s : State) (b : Bool) : (s.setDF b).derrLoad = s.derrLoad := by
  unfold State.setDF; split_ifs <;> rfl
@[simp] theorem State.setDF_warnPending (s : State) (b : Bool) : (s.setDF b).warnPending = s.warnPending := by
  unfold State.setDF; split_ifs <;> rfl
@[simp] theorem State.setDF_opMode (s : State) (b : Bool) : (s.setDF b).opMode = s.opMode := by
  unfold State.setDF; split_ifs <;> rfl
@[simp] theorem State.setDF_debugger (s : State) (b : Bool) : (s.setDF b).debugger = s.debugger := by
  unfold State.setDF; split_ifs <;> rfl
@[simp] theorem State.setDF_holes (s : State) (b : Bool) : (s.setDF b).holes = s.holes := by
  unfold State.setDF; split_ifs <;> rfl
@[simp] theorem State.setDF_cur (s : State) (b : Bool) : (s.setDF b).cur = s.cur := by
  unfold State.setDF; split_ifs <;> rfl
@[simp] theorem State.setDF_inputs (s : State) (b : Bool) : (s.setDF b).inputs = s.inputs := by
  unfold State.setDF; split_ifs <;> rfl
@[simp] theorem State.setDF_accesses (s : State) (b : Bool) : (s.setDF b).accesses = s.accesses := by
  unfold State.setDF; split_ifs <;> rfl
@[simp] theorem State.setDF_fresh (s : State) (b : Bool) : (s.setDF b).fresh = s.fresh := by
  unfold State.setDF; split_ifs <;> rfl

@[simp] theorem State.startChannel_pc (s : State) (x : Xfer) (m : Bool) : (s.startChannel x m).pc = s.pc := by
  unfold State.startChannel; split_ifs <;> rfl
@[simp] theorem State.startChannel_npc (s : State) (x : Xfer) (m : Bool) : (s.startChannel x m).npc = s.npc := by
  unfold State.startChannel; split_ifs <;> rfl
@[simp] theorem State.startChannel_lastpc (s : State) (x : Xfer) (m : Bool) : (s.startChannel x m).lastpc = s.lastpc := by
  unfold State.startChannel; split_ifs <;> rfl
@[simp] theorem State.startChannel_lastpcKnown (s : State) (x : Xfer) (m : Bool) : (s.startChannel x m).lastpcKnown = s.lastpcKnown := by
  unfold State.startChannel; split_ifs <;> rfl
@[simp] theorem State.startChannel_pcSeq (s : State) (x : Xfer) (m : Bool) : (s.startChannel x m).pcSeq = s.pcSeq := by
  unfold State.startChannel; split_ifs <;> rfl
@[simp] theorem State.startChannel_npcSeq (s : State) (x : Xfer) (m : Bool) : (s.startChannel x m).npcSeq = s.npcSeq := by
  unfold State.startChannel; split_ifs <;> rfl
@[simp] theorem State.startChannel_sp (s : State) (x : Xfer) (m : Bool) : (s.startChannel x m).sp = s.sp := by
  unfold State.startChannel; split_ifs <;> rfl
@[simp] theorem State.startChannel_spShadow (s : State) (x : Xfer) (m : Bool) : (s.startChannel x m).spShadow = s.spShadow := by
  unfold State.startChannel; split_ifs <;> rfl
@[simp] theorem State.startChannel_spValid (s : State) (x : Xfer) (m : Bool) : (s.startChannel x m).spValid = s.spValid := by
  unfold State.startChannel; split_ifs <;> rfl
@[simp] theorem State.startChannel_cca (s : State) (x : Xfer) (m : Bool) : (s.startChannel x m).cca = s.cca := by
  unfold State.startChannel; split_ifs <;> rfl
@[simp] theorem State.startChannel_globals (s : State) (x : Xfer) (m : Bool) : (s.startChannel x m).globals = s.globals := by
  unfold State.startChannel; split_ifs <;> rfl
@[simp] theorem State.startChannel_locals (s : State) (x : Xfer) (m : Bool) : (s.startChannel x m).locals = s.locals := by
  unfold State.startChannel; split_ifs <;> rfl
@[simp] theorem State.startChannel_acc (s : State) (x : Xfer) (m : Bool) : (s.startChannel x m).acc = s.acc := by
  unfold State.startChannel; split_ifs <;> rfl
@[simp] theorem State.startChannel_cps (s : State) (x : Xfer) (m : Bool) : (s.startChannel x m).cps = s.cps := by
  unfold State.startChannel; split_ifs <;> rfl
@[simp] theorem State.startChannel_alu (s : State) (x : Xfer) (m : Bool) : (s.startChannel x m).alu = s.alu := by
  unfold State.startChannel; split_ifs <;> rfl
@[simp] theorem State.startChannel_tlb (s : State) (x : Xfer) (m : Bool) : (s.startChannel x m).tlb = s.tlb := by
  unfold State.startChannel; split_ifs <;> rfl
@[simp] theorem State.startChannel_tlbUsage (s : State) (x : Xfer) (m : Bool) : (s.startChannel x m).tlbUsage = s.tlbUsage := by
  unfold State.startChannel; split_ifs <;> rfl
@[simp] theorem State.startChannel_idmem (s : State) (x : Xfer) (m : Bool) : (s.startChannel x m).idmem = s.idmem := by
  unfold State.startChannel; split_ifs <;> rfl
@[simp] theorem State.startChannel_imem (s : State) (x : Xfer) (m : Bool) : (s.startChannel x m).imem = s.imem := by
  unfold State.startChannel; split_ifs <;> rfl
@[simp] theorem State.startChannel_irom (s : State) (x : Xfer) (m : Bool) : (s.startChannel x m).irom = s.irom := by
  unfold State.startChannel; split_ifs <;> rfl
@[simp] theorem State.startChannel_btc (s : State) (x : Xfer) (m : Bool) : (s.startChannel x m).btc = s.btc := by
  unfold State.startChannel; split_ifs <;> rfl
@[simp] theorem State.startChannel_prefetched (s : State) (x : Xfer) (m : Bool) : (s.startChannel x m).prefetched = s.prefetched := by
  unfold State.startChannel; split_ifs <;> rfl
@[simp] theorem State.startChannel_early (s : State) (x : Xfer) (m : Bool) : (s.startChannel x m).early = s.early := by
  unfold State.startChannel; split_ifs <;> rfl
@[simp] theorem State.startChannel_oldFetch (s : State) (x : Xfer) (m : Bool) : (s.startChannel x m).oldFetch = s.oldFetch := by
  unfold State.startChannel; split_ifs <;> rfl
@[simp] theorem State.startChannel_hz (s : State) (x : Xfer) (m : Bool) : (s.startChannel x m).hz = s.hz := by
  unfold State.startChannel; split_ifs <;> rfl
@[simp] theorem State.startChannel_hzNext (s : State) (x : Xfer) (m : Bool) : (s.startChannel x m).hzNext = s.hzNext := by
  unfold State.startChannel; split_ifs <;> rfl
@[simp] theorem State.startChannel_fzWindow (s : State) (x : Xfer) (m : Bool) : (s.startChannel x m).fzWindow = s.fzWindow := by
  unfold State.startChannel; split_ifs <;> rfl
@[simp] theorem State.startChannel_derrEvent (s : State) (x : Xfer) (m : Bool) : (s.startChannel x m).derrEvent = s.derrEvent := by
  unfold State.startChannel; split_ifs <;> rfl
@[simp] theorem State.startChannel_derrLeft (s : State) (x : Xfer) (m : Bool) : (s.startChannel x m).derrLeft = s.derrLeft := by
  unfold State.startChannel; split_ifs <;> rfl
@[simp] theorem State.startChannel_derrLoad (s : State) (x : Xfer) (m : Bool) : (s.startChannel x m).derrLoad = s.derrLoad := by
  unfold State.startChannel; split_ifs <;> rfl
@[simp] theorem State.startChannel_warnPending (s : State) (x : Xfer) (m : Bool) : (s.startChannel x m).warnPending = s.warnPending := by
  unfold State.startChannel; split_ifs <;> rfl
@[simp] theorem State.startChannel_opMode (s : State) (x : Xfer) (m : Bool) : (s.startChannel x m).opMode = s.opMode := by
  unfold State.startChannel; split_ifs <;> rfl
@[simp] theorem State.startChannel_debugger (s : State) (x : Xfer) (m : Bool) : (s.startChannel x m).debugger = s.debugger := by
  unfold State.startChannel; split_ifs <;> rfl
@[simp] theorem State.startChannel_holes (s : State) (x : Xfer) (m : Bool) : (s.startChannel x m).holes = s.holes := by
  unfold State.startChannel; split_ifs <;> rfl
@[simp] theorem State.startChannel_cur (s : State) (x : Xfer) (m : Bool) : (s.startChannel x m).cur = s.cur := by
  unfold State.startChannel; split_ifs <;> rfl
@[simp] theorem State.startChannel_inputs (s : State) (x : Xfer) (m : Bool) : (s.startChannel x m).inputs = s.inputs := by
  unfold State.startChannel; split_ifs <;> rfl
@[simp] theorem State.startChannel_accesses (s : State) (x : Xfer) (m : Bool) : (s.startChannel x m).accesses = s.accesses := by
  unfold State.startChannel; split_ifs <;> rfl

@[simp] theorem State.endChannel_pc (s : State) : (s.endChannel).pc = s.pc := by
  unfold State.endChannel; split_ifs <;> rfl
@[simp] theorem State.endChannel_npc (s : State) : (s.endChannel).npc = s.npc := by
  unfold State.endChannel; split_ifs <;> rfl
@[simp] theorem State.endChannel_lastpc (s : State) : (s.endChannel).lastpc = s.lastpc := by
  unfold State.endChannel; split_ifs <;> rfl
@[simp] theorem State.endChannel_lastpcKnown (s : State) : (s.endChannel).lastpcKnown = s.lastpcKnown := by
  unfold State.endChannel; split_ifs <;> rfl
@[simp] theorem State.endChannel_pcSeq (s : State) : (s.endChannel).pcSeq = s.pcSeq := by
  unfold State.endChannel; split_ifs <;> rfl
@[simp] theorem State.endChannel_npcSeq (s : State) : (s.endChannel).npcSeq = s.npcSeq := by
  unfold State.endChannel; split_ifs <;> rfl
@[simp] theorem State.endChannel_sp (s : State) : (s.endChannel).sp = s.sp := by
  unfold State.endChannel; split_ifs <;> rfl
@[simp] theorem State.endChannel_spShadow (s : State) : (s.endChannel).spShadow = s.spShadow := by
  unfold State.endChannel; split_ifs <;> rfl
@[simp] theorem State.endChannel_spValid (s : State) : (s.endChannel).spValid = s.spValid := by
  unfold State.endChannel; split_ifs <;> rfl
@[simp] theorem State.endChannel_cca (s : State) : (s.endChannel).cca = s.cca := by
  unfold State.endChannel; split_ifs <;> rfl
@[simp] theorem State.endChannel_globals (s : State) : (s.endChannel).globals = s.globals := by
  unfold State.endChannel; split_ifs <;> rfl
@[simp] theorem State.endChannel_locals (s : State) : (s.endChannel).locals = s.locals := by
  unfold State.endChannel; split_ifs <;> rfl
@[simp] theorem State.endChannel_acc (s : State) : (s.endChannel).acc = s.acc := by
  unfold State.endChannel; split_ifs <;> rfl
@[simp] theorem State.endChannel_cps (s : State) : (s.endChannel).cps = s.cps := by
  unfold State.endChannel; split_ifs <;> rfl
@[simp] theorem State.endChannel_alu (s : State) : (s.endChannel).alu = s.alu := by
  unfold State.endChannel; split_ifs <;> rfl
@[simp] theorem State.endChannel_tlb (s : State) : (s.endChannel).tlb = s.tlb := by
  unfold State.endChannel; split_ifs <;> rfl
@[simp] theorem State.endChannel_tlbUsage (s : State) : (s.endChannel).tlbUsage = s.tlbUsage := by
  unfold State.endChannel; split_ifs <;> rfl
@[simp] theorem State.endChannel_idmem (s : State) : (s.endChannel).idmem = s.idmem := by
  unfold State.endChannel; split_ifs <;> rfl
@[simp] theorem State.endChannel_imem (s : State) : (s.endChannel).imem = s.imem := by
  unfold State.endChannel; split_ifs <;> rfl
@[simp] theorem State.endChannel_irom (s : State) : (s.endChannel).irom = s.irom := by
  unfold State.endChannel; split_ifs <;> rfl
@[simp] theorem State.endChannel_btc (s : State) : (s.endChannel).btc = s.btc := by
  unfold State.endChannel; split_ifs <;> rfl
@[simp] theorem State.endChannel_prefetched (s : State) : (s.endChannel).prefetched = s.prefetched := by
  unfold State.endChannel; split_ifs <;> rfl
@[simp] theorem State.endChannel_early (s : State) : (s.endChannel).early = s.early := by
  unfold State.endChannel; split_ifs <;> rfl
@[simp] theorem State.endChannel_oldFetch (s : State) : (s.endChannel).oldFetch = s.oldFetch := by
  unfold State.endChannel; split_ifs <;> rfl
@[simp] theorem State.endChannel_hz (s : State) : (s.endChannel).hz = s.hz := by
  unfold State.endChannel; split_ifs <;> rfl
@[simp] theorem State.endChannel_hzNext (s : State) : (s.endChannel).hzNext = s.hzNext := by
  unfold State.endChannel; split_ifs <;> rfl
@[simp] theorem State.endChannel_fzWindow (s : State) : (s.endChannel).fzWindow = s.fzWindow := by
  unfold State.endChannel; split_ifs <;> rfl
@[simp] theorem State.endChannel_derrEvent (s : State) : (s.endChannel).derrEvent = s.derrEvent := by
  unfold State.endChannel; split_ifs <;> rfl
@[simp] theorem State.endChannel_derrLeft (s : State) : (s.endChannel).derrLeft = s.derrLeft := by
  unfold State.endChannel; split_ifs <;> rfl
@[simp] theorem State.endChannel_derrLoad (s : State) : (s.endChannel).derrLoad = s.derrLoad := by
  unfold State.endChannel; split_ifs <;> rfl
@[simp] theorem State.endChannel_warnPending (s : State) : (s.endChannel).warnPending = s.warnPending := by
  unfold State.endChannel; split_ifs <;> rfl
@[simp] theorem State.endChannel_opMode (s : State) : (s.endChannel).opMode = s.opMode := by
  unfold State.endChannel; split_ifs <;> rfl
@[simp] theorem State.endChannel_debugger (s : State) : (s.endChannel).debugger = s.debugger := by
  unfold State.endChannel; split_ifs <;> rfl
@[simp] theorem State.endChannel_holes (s : State) : (s.endChannel).holes = s.holes := by
  unfold State.endChannel; split_ifs <;> rfl
@[simp] theorem State.endChannel_cur (s : State) : (s.endChannel).cur = s.cur := by
  unfold State.endChannel; split_ifs <;> rfl
@[simp] theorem State.endChannel_inputs (s : State) : (s.endChannel).inputs = s.inputs := by
  unfold State.endChannel; split_ifs <;> rfl
@[simp] theorem State.endChannel_accesses (s : State) : (s.endChannel).accesses = s.accesses := by
  unfold State.endChannel; split_ifs <;> rfl
@[simp] theorem State.endChannel_fresh (s : State) : (s.endChannel).fresh = s.fresh := by
  unfold State.endChannel; split_ifs <;> rfl

@[simp] theorem State.setBytePointer_pc (s : State) (c : Byte) (a : Word) : (s.setBytePointer c a).pc = s.pc := by
  unfold State.setBytePointer; split_ifs <;> rfl
@[simp] theorem State.setBytePointer_npc (s : State) (c : Byte) (a : Word) : (s.setBytePointer c a).npc = s.npc := by
  unfold State.setBytePointer; split_ifs <;> rfl
@[simp] theorem State.setBytePointer_lastpc (s : State) (c : Byte) (a : Word) : (s.setBytePointer c a).lastpc = s.lastpc := by
  unfold State.setBytePointer; split_ifs <;> rfl
@[simp] theorem State.setBytePointer_lastpcKnown (s : State) (c : Byte) (a : Word) : (s.setBytePointer c a).lastpcKnown = s.lastpcKnown := by
  unfold State.setBytePointer; split_ifs <;> rfl
@[simp] theorem State.setBytePointer_pcSeq (s : State) (c : Byte) (a : Word) : (s.setBytePointer c a).pcSeq = s.pcSeq := by
  unfold State.setBytePointer; split_ifs <;> rfl
@[simp] theorem State.setBytePointer_npcSeq (s : State) (c : Byte) (a : Word) : (s.setBytePointer c a).npcSeq = s.npcSeq := by
  unfold State.setBytePointer; split_ifs <;> rfl
@[simp] theorem State.setBytePointer_sp (s : State) (c : Byte) (a : Word) : (s.setBytePointer c a).sp = s.sp := by
  unfold State.setBytePointer; split_ifs <;> rfl
@[simp] theorem State.setBytePointer_spShadow (s : State) (c : Byte) (a : Word) : (s.setBytePointer c a).spShadow = s.spShadow := by
  unfold State.setBytePointer; split_ifs <;> rfl
@[simp] theorem State.setBytePointer_spValid (s : State) (c : Byte) (a : Word) : (s.setBytePointer c a).spValid = s.spValid := by
  unfold State.setBytePointer; split_ifs <;> rfl
@[simp] theorem State.setBytePointer_cca (s : State) (c : Byte) (a : Word) : (s.setBytePointer c a).cca = s.cca := by
  unfold State.setBytePointer; split_ifs <;> rfl
@[simp] theorem State.setBytePointer_globals (s : State) (c : Byte) (a : Word) : (s.setBytePointer c a).globals = s.globals := by
  unfold State.setBytePointer; split_ifs <;> rfl
@[simp] theorem State.setBytePointer_locals (s : State) (c : Byte) (a : Word) : (s.setBytePointer c a).locals = s.locals := by
  unfold State.setBytePointer; split_ifs <;> rfl
@[simp] theorem State.setBytePointer_acc (s : State) (c : Byte) (a : Word) : (s.setBytePointer c a).acc = s.acc := by
  unfold State.setBytePointer; split_ifs <;> rfl
@[simp] theorem State.setBytePointer_cps (s : State) (c : Byte) (a : Word) : (s.setBytePointer c a).cps = s.cps := by
  unfold State.setBytePointer; split_ifs <;> rfl
@[simp] theorem State.setBytePointer_sr (s : State) (c : Byte) (a : Word) : (s.setBytePointer c a).sr = s.sr := by
  unfold State.setBytePointer; split_ifs <;> rfl
@[simp] theorem State.setBytePointer_tlb (s : State) (c : Byte) (a : Word) : (s.setBytePointer c a).tlb = s.tlb := by
  unfold State.setBytePointer; split_ifs <;> rfl
@[simp] theorem State.setBytePointer_tlbUsage (s : State) (c : Byte) (a : Word) : (s.setBytePointer c a).tlbUsage = s.tlbUsage := by
  unfold State.setBytePointer; split_ifs <;> rfl
@[simp] theorem State.setBytePointer_idmem (s : State) (c : Byte) (a : Word) : (s.setBytePointer c a).idmem = s.idmem := by
  unfold State.setBytePointer; split_ifs <;> rfl
@[simp] theorem State.setBytePointer_imem (s : State) (c : Byte) (a : Word) : (s.setBytePointer c a).imem = s.imem := by
  unfold State.setBytePointer; split_ifs <;> rfl
@[simp] theorem State.setBytePointer_irom (s : State) (c : Byte) (a : Word) : (s.setBytePointer c a).irom = s.irom := by
  unfold State.setBytePointer; split_ifs <;> rfl
@[simp] theorem State.setBytePointer_btc (s : State) (c : Byte) (a : Word) : (s.setBytePointer c a).btc = s.btc := by
  unfold State.setBytePointer; split_ifs <;> rfl
@[simp] theorem State.setBytePointer_prefetched (s : State) (c : Byte) (a : Word) : (s.setBytePointer c a).prefetched = s.prefetched := by
  unfold State.setBytePointer; split_ifs <;> rfl
@[simp] theorem State.setBytePointer_early (s : State) (c : Byte) (a : Word) : (s.setBytePointer c a).early = s.early := by
  unfold State.setBytePointer; split_ifs <;> rfl
@[simp] theorem State.setBytePointer_oldFetch (s : State) (c : Byte) (a : Word) : (s.setBytePointer c a).oldFetch = s.oldFetch := by
  unfold State.setBytePointer; split_ifs <;> rfl
@[simp] theorem State.setBytePointer_hz (s : State) (c : Byte) (a : Word) : (s.setBytePointer c a).hz = s.hz := by
  unfold State.setBytePointer; split_ifs <;> rfl
@[simp] theorem State.setBytePointer_hzNext (s : State) (c : Byte) (a : Word) : (s.setBytePointer c a).hzNext = s.hzNext := by
  unfold State.setBytePointer; split_ifs <;> rfl
@[simp] theorem State.setBytePointer_fzWindow (s : State) (c : Byte) (a : Word) : (s.setBytePointer c a).fzWindow = s.fzWindow := by
  unfold State.setBytePointer; split_ifs <;> rfl
@[simp] theorem State.setBytePointer_derrEvent (s : State) (c : Byte) (a : Word) : (s.setBytePointer c a).derrEvent = s.derrEvent := by
  unfold State.setBytePointer; split_ifs <;> rfl
@[simp] theorem State.setBytePointer_derrLeft (s : State) (c : Byte) (a : Word) : (s.setBytePointer c a).derrLeft = s.derrLeft := by
  unfold State.setBytePointer; split_ifs <;> rfl
@[simp] theorem State.setBytePointer_derrLoad (s : State) (c : Byte) (a : Word) : (s.setBytePointer c a).derrLoad = s.derrLoad := by
  unfold State.setBytePointer; split_ifs <;> rfl
@[simp] theorem State.setBytePointer_warnPending (s : State) (c : Byte) (a : Word) : (s.setBytePointer c a).warnPending = s.warnPending := by
  unfold State.setBytePointer; split_ifs <;> rfl
@[simp] theorem State.setBytePointer_opMode (s : State) (c : Byte) (a : Word) : (s.setBytePointer c a).opMode = s.opMode := by
  unfold State.setBytePointer; split_ifs <;> rfl
@[simp] theorem State.setBytePointer_debugger (s : State) (c : Byte) (a : Word) : (s.setBytePointer c a).debugger = s.debugger := by
  unfold State.setBytePointer; split_ifs <;> rfl
@[simp] theorem State.setBytePointer_holes (s : State) (c : Byte) (a : Word) : (s.setBytePointer c a).holes = s.holes := by
  unfold State.setBytePointer; split_ifs <;> rfl
@[simp] theorem State.setBytePointer_cur (s : State) (c : Byte) (a : Word) : (s.setBytePointer c a).cur = s.cur := by
  unfold State.setBytePointer; split_ifs <;> rfl
@[simp] theorem State.setBytePointer_inputs (s : State) (c : Byte) (a : Word) : (s.setBytePointer c a).inputs = s.inputs := by
  unfold State.setBytePointer; split_ifs <;> rfl
@[simp] theorem State.setBytePointer_accesses (s : State) (c : Byte) (a : Word) : (s.setBytePointer c a).accesses = s.accesses := by
  unfold State.setBytePointer; split_ifs <;> rfl
@[simp] theorem State.setBytePointer_fresh (s : State) (c : Byte) (a : Word) : (s.setBytePointer c a).fresh = s.fresh := by
  unfold State.setBytePointer; split_ifs <;> rfl

@[simp] theorem State.setCoprocessorActive_pc (s : State) (c : Byte) (l : Bool) : (s.setCoprocessorActive c l).pc = s.pc := by
  unfold State.setCoprocessorActive; split_ifs <;> rfl
@[simp] theorem State.setCoprocessorActive_npc (s : State) (c : Byte) (l : Bool) : (s.setCoprocessorActive c l).npc = s.npc := by
  unfold State.setCoprocessorActive; split_ifs <;> rfl
@[simp] theorem State.setCoprocessorActive_lastpc (s : State) (c : Byte) (l : Bool) : (s.setCoprocessorActive c l).lastpc = s.lastpc := by
  unfold State.setCoprocessorActive; split_ifs <;> rfl
@[simp] theorem State.setCoprocessorActive_lastpcKnown (s : State) (c : Byte) (l : Bool) : (s.setCoprocessorActive c l).lastpcKnown = s.lastpcKnown := by
  unfold State.setCoprocessorActive; split_ifs <;> rfl
@[simp] theorem State.setCoprocessorActive_pcSeq (s : State) (c : Byte) (l : Bool) : (s.setCoprocessorActive c l).pcSeq = s.pcSeq := by
  unfold State.setCoprocessorActive; split_ifs <;> rfl
@[simp] theorem State.setCoprocessorActive_npcSeq (s : State) (c : Byte) (l : Bool) : (s.setCoprocessorActive c l).npcSeq = s.npcSeq := by
  unfold State.setCoprocessorActive; split_ifs <;> rfl
@[simp] theorem State.setCoprocessorActive_sp (s : State) (c : Byte) (l : Bool) : (s.setCoprocessorActive c l).sp = s.sp := by
  unfold State.setCoprocessorActive; split_ifs <;> rfl
@[simp] theorem State.setCoprocessorActive_spShadow (s : State) (c : Byte) (l : Bool) : (s.setCoprocessorActive c l).spShadow = s.spShadow := by
  unfold State.setCoprocessorActive; split_ifs <;> rfl
@[simp] theorem State.setCoprocessorActive_spValid (s : State) (c : Byte) (l : Bool) : (s.setCoprocessorActive c l).spValid = s.spValid := by
  unfold State.setCoprocessorActive; split_ifs <;> rfl
@[simp] theorem State.setCoprocessorActive_cca (s : State) (c : Byte) (l : Bool) : (s.setCoprocessorActive c l).cca = s.cca := by
  unfold State.setCoprocessorActive; split_ifs <;> rfl
@[simp] theorem State.setCoprocessorActive_globals (s : State) (c : Byte) (l : Bool) : (s.setCoprocessorActive c l).globals = s.globals := by
  unfold State.setCoprocessorActive; split_ifs <;> rfl
@[simp] theorem State.setCoprocessorActive_locals (s : State) (c : Byte) (l : Bool) : (s.setCoprocessorActive c l).locals = s.locals := by
  unfold State.setCoprocessorActive; split_ifs <;> rfl
@[simp] theorem State.setCoprocessorActive_acc (s : State) (c : Byte) (l : Bool) : (s.setCoprocessorActive c l).acc = s.acc := by
  unfold State.setCoprocessorActive; split_ifs <;> rfl
@[simp] theorem State.setCoprocessorActive_alu (s : State) (c : Byte) (l : Bool) : (s.setCoprocessorActive c l).alu = s.alu := by
  unfold State.setCoprocessorActive; split_ifs <;> rfl
@[simp] theorem State.setCoprocessorActive_sr (s : State) (c : Byte) (l : Bool) : (s.setCoprocessorActive c l).sr = s.sr := by
  unfold State.setCoprocessorActive; split_ifs <;> rfl
@[simp] theorem State.setCoprocessorActive_tlb (s : State) (c : Byte) (l : Bool) : (s.setCoprocessorActive c l).tlb = s.tlb := by
  unfold State.setCoprocessorActive; split_ifs <;> rfl
@[simp] theorem State.setCoprocessorActive_tlbUsage (s : State) (c : Byte) (l : Bool) : (s.setCoprocessorActive c l).tlbUsage = s.tlbUsage := by
  unfold State.setCoprocessorActive; split_ifs <;> rfl
@[simp] theorem State.setCoprocessorActive_idmem (s : State) (c : Byte) (l : Bool) : (s.setCoprocessorActive c l).idmem = s.idmem := by
  unfold State.setCoprocessorActive; split_ifs <;> rfl
@[simp] theorem State.setCoprocessorActive_imem (s : State) (c : Byte) (l : Bool) : (s.setCoprocessorActive c l).imem = s.imem := by
  unfold State.setCoprocessorActive; split_ifs <;> rfl
@[simp] theorem State.setCoprocessorActive_irom (s : State) (c : Byte) (l : Bool) : (s.setCoprocessorActive c l).irom = s.irom := by
  unfold State.setCoprocessorActive; split_ifs <;> rfl
@[simp] theorem State.setCoprocessorActive_btc (s : State) (c : Byte) (l : Bool) : (s.setCoprocessorActive c l).btc = s.btc := by
  unfold State.setCoprocessorActive; split_ifs <;> rfl
@[simp] theorem State.setCoprocessorActive_prefetched (s : State) (c : Byte) (l : Bool) : (s.setCoprocessorActive c l).prefetched = s.prefetched := by
  unfold State.setCoprocessorActive; split_ifs <;> rfl
@[simp] theorem State.setCoprocessorActive_early (s : State) (c : Byte) (l : Bool) : (s.setCoprocessorActive c l).early = s.early := by
  unfold State.setCoprocessorActive; split_ifs <;> rfl
@[simp] theorem State.setCoprocessorActive_oldFetch (s : State) (c : Byte) (l : Bool) : (s.setCoprocessorActive c l).oldFetch = s.oldFetch := by
  unfold State.setCoprocessorActive; split_ifs <;> rfl
@[simp] theorem State.setCoprocessorActive_hz (s : State) (c : Byte) (l : Bool) : (s.setCoprocessorActive c l).hz = s.hz := by
  unfold State.setCoprocessorActive; split_ifs <;> rfl
@[simp] theorem State.setCoprocessorActive_hzNext (s : State) (c : Byte) (l : Bool) : (s.setCoprocessorActive c l).hzNext = s.hzNext := by
  unfold State.setCoprocessorActive; split_ifs <;> rfl
@[simp] theorem State.setCoprocessorActive_fzWindow (s : State) (c : Byte) (l : Bool) : (s.setCoprocessorActive c l).fzWindow = s.fzWindow := by
  unfold State.setCoprocessorActive; split_ifs <;> rfl
@[simp] theorem State.setCoprocessorActive_derrEvent (s : State) (c : Byte) (l : Bool) : (s.setCoprocessorActive c l).derrEvent = s.derrEvent := by
  unfold State.setCoprocessorActive; split_ifs <;> rfl
@[simp] theorem State.setCoprocessorActive_derrLeft (s : State) (c : Byte) (l : Bool) : (s.setCoprocessorActive c l).derrLeft = s.derrLeft := by
  unfold State.setCoprocessorActive; split_ifs <;> rfl
@[simp] theorem State.setCoprocessorActive_derrLoad (s : State) (c : Byte) (l : Bool) : (s.setCoprocessorActive c l).derrLoad = s.derrLoad := by
  unfold State.setCoprocessorActive; split_ifs <;> rfl
@[simp] theorem State.setCoprocessorActive_warnPending (s : State) (c : Byte) (l : Bool) : (s.setCoprocessorActive c l).warnPending = s.warnPending := by
  unfold State.setCoprocessorActive; split_ifs <;> rfl
@[simp] theorem State.setCoprocessorActive_opMode (s : State) (c : Byte) (l : Bool) : (s.setCoprocessorActive c l).opMode = s.opMode := by
  unfold State.setCoprocessorActive; split_ifs <;> rfl
@[simp] theorem State.setCoprocessorActive_debugger (s : State) (c : Byte) (l : Bool) : (s.setCoprocessorActive c l).debugger = s.debugger := by
  unfold State.setCoprocessorActive; split_ifs <;> rfl
@[simp] theorem State.setCoprocessorActive_holes (s : State) (c : Byte) (l : Bool) : (s.setCoprocessorActive c l).holes = s.holes := by
  unfold State.setCoprocessorActive; split_ifs <;> rfl
@[simp] theorem State.setCoprocessorActive_cur (s : State) (c : Byte) (l : Bool) : (s.setCoprocessorActive c l).cur = s.cur := by
  unfold State.setCoprocessorActive; split_ifs <;> rfl
@[simp] theorem State.setCoprocessorActive_inputs (s : State) (c : Byte) (l : Bool) : (s.setCoprocessorActive c l).inputs = s.inputs := by
  unfold State.setCoprocessorActive; split_ifs <;> rfl
@[simp] theorem State.setCoprocessorActive_accesses (s : State) (c : Byte) (l : Bool) : (s.setCoprocessorActive c l).accesses = s.accesses := by
  unfold State.setCoprocessorActive; split_ifs <;> rfl
@[simp] theorem State.setCoprocessorActive_fresh (s : State) (c : Byte) (l : Bool) : (s.setCoprocessorActive c l).fresh = s.fresh := by
  unfold State.setCoprocessorActive; split_ifs <;> rfl

@[simp] theorem State.derrReply_pc (s : State) (x : Xfer) : (s.derrReply x).pc = s.pc := by
  unfold State.derrReply; split_ifs <;> rfl
@[simp] theorem State.derrReply_npc (s : State) (x : Xfer) : (s.derrReply x).npc = s.npc := by
  unfold State.derrReply; split_ifs <;> rfl
@[simp] theorem State.derrReply_lastpc (s : State) (x : Xfer) : (s.derrReply x).lastpc = s.lastpc := by
  unfold State.derrReply; split_ifs <;> rfl
@[simp] theorem State.derrReply_lastpcKnown (s : State) (x : Xfer) : (s.derrReply x).lastpcKnown = s.lastpcKnown := by
  unfold State.derrReply; split_ifs <;> rfl
@[simp] theorem State.derrReply_pcSeq (s : State) (x : Xfer) : (s.derrReply x).pcSeq = s.pcSeq := by
  unfold State.derrReply; split_ifs <;> rfl
@[simp] theorem State.derrReply_npcSeq (s : State) (x : Xfer) : (s.derrReply x).npcSeq = s.npcSeq := by
  unfold State.derrReply; split_ifs <;> rfl
@[simp] theorem State.derrReply_sp (s : State) (x : Xfer) : (s.derrReply x).sp = s.sp := by
  unfold State.derrReply; split_ifs <;> rfl
@[simp] theorem State.derrReply_spShadow (s : State) (x : Xfer) : (s.derrReply x).spShadow = s.spShadow := by
  unfold State.derrReply; split_ifs <;> rfl
@[simp] theorem State.derrReply_spValid (s : State) (x : Xfer) : (s.derrReply x).spValid = s.spValid := by
  unfold State.derrReply; split_ifs <;> rfl
@[simp] theorem State.derrReply_cca (s : State) (x : Xfer) : (s.derrReply x).cca = s.cca := by
  unfold State.derrReply; split_ifs <;> rfl
@[simp] theorem State.derrReply_globals (s : State) (x : Xfer) : (s.derrReply x).globals = s.globals := by
  unfold State.derrReply; split_ifs <;> rfl
@[simp] theorem State.derrReply_locals (s : State) (x : Xfer) : (s.derrReply x).locals = s.locals := by
  unfold State.derrReply; split_ifs <;> rfl
@[simp] theorem State.derrReply_acc (s : State) (x : Xfer) : (s.derrReply x).acc = s.acc := by
  unfold State.derrReply; split_ifs <;> rfl
@[simp] theorem State.derrReply_cps (s : State) (x : Xfer) : (s.derrReply x).cps = s.cps := by
  unfold State.derrReply; split_ifs <;> rfl
@[simp] theorem State.derrReply_alu (s : State) (x : Xfer) : (s.derrReply x).alu = s.alu := by
  unfold State.derrReply; split_ifs <;> rfl
@[simp] theorem State.derrReply_tlb (s : State) (x : Xfer) : (s.derrReply x).tlb = s.tlb := by
  unfold State.derrReply; split_ifs <;> rfl
@[simp] theorem State.derrReply_tlbUsage (s : State) (x : Xfer) : (s.derrReply x).tlbUsage = s.tlbUsage := by
  unfold State.derrReply; split_ifs <;> rfl
@[simp] theorem State.derrReply_idmem (s : State) (x : Xfer) : (s.derrReply x).idmem = s.idmem := by
  unfold State.derrReply; split_ifs <;> rfl
@[simp] theorem State.derrReply_imem (s : State) (x : Xfer) : (s.derrReply x).imem = s.imem := by
  unfold State.derrReply; split_ifs <;> rfl
@[simp] theorem State.derrReply_irom (s : State) (x : Xfer) : (s.derrReply x).irom = s.irom := by
  unfold State.derrReply; split_ifs <;> rfl
@[simp] theorem State.derrReply_btc (s : State) (x : Xfer) : (s.derrReply x).btc = s.btc := by
  unfold State.derrReply; split_ifs <;> rfl
@[simp] theorem State.derrReply_prefetched (s : State) (x : Xfer) : (s.derrReply x).prefetched = s.prefetched := by
  unfold State.derrReply; split_ifs <;> rfl
@[simp] theorem State.derrReply_early (s : State) (x : Xfer) : (s.derrReply x).early = s.early := by
  unfold State.derrReply; split_ifs <;> rfl
@[simp] theorem State.derrReply_oldFetch (s : State) (x : Xfer) : (s.derrReply x).oldFetch = s.oldFetch := by
  unfold State.derrReply; split_ifs <;> rfl
@[simp] theorem State.derrReply_hz (s : State) (x : Xfer) : (s.derrReply x).hz = s.hz := by
  unfold State.derrReply; split_ifs <;> rfl
@[simp] theorem State.derrReply_hzNext (s : State) (x : Xfer) : (s.derrReply x).hzNext = s.hzNext := by
  unfold State.derrReply; split_ifs <;> rfl
@[simp] theorem State.derrReply_fzWindow (s : State) (x : Xfer) : (s.derrReply x).fzWindow = s.fzWindow := by
  unfold State.derrReply; split_ifs <;> rfl
@[simp] theorem State.derrReply_warnPending (s : State) (x : Xfer) : (s.derrReply x).warnPending = s.warnPending := by
  unfold State.derrReply; split_ifs <;> rfl
@[simp] theorem State.derrReply_opMode (s : State) (x : Xfer) : (s.derrReply x).opMode = s.opMode := by
  unfold State.derrReply; split_ifs <;> rfl
@[simp] theorem State.derrReply_debugger (s : State) (x : Xfer) : (s.derrReply x).debugger = s.debugger := by
  unfold State.derrReply; split_ifs <;> rfl
@[simp] theorem State.derrReply_holes (s : State) (x : Xfer) : (s.derrReply x).holes = s.holes := by
  unfold State.derrReply; split_ifs <;> rfl
@[simp] theorem State.derrReply_cur (s : State) (x : Xfer) : (s.derrReply x).cur = s.cur := by
  unfold State.derrReply; split_ifs <;> rfl
@[simp] theorem State.derrReply_inputs (s : State) (x : Xfer) : (s.derrReply x).inputs = s.inputs := by
  unfold State.derrReply; split_ifs <;> rfl
@[simp] theorem State.derrReply_accesses (s : State) (x : Xfer) : (s.derrReply x).accesses = s.accesses := by
  unfold State.derrReply; split_ifs <;> rfl

@[simp] theorem State.overtake_pc (s : State) (a : Word) (m : Memory) : (s.overtake a m).pc = s.pc := by
  unfold State.overtake; dsimp only; split_ifs <;> rfl
@[simp] theorem State.overtake_npc (s : State) (a : Word) (m : Memory) : (s.overtake a m).npc = s.npc := by
  unfold State.overtake; dsimp only; split_ifs <;> rfl
@[simp] theorem State.overtake_lastpc (s : State) (a : Word) (m : Memory) : (s.overtake a m).lastpc = s.lastpc := by
  unfold State.overtake; dsimp only; split_ifs <;> rfl
@[simp] theorem State.overtake_lastpcKnown (s : State) (a : Word) (m : Memory) : (s.overtake a m).lastpcKnown = s.lastpcKnown := by
  unfold State.overtake; dsimp only; split_ifs <;> rfl
@[simp] theorem State.overtake_pcSeq (s : State) (a : Word) (m : Memory) : (s.overtake a m).pcSeq = s.pcSeq := by
  unfold State.overtake; dsimp only; split_ifs <;> rfl
@[simp] theorem State.overtake_npcSeq (s : State) (a : Word) (m : Memory) : (s.overtake a m).npcSeq = s.npcSeq := by
  unfold State.overtake; dsimp only; split_ifs <;> rfl
@[simp] theorem State.overtake_sp (s : State) (a : Word) (m : Memory) : (s.overtake a m).sp = s.sp := by
  unfold State.overtake; dsimp only; split_ifs <;> rfl
@[simp] theorem State.overtake_spShadow (s : State) (a : Word) (m : Memory) : (s.overtake a m).spShadow = s.spShadow := by
  unfold State.overtake; dsimp only; split_ifs <;> rfl
@[simp] theorem State.overtake_spValid (s : State) (a : Word) (m : Memory) : (s.overtake a m).spValid = s.spValid := by
  unfold State.overtake; dsimp only; split_ifs <;> rfl
@[simp] theorem State.overtake_cca (s : State) (a : Word) (m : Memory) : (s.overtake a m).cca = s.cca := by
  unfold State.overtake; dsimp only; split_ifs <;> rfl
@[simp] theorem State.overtake_globals (s : State) (a : Word) (m : Memory) : (s.overtake a m).globals = s.globals := by
  unfold State.overtake; dsimp only; split_ifs <;> rfl
@[simp] theorem State.overtake_locals (s : State) (a : Word) (m : Memory) : (s.overtake a m).locals = s.locals := by
  unfold State.overtake; dsimp only; split_ifs <;> rfl
@[simp] theorem State.overtake_acc (s : State) (a : Word) (m : Memory) : (s.overtake a m).acc = s.acc := by
  unfold State.overtake; dsimp only; split_ifs <;> rfl
@[simp] theorem State.overtake_cps (s : State) (a : Word) (m : Memory) : (s.overtake a m).cps = s.cps := by
  unfold State.overtake; dsimp only; split_ifs <;> rfl
@[simp] theorem State.overtake_alu (s : State) (a : Word) (m : Memory) : (s.overtake a m).alu = s.alu := by
  unfold State.overtake; dsimp only; split_ifs <;> rfl
@[simp] theorem State.overtake_sr (s : State) (a : Word) (m : Memory) : (s.overtake a m).sr = s.sr := by
  unfold State.overtake; dsimp only; split_ifs <;> rfl
@[simp] theorem State.overtake_tlb (s : State) (a : Word) (m : Memory) : (s.overtake a m).tlb = s.tlb := by
  unfold State.overtake; dsimp only; split_ifs <;> rfl
@[simp] theorem State.overtake_tlbUsage (s : State) (a : Word) (m : Memory) : (s.overtake a m).tlbUsage = s.tlbUsage := by
  unfold State.overtake; dsimp only; split_ifs <;> rfl
@[simp] theorem State.overtake_imem (s : State) (a : Word) (m : Memory) : (s.overtake a m).imem = s.imem := by
  unfold State.overtake; dsimp only; split_ifs <;> rfl
@[simp] theorem State.overtake_irom (s : State) (a : Word) (m : Memory) : (s.overtake a m).irom = s.irom := by
  unfold State.overtake; dsimp only; split_ifs <;> rfl
@[simp] theorem State.overtake_btc (s : State) (a : Word) (m : Memory) : (s.overtake a m).btc = s.btc := by
  unfold State.overtake; dsimp only; split_ifs <;> rfl
@[simp] theorem State.overtake_early (s : State) (a : Word) (m : Memory) : (s.overtake a m).early = s.early := by
  unfold State.overtake; dsimp only; split_ifs <;> rfl
@[simp] theorem State.overtake_oldFetch (s : State) (a : Word) (m : Memory) : (s.overtake a m).oldFetch = s.oldFetch := by
  unfold State.overtake; dsimp only; split_ifs <;> rfl
@[simp] theorem State.overtake_hz (s : State) (a : Word) (m : Memory) : (s.overtake a m).hz = s.hz := by
  unfold State.overtake; dsimp only; split_ifs <;> rfl
@[simp] theorem State.overtake_hzNext (s : State) (a : Word) (m : Memory) : (s.overtake a m).hzNext = s.hzNext := by
  unfold State.overtake; dsimp only; split_ifs <;> rfl
@[simp] theorem State.overtake_fzWindow (s : State) (a : Word) (m : Memory) : (s.overtake a m).fzWindow = s.fzWindow := by
  unfold State.overtake; dsimp only; split_ifs <;> rfl
@[simp] theorem State.overtake_derrEvent (s : State) (a : Word) (m : Memory) : (s.overtake a m).derrEvent = s.derrEvent := by
  unfold State.overtake; dsimp only; split_ifs <;> rfl
@[simp] theorem State.overtake_derrLeft (s : State) (a : Word) (m : Memory) : (s.overtake a m).derrLeft = s.derrLeft := by
  unfold State.overtake; dsimp only; split_ifs <;> rfl
@[simp] theorem State.overtake_derrLoad (s : State) (a : Word) (m : Memory) : (s.overtake a m).derrLoad = s.derrLoad := by
  unfold State.overtake; dsimp only; split_ifs <;> rfl
@[simp] theorem State.overtake_warnPending (s : State) (a : Word) (m : Memory) : (s.overtake a m).warnPending = s.warnPending := by
  unfold State.overtake; dsimp only; split_ifs <;> rfl
@[simp] theorem State.overtake_opMode (s : State) (a : Word) (m : Memory) : (s.overtake a m).opMode = s.opMode := by
  unfold State.overtake; dsimp only; split_ifs <;> rfl
@[simp] theorem State.overtake_debugger (s : State) (a : Word) (m : Memory) : (s.overtake a m).debugger = s.debugger := by
  unfold State.overtake; dsimp only; split_ifs <;> rfl
@[simp] theorem State.overtake_holes (s : State) (a : Word) (m : Memory) : (s.overtake a m).holes = s.holes := by
  unfold State.overtake; dsimp only; split_ifs <;> rfl
@[simp] theorem State.overtake_cur (s : State) (a : Word) (m : Memory) : (s.overtake a m).cur = s.cur := by
  unfold State.overtake; dsimp only; split_ifs <;> rfl
@[simp] theorem State.overtake_inputs (s : State) (a : Word) (m : Memory) : (s.overtake a m).inputs = s.inputs := by
  unfold State.overtake; dsimp only; split_ifs <;> rfl
@[simp] theorem State.overtake_accesses (s : State) (a : Word) (m : Memory) : (s.overtake a m).accesses = s.accesses := by
  unfold State.overtake; dsimp only; split_ifs <;> rfl
@[simp] theorem State.overtake_fresh (s : State) (a : Word) (m : Memory) : (s.overtake a m).fresh = s.fresh := by
  unfold State.overtake; dsimp only; split_ifs <;> rfl

@[simp] theorem State.recordPcs_pc (s : State) (a b c : Word) : (s.recordPcs a b c).pc = s.pc := by
  unfold State.recordPcs; split_ifs <;> rfl
@[simp] theorem State.recordPcs_npc (s : State) (a b c : Word) : (s.recordPcs a b c).npc = s.npc := by
  unfold State.recordPcs; split_ifs <;> rfl
@[simp] theorem State.recordPcs_lastpc (s : State) (a b c : Word) : (s.recordPcs a b c).lastpc = s.lastpc := by
  unfold State.recordPcs; split_ifs <;> rfl
@[simp] theorem State.recordPcs_lastpcKnown (s : State) (a b c : Word) : (s.recordPcs a b c).lastpcKnown = s.lastpcKnown := by
  unfold State.recordPcs; split_ifs <;> rfl
@[simp] theorem State.recordPcs_pcSeq (s : State) (a b c : Word) : (s.recordPcs a b c).pcSeq = s.pcSeq := by
  unfold State.recordPcs; split_ifs <;> rfl
@[simp] theorem State.recordPcs_npcSeq (s : State) (a b c : Word) : (s.recordPcs a b c).npcSeq = s.npcSeq := by
  unfold State.recordPcs; split_ifs <;> rfl
@[simp] theorem State.recordPcs_sp (s : State) (a b c : Word) : (s.recordPcs a b c).sp = s.sp := by
  unfold State.recordPcs; split_ifs <;> rfl
@[simp] theorem State.recordPcs_spShadow (s : State) (a b c : Word) : (s.recordPcs a b c).spShadow = s.spShadow := by
  unfold State.recordPcs; split_ifs <;> rfl
@[simp] theorem State.recordPcs_spValid (s : State) (a b c : Word) : (s.recordPcs a b c).spValid = s.spValid := by
  unfold State.recordPcs; split_ifs <;> rfl
@[simp] theorem State.recordPcs_cca (s : State) (a b c : Word) : (s.recordPcs a b c).cca = s.cca := by
  unfold State.recordPcs; split_ifs <;> rfl
@[simp] theorem State.recordPcs_globals (s : State) (a b c : Word) : (s.recordPcs a b c).globals = s.globals := by
  unfold State.recordPcs; split_ifs <;> rfl
@[simp] theorem State.recordPcs_locals (s : State) (a b c : Word) : (s.recordPcs a b c).locals = s.locals := by
  unfold State.recordPcs; split_ifs <;> rfl
@[simp] theorem State.recordPcs_acc (s : State) (a b c : Word) : (s.recordPcs a b c).acc = s.acc := by
  unfold State.recordPcs; split_ifs <;> rfl
@[simp] theorem State.recordPcs_cps (s : State) (a b c : Word) : (s.recordPcs a b c).cps = s.cps := by
  unfold State.recordPcs; split_ifs <;> rfl
@[simp] theorem State.recordPcs_alu (s : State) (a b c : Word) : (s.recordPcs a b c).alu = s.alu := by
  unfold State.recordPcs; split_ifs <;> rfl
@[simp] theorem State.recordPcs_tlb (s : State) (a b c : Word) : (s.recordPcs a b c).tlb = s.tlb := by
  unfold State.recordPcs; split_ifs <;> rfl
@[simp] theorem State.recordPcs_tlbUsage (s : State) (a b c : Word) : (s.recordPcs a b c).tlbUsage = s.tlbUsage := by
  unfold State.recordPcs; split_ifs <;> rfl
@[simp] theorem State.recordPcs_idmem (s : State) (a b c : Word) : (s.recordPcs a b c).idmem = s.idmem := by
  unfold State.recordPcs; split_ifs <;> rfl
@[simp] theorem State.recordPcs_imem (s : State) (a b c : Word) : (s.recordPcs a b c).imem = s.imem := by
  unfold State.recordPcs; split_ifs <;> rfl
@[simp] theorem State.recordPcs_irom (s : State) (a b c : Word) : (s.recordPcs a b c).irom = s.irom := by
  unfold State.recordPcs; split_ifs <;> rfl
@[simp] theorem State.recordPcs_btc (s : State) (a b c : Word) : (s.recordPcs a b c).btc = s.btc := by
  unfold State.recordPcs; split_ifs <;> rfl
@[simp] theorem State.recordPcs_prefetched (s : State) (a b c : Word) : (s.recordPcs a b c).prefetched = s.prefetched := by
  unfold State.recordPcs; split_ifs <;> rfl
@[simp] theorem State.recordPcs_early (s : State) (a b c : Word) : (s.recordPcs a b c).early = s.early := by
  unfold State.recordPcs; split_ifs <;> rfl
@[simp] theorem State.recordPcs_oldFetch (s : State) (a b c : Word) : (s.recordPcs a b c).oldFetch = s.oldFetch := by
  unfold State.recordPcs; split_ifs <;> rfl
@[simp] theorem State.recordPcs_hz (s : State) (a b c : Word) : (s.recordPcs a b c).hz = s.hz := by
  unfold State.recordPcs; split_ifs <;> rfl
@[simp] theorem State.recordPcs_hzNext (s : State) (a b c : Word) : (s.recordPcs a b c).hzNext = s.hzNext := by
  unfold State.recordPcs; split_ifs <;> rfl
@[simp] theorem State.recordPcs_fzWindow (s : State) (a b c : Word) : (s.recordPcs a b c).fzWindow = s.fzWindow := by
  unfold State.recordPcs; split_ifs <;> rfl
@[simp] theorem State.recordPcs_derrEvent (s : State) (a b c : Word) : (s.recordPcs a b c).derrEvent = s.derrEvent := by
  unfold State.recordPcs; split_ifs <;> rfl
@[simp] theorem State.recordPcs_derrLeft (s : State) (a b c : Word) : (s.recordPcs a b c).derrLeft = s.derrLeft := by
  unfold State.recordPcs; split_ifs <;> rfl
@[simp] theorem State.recordPcs_derrLoad (s : State) (a b c : Word) : (s.recordPcs a b c).derrLoad = s.derrLoad := by
  unfold State.recordPcs; split_ifs <;> rfl
@[simp] theorem State.recordPcs_warnPending (s : State) (a b c : Word) : (s.recordPcs a b c).warnPending = s.warnPending := by
  unfold State.recordPcs; split_ifs <;> rfl
@[simp] theorem State.recordPcs_opMode (s : State) (a b c : Word) : (s.recordPcs a b c).opMode = s.opMode := by
  unfold State.recordPcs; split_ifs <;> rfl
@[simp] theorem State.recordPcs_debugger (s : State) (a b c : Word) : (s.recordPcs a b c).debugger = s.debugger := by
  unfold State.recordPcs; split_ifs <;> rfl
@[simp] theorem State.recordPcs_holes (s : State) (a b c : Word) : (s.recordPcs a b c).holes = s.holes := by
  unfold State.recordPcs; split_ifs <;> rfl
@[simp] theorem State.recordPcs_cur (s : State) (a b c : Word) : (s.recordPcs a b c).cur = s.cur := by
  unfold State.recordPcs; split_ifs <;> rfl
@[simp] theorem State.recordPcs_inputs (s : State) (a b c : Word) : (s.recordPcs a b c).inputs = s.inputs := by
  unfold State.recordPcs; split_ifs <;> rfl
@[simp] theorem State.recordPcs_accesses (s : State) (a b c : Word) : (s.recordPcs a b c).accesses = s.accesses := by
  unfold State.recordPcs; split_ifs <;> rfl

@[simp] theorem State.timerTick_pc (s : State) : (s.timerTick).pc = s.pc := by
  unfold State.timerTick; dsimp only; split_ifs <;> rfl
@[simp] theorem State.timerTick_npc (s : State) : (s.timerTick).npc = s.npc := by
  unfold State.timerTick; dsimp only; split_ifs <;> rfl
@[simp] theorem State.timerTick_lastpc (s : State) : (s.timerTick).lastpc = s.lastpc := by
  unfold State.timerTick; dsimp only; split_ifs <;> rfl
@[simp] theorem State.timerTick_lastpcKnown (s : State) : (s.timerTick).lastpcKnown = s.lastpcKnown := by
  unfold State.timerTick; dsimp only; split_ifs <;> rfl
@[simp] theorem State.timerTick_pcSeq (s : State) : (s.timerTick).pcSeq = s.pcSeq := by
  unfold State.timerTick; dsimp only; split_ifs <;> rfl
@[simp] theorem State.timerTick_npcSeq (s : State) : (s.timerTick).npcSeq = s.npcSeq := by
  unfold State.timerTick; dsimp only; split_ifs <;> rfl
@[simp] theorem State.timerTick_sp (s : State) : (s.timerTick).sp = s.sp := by
  unfold State.timerTick; dsimp only; split_ifs <;> rfl
@[simp] theorem State.timerTick_spShadow (s : State) : (s.timerTick).spShadow = s.spShadow := by
  unfold State.timerTick; dsimp only; split_ifs <;> rfl
@[simp] theorem State.timerTick_spValid (s : State) : (s.timerTick).spValid = s.spValid := by
  unfold State.timerTick; dsimp only; split_ifs <;> rfl
@[simp] theorem State.timerTick_cca (s : State) : (s.timerTick).cca = s.cca := by
  unfold State.timerTick; dsimp only; split_ifs <;> rfl
@[simp] theorem State.timerTick_globals (s : State) : (s.timerTick).globals = s.globals := by
  unfold State.timerTick; dsimp only; split_ifs <;> rfl
@[simp] theorem State.timerTick_locals (s : State) : (s.timerTick).locals = s.locals := by
  unfold State.timerTick; dsimp only; split_ifs <;> rfl
@[simp] theorem State.timerTick_acc (s : State) : (s.timerTick).acc = s.acc := by
  unfold State.timerTick; dsimp only; split_ifs <;> rfl
@[simp] theorem State.timerTick_cps (s : State) : (s.timerTick).cps = s.cps := by
  unfold State.timerTick; dsimp only; split_ifs <;> rfl
@[simp] theorem State.timerTick_alu (s : State) : (s.timerTick).alu = s.alu := by
  unfold State.timerTick; dsimp only; split_ifs <;> rfl
@[simp] theorem State.timerTick_tlb (s : State) : (s.timerTick).tlb = s.tlb := by
  unfold State.timerTick; dsimp only; split_ifs <;> rfl
@[simp] theorem State.timerTick_tlbUsage (s : State) : (s.timerTick).tlbUsage = s.tlbUsage := by
  unfold State.timerTick; dsimp only; split_ifs <;> rfl
@[simp] theorem State.timerTick_idmem (s : State) : (s.timerTick).idmem = s.idmem := by
  unfold State.timerTick; dsimp only; split_ifs <;> rfl
@[simp] theorem State.timerTick_imem (s : State) : (s.timerTick).imem = s.imem := by
  unfold State.timerTick; dsimp only; split_ifs <;> rfl
@[simp] theorem State.timerTick_irom (s : State) : (s.timerTick).irom = s.irom := by
  unfold State.timerTick; dsimp only; split_ifs <;> rfl
@[simp] theorem State.timerTick_btc (s : State) : (s.timerTick).btc = s.btc := by
  unfold State.timerTick; dsimp only; split_ifs <;> rfl
@[simp] theorem State.timerTick_prefetched (s : State) : (s.timerTick).prefetched = s.prefetched := by
  unfold State.timerTick; dsimp only; split_ifs <;> rfl
@[simp] theorem State.timerTick_early (s : State) : (s.timerTick).early = s.early := by
  unfold State.timerTick; dsimp only; split_ifs <;> rfl
@[simp] theorem State.timerTick_oldFetch (s : State) : (s.timerTick).oldFetch = s.oldFetch := by
  unfold State.timerTick; dsimp only; split_ifs <;> rfl
@[simp] theorem State.timerTick_hz (s : State) : (s.timerTick).hz = s.hz := by
  unfold State.timerTick; dsimp only; split_ifs <;> rfl
@[simp] theorem State.timerTick_hzNext (s : State) : (s.timerTick).hzNext = s.hzNext := by
  unfold State.timerTick; dsimp only; split_ifs <;> rfl
@[simp] theorem State.timerTick_fzWindow (s : State) : (s.timerTick).fzWindow = s.fzWindow := by
  unfold State.timerTick; dsimp only; split_ifs <;> rfl
@[simp] theorem State.timerTick_derrEvent (s : State) : (s.timerTick).derrEvent = s.derrEvent := by
  unfold State.timerTick; dsimp only; split_ifs <;> rfl
@[simp] theorem State.timerTick_derrLeft (s : State) : (s.timerTick).derrLeft = s.derrLeft := by
  unfold State.timerTick; dsimp only; split_ifs <;> rfl
@[simp] theorem State.timerTick_derrLoad (s : State) : (s.timerTick).derrLoad = s.derrLoad := by
  unfold State.timerTick; dsimp only; split_ifs <;> rfl
@[simp] theorem State.timerTick_warnPending (s : State) : (s.timerTick).warnPending = s.warnPending := by
  unfold State.timerTick; dsimp only; split_ifs <;> rfl
@[simp] theorem State.timerTick_opMode (s : State) : (s.timerTick).opMode = s.opMode := by
  unfold State.timerTick; dsimp only; split_ifs <;> rfl
@[simp] theorem State.timerTick_debugger (s : State) : (s.timerTick).debugger = s.debugger := by
  unfold State.timerTick; dsimp only; split_ifs <;> rfl
@[simp] theorem State.timerTick_holes (s : State) : (s.timerTick).holes = s.holes := by
  unfold State.timerTick; dsimp only; split_ifs <;> rfl
@[simp] theorem State.timerTick_cur (s : State) : (s.timerTick).cur = s.cur := by
  unfold State.timerTick; dsimp only; split_ifs <;> rfl
@[simp] theorem State.timerTick_inputs (s : State) : (s.timerTick).inputs = s.inputs := by
  unfold State.timerTick; dsimp only; split_ifs <;> rfl
@[simp] theorem State.timerTick_accesses (s : State) : (s.timerTick).accesses = s.accesses := by
  unfold State.timerTick; dsimp only; split_ifs <;> rfl
@[simp] theorem State.timerTick_fresh (s : State) : (s.timerTick).fresh = s.fresh := by
  unfold State.timerTick; dsimp only; split_ifs <;> rfl

@[simp] theorem State.transferData_pc (s : State) (x : Xfer) : (s.transferData x).pc = s.pc := by
  unfold State.transferData; split_ifs <;> rfl
@[simp] theorem State.transferData_npc (s : State) (x : Xfer) : (s.transferData x).npc = s.npc := by
  unfold State.transferData; split_ifs <;> rfl
@[simp] theorem State.transferData_lastpc (s : State) (x : Xfer) : (s.transferData x).lastpc = s.lastpc := by
  unfold State.transferData; split_ifs <;> rfl
@[simp] theorem State.transferData_lastpcKnown (s : State) (x : Xfer) : (s.transferData x).lastpcKnown = s.lastpcKnown := by
  unfold State.transferData; split_ifs <;> rfl
@[simp] theorem State.transferData_pcSeq (s : State) (x : Xfer) : (s.transferData x).pcSeq = s.pcSeq := by
  unfold State.transferData; split_ifs <;> rfl
@[simp] theorem State.transferData_npcSeq (s : State) (x : Xfer) : (s.transferData x).npcSeq = s.npcSeq := by
  unfold State.transferData; split_ifs <;> rfl
@[simp] theorem State.transferData_sp (s : State) (x : Xfer) : (s.transferData x).sp = s.sp := by
  unfold State.transferData; split_ifs <;> rfl
@[simp] theorem State.transferData_spShadow (s : State) (x : Xfer) : (s.transferData x).spShadow = s.spShadow := by
  unfold State.transferData; split_ifs <;> rfl
@[simp] theorem State.transferData_spValid (s : State) (x : Xfer) : (s.transferData x).spValid = s.spValid := by
  unfold State.transferData; split_ifs <;> rfl
@[simp] theorem State.transferData_cca (s : State) (x : Xfer) : (s.transferData x).cca = s.cca := by
  unfold State.transferData; split_ifs <;> rfl
@[simp] theorem State.transferData_globals (s : State) (x : Xfer) : (s.transferData x).globals = s.globals := by
  unfold State.transferData; split_ifs <;> rfl
@[simp] theorem State.transferData_locals (s : State) (x : Xfer) : (s.transferData x).locals = s.locals := by
  unfold State.transferData; split_ifs <;> rfl
@[simp] theorem State.transferData_acc (s : State) (x : Xfer) : (s.transferData x).acc = s.acc := by
  unfold State.transferData; split_ifs <;> rfl
@[simp] theorem State.transferData_cps (s : State) (x : Xfer) : (s.transferData x).cps = s.cps := by
  unfold State.transferData; split_ifs <;> rfl
@[simp] theorem State.transferData_alu (s : State) (x : Xfer) : (s.transferData x).alu = s.alu := by
  unfold State.transferData; split_ifs <;> rfl
@[simp] theorem State.transferData_tlb (s : State) (x : Xfer) : (s.transferData x).tlb = s.tlb := by
  unfold State.transferData; split_ifs <;> rfl
@[simp] theorem State.transferData_tlbUsage (s : State) (x : Xfer) : (s.transferData x).tlbUsage = s.tlbUsage := by
  unfold State.transferData; split_ifs <;> rfl
@[simp] theorem State.transferData_idmem (s : State) (x : Xfer) : (s.transferData x).idmem = s.idmem := by
  unfold State.transferData; split_ifs <;> rfl
@[simp] theorem State.transferData_imem (s : State) (x : Xfer) : (s.transferData x).imem = s.imem := by
  unfold State.transferData; split_ifs <;> rfl
@[simp] theorem State.transferData_irom (s : State) (x : Xfer) : (s.transferData x).irom = s.irom := by
  unfold State.transferData; split_ifs <;> rfl
@[simp] theorem State.transferData_btc (s : State) (x : Xfer) : (s.transferData x).btc = s.btc := by
  unfold State.transferData; split_ifs <;> rfl
@[simp] theorem State.transferData_prefetched (s : State) (x : Xfer) : (s.transferData x).prefetched = s.prefetched := by
  unfold State.transferData; split_ifs <;> rfl
@[simp] theorem State.transferData_early (s : State) (x : Xfer) : (s.transferData x).early = s.early := by
  unfold State.transferData; split_ifs <;> rfl
@[simp] theorem State.transferData_oldFetch (s : State) (x : Xfer) : (s.transferData x).oldFetch = s.oldFetch := by
  unfold State.transferData; split_ifs <;> rfl
@[simp] theorem State.transferData_hz (s : State) (x : Xfer) : (s.transferData x).hz = s.hz := by
  unfold State.transferData; split_ifs <;> rfl
@[simp] theorem State.transferData_hzNext (s : State) (x : Xfer) : (s.transferData x).hzNext = s.hzNext := by
  unfold State.transferData; split_ifs <;> rfl
@[simp] theorem State.transferData_fzWindow (s : State) (x : Xfer) : (s.transferData x).fzWindow = s.fzWindow := by
  unfold State.transferData; split_ifs <;> rfl
@[simp] theorem State.transferData_derrEvent (s : State) (x : Xfer) : (s.transferData x).derrEvent = s.derrEvent := by
  unfold State.transferData; split_ifs <;> rfl
@[simp] theorem State.transferData_derrLeft (s : State) (x : Xfer) : (s.transferData x).derrLeft = s.derrLeft := by
  unfold State.transferData; split_ifs <;> rfl
@[simp] theorem State.transferData_derrLoad (s : State) (x : Xfer) : (s.transferData x).derrLoad = s.derrLoad := by
  unfold State.transferData; split_ifs <;> rfl
@[simp] theorem State.transferData_warnPending (s : State) (x : Xfer) : (s.transferData x).warnPending = s.warnPending := by
  unfold State.transferData; split_ifs <;> rfl
@[simp] theorem State.transferData_opMode (s : State) (x : Xfer) : (s.transferData x).opMode = s.opMode := by
  unfold State.transferData; split_ifs <;> rfl
@[simp] theorem State.transferData_debugger (s : State) (x : Xfer) : (s.transferData x).debugger = s.debugger := by
  unfold State.transferData; split_ifs <;> rfl
@[simp] theorem State.transferData_holes (s : State) (x : Xfer) : (s.transferData x).holes = s.holes := by
  unfold State.transferData; split_ifs <;> rfl
@[simp] theorem State.transferData_cur (s : State) (x : Xfer) : (s.transferData x).cur = s.cur := by
  unfold State.transferData; split_ifs <;> rfl
@[simp] theorem State.transferData_inputs (s : State) (x : Xfer) : (s.transferData x).inputs = s.inputs := by
  unfold State.transferData; split_ifs <;> rfl
@[simp] theorem State.transferData_accesses (s : State) (x : Xfer) : (s.transferData x).accesses = s.accesses := by
  unfold State.transferData; split_ifs <;> rfl

@[simp] theorem State.writeTlb_pc (s : State) (n : Nat) (v : Word) : (s.writeTlb n v).pc = s.pc := by
  unfold State.writeTlb; dsimp only; split_ifs <;> rfl
@[simp] theorem State.writeTlb_npc (s : State) (n : Nat) (v : Word) : (s.writeTlb n v).npc = s.npc := by
  unfold State.writeTlb; dsimp only; split_ifs <;> rfl
@[simp] theorem State.writeTlb_lastpc (s : State) (n : Nat) (v : Word) : (s.writeTlb n v).lastpc = s.lastpc := by
  unfold State.writeTlb; dsimp only; split_ifs <;> rfl
@[simp] theorem State.writeTlb_lastpcKnown (s : State) (n : Nat) (v : Word) : (s.writeTlb n v).lastpcKnown = s.lastpcKnown := by
  unfold State.writeTlb; dsimp only; split_ifs <;> rfl
@[simp] theorem State.writeTlb_pcSeq (s : State) (n : Nat) (v : Word) : (s.writeTlb n v).pcSeq = s.pcSeq := by
  unfold State.writeTlb; dsimp only; split_ifs <;> rfl
@[simp] theorem State.writeTlb_npcSeq (s : State) (n : Nat) (v : Word) : (s.writeTlb n v).npcSeq = s.npcSeq := by
  unfold State.writeTlb; dsimp only; split_ifs <;> rfl
@[simp] theorem State.writeTlb_sp (s : State) (n : Nat) (v : Word) : (s.writeTlb n v).sp = s.sp := by
  unfold State.writeTlb; dsimp only; split_ifs <;> rfl
@[simp] theorem State.writeTlb_spShadow (s : State) (n : Nat) (v : Word) : (s.writeTlb n v).spShadow = s.spShadow := by
  unfold State.writeTlb; dsimp only; split_ifs <;> rfl
@[simp] theorem State.writeTlb_spValid (s : State) (n : Nat) (v : Word) : (s.writeTlb n v).spValid = s.spValid := by
  unfold State.writeTlb; dsimp only; split_ifs <;> rfl
@[simp] theorem State.writeTlb_cca (s : State) (n : Nat) (v : Word) : (s.writeTlb n v).cca = s.cca := by
  unfold State.writeTlb; dsimp only; split_ifs <;> rfl
@[simp] theorem State.writeTlb_globals (s : State) (n : Nat) (v : Word) : (s.writeTlb n v).globals = s.globals := by
  unfold State.writeTlb; dsimp only; split_ifs <;> rfl
@[simp] theorem State.writeTlb_locals (s : State) (n : Nat) (v : Word) : (s.writeTlb n v).locals = s.locals := by
  unfold State.writeTlb; dsimp only; split_ifs <;> rfl
@[simp] theorem State.writeTlb_acc (s : State) (n : Nat) (v : Word) : (s.writeTlb n v).acc = s.acc := by
  unfold State.writeTlb; dsimp only; split_ifs <;> rfl
@[simp] theorem State.writeTlb_cps (s : State) (n : Nat) (v : Word) : (s.writeTlb n v).cps = s.cps := by
  unfold State.writeTlb; dsimp only; split_ifs <;> rfl
@[simp] theorem State.writeTlb_alu (s : State) (n : Nat) (v : Word) : (s.writeTlb n v).alu = s.alu := by
  unfold State.writeTlb; dsimp only; split_ifs <;> rfl
@[simp] theorem State.writeTlb_sr (s : State) (n : Nat) (v : Word) : (s.writeTlb n v).sr = s.sr := by
  unfold State.writeTlb; dsimp only; split_ifs <;> rfl
@[simp] theorem State.writeTlb_idmem (s : State) (n : Nat) (v : Word) : (s.writeTlb n v).idmem = s.idmem := by
  unfold State.writeTlb; dsimp only; split_ifs <;> rfl
@[simp] theorem State.writeTlb_imem (s : State) (n : Nat) (v : Word) : (s.writeTlb n v).imem = s.imem := by
  unfold State.writeTlb; dsimp only; split_ifs <;> rfl
@[simp] theorem State.writeTlb_irom (s : State) (n : Nat) (v : Word) : (s.writeTlb n v).irom = s.irom := by
  unfold State.writeTlb; dsimp only; split_ifs <;> rfl
@[simp] theorem State.writeTlb_btc (s : State) (n : Nat) (v : Word) : (s.writeTlb n v).btc = s.btc := by
  unfold State.writeTlb; dsimp only; split_ifs <;> rfl
@[simp] theorem State.writeTlb_prefetched (s : State) (n : Nat) (v : Word) : (s.writeTlb n v).prefetched = s.prefetched := by
  unfold State.writeTlb; dsimp only; split_ifs <;> rfl
@[simp] theorem State.writeTlb_early (s : State) (n : Nat) (v : Word) : (s.writeTlb n v).early = s.early := by
  unfold State.writeTlb; dsimp only; split_ifs <;> rfl
@[simp] theorem State.writeTlb_oldFetch (s : State) (n : Nat) (v : Word) : (s.writeTlb n v).oldFetch = s.oldFetch := by
  unfold State.writeTlb; dsimp only; split_ifs <;> rfl
@[simp] theorem State.writeTlb_hz (s : State) (n : Nat) (v : Word) : (s.writeTlb n v).hz = s.hz := by
  unfold State.writeTlb; dsimp only; split_ifs <;> rfl
@[simp] theorem State.writeTlb_hzNext (s : State) (n : Nat) (v : Word) : (s.writeTlb n v).hzNext = s.hzNext := by
  unfold State.writeTlb; dsimp only; split_ifs <;> rfl
@[simp] theorem State.writeTlb_fzWindow (s : State) (n : Nat) (v : Word) : (s.writeTlb n v).fzWindow = s.fzWindow := by
  unfold State.writeTlb; dsimp only; split_ifs <;> rfl
@[simp] theorem State.writeTlb_derrEvent (s : State) (n : Nat) (v : Word) : (s.writeTlb n v).derrEvent = s.derrEvent := by
  unfold State.writeTlb; dsimp only; split_ifs <;> rfl
@[simp] theorem State.writeTlb_derrLeft (s : State) (n : Nat) (v : Word) : (s.writeTlb n v).derrLeft = s.derrLeft := by
  unfold State.writeTlb; dsimp only; split_ifs <;> rfl
@[simp] theorem State.writeTlb_derrLoad (s : State) (n : Nat) (v : Word) : (s.writeTlb n v).derrLoad = s.derrLoad := by
  unfold State.writeTlb; dsimp only; split_ifs <;> rfl
@[simp] theorem State.writeTlb_warnPending (s : State) (n : Nat) (v : Word) : (s.writeTlb n v).warnPending = s.warnPending := by
  unfold State.writeTlb; dsimp only; split_ifs <;> rfl
@[simp] theorem State.writeTlb_opMode (s : State) (n : Nat) (v : Word) : (s.writeTlb n v).opMode = s.opMode := by
  unfold State.writeTlb; dsimp only; split_ifs <;> rfl
@[simp] theorem State.writeTlb_debugger (s : State) (n : Nat) (v : Word) : (s.writeTlb n v).debugger = s.debugger := by
  unfold State.writeTlb; dsimp only; split_ifs <;> rfl
@[simp] theorem State.writeTlb_holes (s : State) (n : Nat) (v : Word) : (s.writeTlb n v).holes = s.holes := by
  unfold State.writeTlb; dsimp only; split_ifs <;> rfl
@[simp] theorem State.writeTlb_cur (s : State) (n : Nat) (v : Word) : (s.writeTlb n v).cur = s.cur := by
  unfold State.writeTlb; dsimp only; split_ifs <;> rfl
@[simp] theorem State.writeTlb_inputs (s : State) (n : Nat) (v : Word) : (s.writeTlb n v).inputs = s.inputs := by
  unfold State.writeTlb; dsimp only; split_ifs <;> rfl
@[simp] theorem State.writeTlb_accesses (s : State) (n : Nat) (v : Word) : (s.writeTlb n v).accesses = s.accesses := by
  unfold State.writeTlb; dsimp only; split_ifs <;> rfl
@[simp] theorem State.writeTlb_fresh (s : State) (n : Nat) (v : Word) : (s.writeTlb n v).fresh = s.fresh := by
  unfold State.writeTlb; dsimp only; split_ifs <;> rfl

@[simp] theorem State.setDest_pc (s : State) (c : WriteClass) (r : Byte) (v : Word) : (s.setDest c r v).pc = s.pc := by
  simp [State.setDest]
@[simp] theorem State.setDest_npc (s : State) (c : WriteClass) (r : Byte) (v : Word) : (s.setDest c r v).npc = s.npc := by
  simp [State.setDest]
@[simp] theorem State.setDest_lastpc (s : State) (c : WriteClass) (r : Byte) (v : Word) : (s.setDest c r v).lastpc = s.lastpc := by
  simp [State.setDest]
@[simp] theorem State.setDest_lastpcKnown (s : State) (c : WriteClass) (r : Byte) (v : Word) : (s.setDest c r v).lastpcKnown = s.lastpcKnown := by
  simp [State.setDest]
@[simp] theorem State.setDest_pcSeq (s : State) (c : WriteClass) (r : Byte) (v : Word) : (s.setDest c r v).pcSeq = s.pcSeq := by
  simp [State.setDest]
@[simp] theorem State.setDest_npcSeq (s : State) (c : WriteClass) (r : Byte) (v : Word) : (s.setDest c r v).npcSeq = s.npcSeq := by
  simp [State.setDest]
@[simp] theorem State.setDest_acc (s : State) (c : WriteClass) (r : Byte) (v : Word) : (s.setDest c r v).acc = s.acc := by
  simp [State.setDest]
@[simp] theorem State.setDest_cps (s : State) (c : WriteClass) (r : Byte) (v : Word) : (s.setDest c r v).cps = s.cps := by
  simp [State.setDest]
@[simp] theorem State.setDest_alu (s : State) (c : WriteClass) (r : Byte) (v : Word) : (s.setDest c r v).alu = s.alu := by
  simp [State.setDest]
@[simp] theorem State.setDest_sr (s : State) (c : WriteClass) (r : Byte) (v : Word) : (s.setDest c r v).sr = s.sr := by
  simp [State.setDest]
@[simp] theorem State.setDest_tlb (s : State) (c : WriteClass) (r : Byte) (v : Word) : (s.setDest c r v).tlb = s.tlb := by
  simp [State.setDest]
@[simp] theorem State.setDest_tlbUsage (s : State) (c : WriteClass) (r : Byte) (v : Word) : (s.setDest c r v).tlbUsage = s.tlbUsage := by
  simp [State.setDest]
@[simp] theorem State.setDest_idmem (s : State) (c : WriteClass) (r : Byte) (v : Word) : (s.setDest c r v).idmem = s.idmem := by
  simp [State.setDest]
@[simp] theorem State.setDest_imem (s : State) (c : WriteClass) (r : Byte) (v : Word) : (s.setDest c r v).imem = s.imem := by
  simp [State.setDest]
@[simp] theorem State.setDest_irom (s : State) (c : WriteClass) (r : Byte) (v : Word) : (s.setDest c r v).irom = s.irom := by
  simp [State.setDest]
@[simp] theorem State.setDest_btc (s : State) (c : WriteClass) (r : Byte) (v : Word) : (s.setDest c r v).btc = s.btc := by
  simp [State.setDest]
@[simp] theorem State.setDest_prefetched (s : State) (c : WriteClass) (r : Byte) (v : Word) : (s.setDest c r v).prefetched = s.prefetched := by
  simp [State.setDest]
@[simp] theorem State.setDest_early (s : State) (c : WriteClass) (r : Byte) (v : Word) : (s.setDest c r v).early = s.early := by
  simp [State.setDest]
@[simp] theorem State.setDest_oldFetch (s : State) (c : WriteClass) (r : Byte) (v : Word) : (s.setDest c r v).oldFetch = s.oldFetch := by
  simp [State.setDest]
@[simp] theorem State.setDest_hz (s : State) (c : WriteClass) (r : Byte) (v : Word) : (s.setDest c r v).hz = s.hz := by
  simp [State.setDest]
@[simp] theorem State.setDest_fzWindow (s : State) (c : WriteClass) (r : Byte) (v : Word) : (s.setDest c r v).fzWindow = s.fzWindow := by
  simp [State.setDest]
@[simp] theorem State.setDest_derrEvent (s : State) (c : WriteClass) (r : Byte) (v : Word) : (s.setDest c r v).derrEvent = s.derrEvent := by
  simp [State.setDest]
@[simp] theorem State.setDest_derrLeft (s : State) (c : WriteClass) (r : Byte) (v : Word) : (s.setDest c r v).derrLeft = s.derrLeft := by
  simp [State.setDest]
@[simp] theorem State.setDest_derrLoad (s : State) (c : WriteClass) (r : Byte) (v : Word) : (s.setDest c r v).derrLoad = s.derrLoad := by
  simp [State.setDest]
@[simp] theorem State.setDest_warnPending (s : State) (c : WriteClass) (r : Byte) (v : Word) : (s.setDest c r v).warnPending = s.warnPending := by
  simp [State.setDest]
@[simp] theorem State.setDest_opMode (s : State) (c : WriteClass) (r : Byte) (v : Word) : (s.setDest c r v).opMode = s.opMode := by
  simp [State.setDest]
@[simp] theorem State.setDest_debugger (s : State) (c : WriteClass) (r : Byte) (v : Word) : (s.setDest c r v).debugger = s.debugger := by
  simp [State.setDest]
@[simp] theorem State.setDest_holes (s : State) (c : WriteClass) (r : Byte) (v : Word) : (s.setDest c r v).holes = s.holes := by
  simp [State.setDest]
@[simp] theorem State.setDest_cur (s : State) (c : WriteClass) (r : Byte) (v : Word) : (s.setDest c r v).cur = s.cur := by
  simp [State.setDest]
@[simp] theorem State.setDest_inputs (s : State) (c : WriteClass) (r : Byte) (v : Word) : (s.setDest c r v).inputs = s.inputs := by
  simp [State.setDest]
@[simp] theorem State.setDest_accesses (s : State) (c : WriteClass) (r : Byte) (v : Word) : (s.setDest c r v).accesses = s.accesses := by
  simp [State.setDest]
@[simp] theorem State.setDest_fresh (s : State) (c : WriteClass) (r : Byte) (v : Word) : (s.setDest c r v).fresh = s.fresh := by
  simp [State.setDest]

@[simp] theorem State.putDouble_pc (s : State) (n : Byte) (v : DWord) : (s.putDouble n v).pc = s.pc := by
  simp [State.putDouble]
@[simp] theorem State.putDouble_npc (s : State) (n : Byte) (v : DWord) : (s.putDouble n v).npc = s.npc := by
  simp [State.putDouble]
@[simp] theorem State.putDouble_lastpc (s : State) (n : Byte) (v : DWord) : (s.putDouble n v).lastpc = s.lastpc := by
  simp [State.putDouble]
@[simp] theorem State.putDouble_lastpcKnown (s : State) (n : Byte) (v : DWord) : (s.putDouble n v).lastpcKnown = s.lastpcKnown := by
  simp [State.putDouble]
@[simp] theorem State.putDouble_pcSeq (s : State) (n : Byte) (v : DWord) : (s.putDouble n v).pcSeq = s.pcSeq := by
  simp [State.putDouble]
@[simp] theorem State.putDouble_npcSeq (s : State) (n : Byte) (v : DWord) : (s.putDouble n v).npcSeq = s.npcSeq := by
  simp [State.putDouble]
@[simp] theorem State.putDouble_acc (s : State) (n : Byte) (v : DWord) : (s.putDouble n v).acc = s.acc := by
  simp [State.putDouble]
@[simp] theorem State.putDouble_cps (s : State) (n : Byte) (v : DWord) : (s.putDouble n v).cps = s.cps := by
  simp [State.putDouble]
@[simp] theorem State.putDouble_alu (s : State) (n : Byte) (v : DWord) : (s.putDouble n v).alu = s.alu := by
  simp [State.putDouble]
@[simp] theorem State.putDouble_sr (s : State) (n : Byte) (v : DWord) : (s.putDouble n v).sr = s.sr := by
  simp [State.putDouble]
@[simp] theorem State.putDouble_tlb (s : State) (n : Byte) (v : DWord) : (s.putDouble n v).tlb = s.tlb := by
  simp [State.putDouble]
@[simp] theorem State.putDouble_tlbUsage (s : State) (n : Byte) (v : DWord) : (s.putDouble n v).tlbUsage = s.tlbUsage := by
  simp [State.putDouble]
@[simp] theorem State.putDouble_idmem (s : State) (n : Byte) (v : DWord) : (s.putDouble n v).idmem = s.idmem := by
  simp [State.putDouble]
@[simp] theorem State.putDouble_imem (s : State) (n : Byte) (v : DWord) : (s.putDouble n v).imem = s.imem := by
  simp [State.putDouble]
@[simp] theorem State.putDouble_irom (s : State) (n : Byte) (v : DWord) : (s.putDouble n v).irom = s.irom := by
  simp [State.putDouble]
@[simp] theorem State.putDouble_btc (s : State) (n : Byte) (v : DWord) : (s.putDouble n v).btc = s.btc := by
  simp [State.putDouble]
@[simp] theorem State.putDouble_prefetched (s : State) (n : Byte) (v : DWord) : (s.putDouble n v).prefetched = s.prefetched := by
  simp [State.putDouble]
@[simp] theorem State.putDouble_early (s : State) (n : Byte) (v : DWord) : (s.putDouble n v).early = s.early := by
  simp [State.putDouble]
@[simp] theorem State.putDouble_oldFetch (s : State) (n : Byte) (v : DWord) : (s.putDouble n v).oldFetch = s.oldFetch := by
  simp [State.putDouble]
@[simp] theorem State.putDouble_hz (s : State) (n : Byte) (v : DWord) : (s.putDouble n v).hz = s.hz := by
  simp [State.putDouble]
@[simp] theorem State.putDouble_fzWindow (s : State) (n : Byte) (v : DWord) : (s.putDouble n v).fzWindow = s.fzWindow := by
  simp [State.putDouble]
@[simp] theorem State.putDouble_derrEvent (s : State) (n : Byte) (v : DWord) : (s.putDouble n v).derrEvent = s.derrEvent := by
  simp [State.putDouble]
@[simp] theorem State.putDouble_derrLeft (s : State) (n : Byte) (v : DWord) : (s.putDouble n v).derrLeft = s.derrLeft := by
  simp [State.putDouble]
@[simp] theorem State.putDouble_derrLoad (s : State) (n : Byte) (v : DWord) : (s.putDouble n v).derrLoad = s.derrLoad := by
  simp [State.putDouble]
@[simp] theorem State.putDouble_warnPending (s : State) (n : Byte) (v : DWord) : (s.putDouble n v).warnPending = s.warnPending := by
  simp [State.putDouble]
@[simp] theorem State.putDouble_opMode (s : State) (n : Byte) (v : DWord) : (s.putDouble n v).opMode = s.opMode := by
  simp [State.putDouble]
@[simp] theorem State.putDouble_debugger (s : State) (n : Byte) (v : DWord) : (s.putDouble n v).debugger = s.debugger := by
  simp [State.putDouble]
@[simp] theorem State.putDouble_holes (s : State) (n : Byte) (v : DWord) : (s.putDouble n v).holes = s.holes := by
  simp [State.putDouble]
@[simp] theorem State.putDouble_cur (s : State) (n : Byte) (v : DWord) : (s.putDouble n v).cur = s.cur := by
  simp [State.putDouble]
@[simp] theorem State.putDouble_inputs (s : State) (n : Byte) (v : DWord) : (s.putDouble n v).inputs = s.inputs := by
  simp [State.putDouble]
@[simp] theorem State.putDouble_accesses (s : State) (n : Byte) (v : DWord) : (s.putDouble n v).accesses = s.accesses := by
  simp [State.putDouble]
@[simp] theorem State.putDouble_fresh (s : State) (n : Byte) (v : DWord) : (s.putDouble n v).fresh = s.fresh := by
  simp [State.putDouble]

@[simp] theorem State.afterSum_pc (s : State) (c : WriteClass) (r : Byte) (x : Sum) : (s.afterSum c r x).pc = s.pc := by
  simp [State.afterSum, State.setDest]
@[simp] theorem State.afterSum_npc (s : State) (c : WriteClass) (r : Byte) (x : Sum) : (s.afterSum c r x).npc = s.npc := by
  simp [State.afterSum, State.setDest]
@[simp] theorem State.afterSum_lastpc (s : State) (c : WriteClass) (r : Byte) (x : Sum) : (s.afterSum c r x).lastpc = s.lastpc := by
  simp [State.afterSum, State.setDest]
@[simp] theorem State.afterSum_lastpcKnown (s : State) (c : WriteClass) (r : Byte) (x : Sum) : (s.afterSum c r x).lastpcKnown = s.lastpcKnown := by
  simp [State.afterSum, State.setDest]
@[simp] theorem State.afterSum_pcSeq (s : State) (c : WriteClass) (r : Byte) (x : Sum) : (s.afterSum c r x).pcSeq = s.pcSeq := by
  simp [State.afterSum, State.setDest]
@[simp] theorem State.afterSum_npcSeq (s : State) (c : WriteClass) (r : Byte) (x : Sum) : (s.afterSum c r x).npcSeq = s.npcSeq := by
  simp [State.afterSum, State.setDest]
@[simp] theorem State.afterSum_acc (s : State) (c : WriteClass) (r : Byte) (x : Sum) : (s.afterSum c r x).acc = s.acc := by
  simp [State.afterSum, State.setDest]
@[simp] theorem State.afterSum_cps (s : State) (c : WriteClass) (r : Byte) (x : Sum) : (s.afterSum c r x).cps = s.cps := by
  simp [State.afterSum, State.setDest]
@[simp] theorem State.afterSum_sr (s : State) (c : WriteClass) (r : Byte) (x : Sum) : (s.afterSum c r x).sr = s.sr := by
  simp [State.afterSum, State.setDest]
@[simp] theorem State.afterSum_tlb (s : State) (c : WriteClass) (r : Byte) (x : Sum) : (s.afterSum c r x).tlb = s.tlb := by
  simp [State.afterSum, State.setDest]
@[simp] theorem State.afterSum_tlbUsage (s : State) (c : WriteClass) (r : Byte) (x : Sum) : (s.afterSum c r x).tlbUsage = s.tlbUsage := by
  simp [State.afterSum, State.setDest]
@[simp] theorem State.afterSum_idmem (s : State) (c : WriteClass) (r : Byte) (x : Sum) : (s.afterSum c r x).idmem = s.idmem := by
  simp [State.afterSum, State.setDest]
@[simp] theorem State.afterSum_imem (s : State) (c : WriteClass) (r : Byte) (x : Sum) : (s.afterSum c r x).imem = s.imem := by
  simp [State.afterSum, State.setDest]
@[simp] theorem State.afterSum_irom (s : State) (c : WriteClass) (r : Byte) (x : Sum) : (s.afterSum c r x).irom = s.irom := by
  simp [State.afterSum, State.setDest]
@[simp] theorem State.afterSum_btc (s : State) (c : WriteClass) (r : Byte) (x : Sum) : (s.afterSum c r x).btc = s.btc := by
  simp [State.afterSum, State.setDest]
@[simp] theorem State.afterSum_prefetched (s : State) (c : WriteClass) (r : Byte) (x : Sum) : (s.afterSum c r x).prefetched = s.prefetched := by
  simp [State.afterSum, State.setDest]
@[simp] theorem State.afterSum_early (s : State) (c : WriteClass) (r : Byte) (x : Sum) : (s.afterSum c r x).early = s.early := by
  simp [State.afterSum, State.setDest]
@[simp] theorem State.afterSum_oldFetch (s : State) (c : WriteClass) (r : Byte) (x : Sum) : (s.afterSum c r x).oldFetch = s.oldFetch := by
  simp [State.afterSum, State.setDest]
@[simp] theorem State.afterSum_hz (s : State) (c : WriteClass) (r : Byte) (x : Sum) : (s.afterSum c r x).hz = s.hz := by
  simp [State.afterSum, State.setDest]
@[simp] theorem State.afterSum_fzWindow (s : State) (c : WriteClass) (r : Byte) (x : Sum) : (s.afterSum c r x).fzWindow = s.fzWindow := by
  simp [State.afterSum, State.setDest]
@[simp] theorem State.afterSum_derrEvent (s : State) (c : WriteClass) (r : Byte) (x : Sum) : (s.afterSum c r x).derrEvent = s.derrEvent := by
  simp [State.afterSum, State.setDest]
@[simp] theorem State.afterSum_derrLeft (s : State) (c : WriteClass) (r : Byte) (x : Sum) : (s.afterSum c r x).derrLeft = s.derrLeft := by
  simp [State.afterSum, State.setDest]
@[simp] theorem State.afterSum_derrLoad (s : State) (c : WriteClass) (r : Byte) (x : Sum) : (s.afterSum c r x).derrLoad = s.derrLoad := by
  simp [State.afterSum, State.setDest]
@[simp] theorem State.afterSum_warnPending (s : State) (c : WriteClass) (r : Byte) (x : Sum) : (s.afterSum c r x).warnPending = s.warnPending := by
  simp [State.afterSum, State.setDest]
@[simp] theorem State.afterSum_opMode (s : State) (c : WriteClass) (r : Byte) (x : Sum) : (s.afterSum c r x).opMode = s.opMode := by
  simp [State.afterSum, State.setDest]
@[simp] theorem State.afterSum_debugger (s : State) (c : WriteClass) (r : Byte) (x : Sum) : (s.afterSum c r x).debugger = s.debugger := by
  simp [State.afterSum, State.setDest]
@[simp] theorem State.afterSum_holes (s : State) (c : WriteClass) (r : Byte) (x : Sum) : (s.afterSum c r x).holes = s.holes := by
  simp [State.afterSum, State.setDest]
@[simp] theorem State.afterSum_cur (s : State) (c : WriteClass) (r : Byte) (x : Sum) : (s.afterSum c r x).cur = s.cur := by
  simp [State.afterSum, State.setDest]
@[simp] theorem State.afterSum_inputs (s : State) (c : WriteClass) (r : Byte) (x : Sum) : (s.afterSum c r x).inputs = s.inputs := by
  simp [State.afterSum, State.setDest]
@[simp] theorem State.afterSum_accesses (s : State) (c : WriteClass) (r : Byte) (x : Sum) : (s.afterSum c r x).accesses = s.accesses := by
  simp [State.afterSum, State.setDest]
@[simp] theorem State.afterSum_fresh (s : State) (c : WriteClass) (r : Byte) (x : Sum) : (s.afterSum c r x).fresh = s.fresh := by
  simp [State.afterSum, State.setDest]

@[simp] theorem State.afterAccess_pc (s : State) (x : Xfer) : (s.afterAccess x).pc = s.pc := by
  simp [State.afterAccess]
@[simp] theorem State.afterAccess_npc (s : State) (x : Xfer) : (s.afterAccess x).npc = s.npc := by
  simp [State.afterAccess]
@[simp] theorem State.afterAccess_lastpc (s : State) (x : Xfer) : (s.afterAccess x).lastpc = s.lastpc := by
  simp [State.afterAccess]
@[simp] theorem State.afterAccess_lastpcKnown (s : State) (x : Xfer) : (s.afterAccess x).lastpcKnown = s.lastpcKnown := by
  simp [State.afterAccess]
@[simp] theorem State.afterAccess_pcSeq (s : State) (x : Xfer) : (s.afterAccess x).pcSeq = s.pcSeq := by
  simp [State.afterAccess]
@[simp] theorem State.afterAccess_npcSeq (s : State) (x : Xfer) : (s.afterAccess x).npcSeq = s.npcSeq := by
  simp [State.afterAccess]
@[simp] theorem State.afterAccess_sp (s : State) (x : Xfer) : (s.afterAccess x).sp = s.sp := by
  simp [State.afterAccess]
@[simp] theorem State.afterAccess_spShadow (s : State) (x : Xfer) : (s.afterAccess x).spShadow = s.spShadow := by
  simp [State.afterAccess]
@[simp] theorem State.afterAccess_spValid (s : State) (x : Xfer) : (s.afterAccess x).spValid = s.spValid := by
  simp [State.afterAccess]
@[simp] theorem State.afterAccess_cca (s : State) (x : Xfer) : (s.afterAccess x).cca = s.cca := by
  simp [State.afterAccess]
@[simp] theorem State.afterAccess_globals (s : State) (x : Xfer) : (s.afterAccess x).globals = s.globals := by
  simp [State.afterAccess]
@[simp] theorem State.afterAccess_locals (s : State) (x : Xfer) : (s.afterAccess x).locals = s.locals := by
  simp [State.afterAccess]
@[simp] theorem State.afterAccess_acc (s : State) (x : Xfer) : (s.afterAccess x).acc = s.acc := by
  simp [State.afterAccess]
@[simp] theorem State.afterAccess_sr (s : State) (x : Xfer) : (s.afterAccess x).sr = s.sr := by
  simp [State.afterAccess]
@[simp] theorem State.afterAccess_tlb (s : State) (x : Xfer) : (s.afterAccess x).tlb = s.tlb := by
  simp [State.afterAccess]
@[simp] theorem State.afterAccess_tlbUsage (s : State) (x : Xfer) : (s.afterAccess x).tlbUsage = s.tlbUsage := by
  simp [State.afterAccess]
@[simp] theorem State.afterAccess_idmem (s : State) (x : Xfer) : (s.afterAccess x).idmem = s.idmem := by
  simp [State.afterAccess]
@[simp] theorem State.afterAccess_imem (s : State) (x : Xfer) : (s.afterAccess x).imem = s.imem := by
  simp [State.afterAccess]
@[simp] theorem State.afterAccess_irom (s : State) (x : Xfer) : (s.afterAccess x).irom = s.irom := by
  simp [State.afterAccess]
@[simp] theorem State.afterAccess_btc (s : State) (x : Xfer) : (s.afterAccess x).btc = s.btc := by
  simp [State.afterAccess]
@[simp] theorem State.afterAccess_prefetched (s : State) (x : Xfer) : (s.afterAccess x).prefetched = s.prefetched := by
  simp [State.afterAccess]
@[simp] theorem State.afterAccess_early (s : State) (x : Xfer) : (s.afterAccess x).early = s.early := by
  simp [State.afterAccess]
@[simp] theorem State.afterAccess_oldFetch (s : State) (x : Xfer) : (s.afterAccess x).oldFetch = s.oldFetch := by
  simp [State.afterAccess]
@[simp] theorem State.afterAccess_hz (s : State) (x : Xfer) : (s.afterAccess x).hz = s.hz := by
  simp [State.afterAccess]
@[simp] theorem State.afterAccess_hzNext (s : State) (x : Xfer) : (s.afterAccess x).hzNext = s.hzNext := by
  simp [State.afterAccess]
@[simp] theorem State.afterAccess_fzWindow (s : State) (x : Xfer) : (s.afterAccess x).fzWindow = s.fzWindow := by
  simp [State.afterAccess]
@[simp] theorem State.afterAccess_derrEvent (s : State) (x : Xfer) : (s.afterAccess x).derrEvent = s.derrEvent := by
  simp [State.afterAccess]
@[simp] theorem State.afterAccess_derrLeft (s : State) (x : Xfer) : (s.afterAccess x).derrLeft = s.derrLeft := by
  simp [State.afterAccess]
@[simp] theorem State.afterAccess_derrLoad (s : State) (x : Xfer) : (s.afterAccess x).derrLoad = s.derrLoad := by
  simp [State.afterAccess]
@[simp] theorem State.afterAccess_warnPending (s : State) (x : Xfer) : (s.afterAccess x).warnPending = s.warnPending := by
  simp [State.afterAccess]
@[simp] theorem State.afterAccess_opMode (s : State) (x : Xfer) : (s.afterAccess x).opMode = s.opMode := by
  simp [State.afterAccess]
@[simp] theorem State.afterAccess_debugger (s : State) (x : Xfer) : (s.afterAccess x).debugger = s.debugger := by
  simp [State.afterAccess]
@[simp] theorem State.afterAccess_holes (s : State) (x : Xfer) : (s.afterAccess x).holes = s.holes := by
  simp [State.afterAccess]
@[simp] theorem State.afterAccess_cur (s : State) (x : Xfer) : (s.afterAccess x).cur = s.cur := by
  simp [State.afterAccess]
@[simp] theorem State.afterAccess_inputs (s : State) (x : Xfer) : (s.afterAccess x).inputs = s.inputs := by
  simp [State.afterAccess]
@[simp] theorem State.afterAccess_accesses (s : State) (x : Xfer) : (s.afterAccess x).accesses = s.accesses := by
  simp [State.afterAccess]
@[simp] theorem State.afterAccess_fresh (s : State) (x : Xfer) : (s.afterAccess x).fresh = s.fresh := by
  simp [State.afterAccess]

@[simp] theorem State.putFp_pc (s : State) (x : Fmt) (r : Byte) (v : DWord) : (s.putFp x r v).pc = s.pc := by
  cases x <;> simp [State.putFp]
@[simp] theorem State.putFp_npc (s : State) (x : Fmt) (r : Byte) (v : DWord) : (s.putFp x r v).npc = s.npc := by
  cases x <;> simp [State.putFp]
@[simp] theorem State.putFp_lastpc (s : State) (x : Fmt) (r : Byte) (v : DWord) : (s.putFp x r v).lastpc = s.lastpc := by
  cases x <;> simp [State.putFp]
@[simp] theorem State.putFp_lastpcKnown (s : State) (x : Fmt) (r : Byte) (v : DWord) : (s.putFp x r v).lastpcKnown = s.lastpcKnown := by
  cases x <;> simp [State.putFp]
@[simp] theorem State.putFp_pcSeq (s : State) (x : Fmt) (r : Byte) (v : DWord) : (s.putFp x r v).pcSeq = s.pcSeq := by
  cases x <;> simp [State.putFp]
@[simp] theorem State.putFp_npcSeq (s : State) (x : Fmt) (r : Byte) (v : DWord) : (s.putFp x r v).npcSeq = s.npcSeq := by
  cases x <;> simp [State.putFp]
@[simp] theorem State.putFp_acc (s : State) (x : Fmt) (r : Byte) (v : DWord) : (s.putFp x r v).acc = s.acc := by
  cases x <;> simp [State.putFp]
@[simp] theorem State.putFp_cps (s : State) (x : Fmt) (r : Byte) (v : DWord) : (s.putFp x r v).cps = s.cps := by
  cases x <;> simp [State.putFp]
@[simp] theorem State.putFp_alu (s : State) (x : Fmt) (r : Byte) (v : DWord) : (s.putFp x r v).alu = s.alu := by
  cases x <;> simp [State.putFp]
@[simp] theorem State.putFp_sr (s : State) (x : Fmt) (r : Byte) (v : DWord) : (s.putFp x r v).sr = s.sr := by
  cases x <;> simp [State.putFp]
@[simp] theorem State.putFp_tlb (s : State) (x : Fmt) (r : Byte) (v : DWord) : (s.putFp x r v).tlb = s.tlb := by
  cases x <;> simp [State.putFp]
@[simp] theorem State.putFp_tlbUsage (s : State) (x : Fmt) (r : Byte) (v : DWord) : (s.putFp x r v).tlbUsage = s.tlbUsage := by
  cases x <;> simp [State.putFp]
@[simp] theorem State.putFp_idmem (s : State) (x : Fmt) (r : Byte) (v : DWord) : (s.putFp x r v).idmem = s.idmem := by
  cases x <;> simp [State.putFp]
@[simp] theorem State.putFp_imem (s : State) (x : Fmt) (r : Byte) (v : DWord) : (s.putFp x r v).imem = s.imem := by
  cases x <;> simp [State.putFp]
@[simp] theorem State.putFp_irom (s : State) (x : Fmt) (r : Byte) (v : DWord) : (s.putFp x r v).irom = s.irom := by
  cases x <;> simp [State.putFp]
@[simp] theorem State.putFp_btc (s : State) (x : Fmt) (r : Byte) (v : DWord) : (s.putFp x r v).btc = s.btc := by
  cases x <;> simp [State.putFp]
@[simp] theorem State.putFp_prefetched (s : State) (x : Fmt) (r : Byte) (v : DWord) : (s.putFp x r v).prefetched = s.prefetched := by
  cases x <;> simp [State.putFp]
@[simp] theorem State.putFp_early (s : State) (x : Fmt) (r : Byte) (v : DWord) : (s.putFp x r v).early = s.early := by
  cases x <;> simp [State.putFp]
@[simp] theorem State.putFp_oldFetch (s : State) (x : Fmt) (r : Byte) (v : DWord) : (s.putFp x r v).oldFetch = s.oldFetch := by
  cases x <;> simp [State.putFp]
@[simp] theorem State.putFp_hz (s : State) (x : Fmt) (r : Byte) (v : DWord) : (s.putFp x r v).hz = s.hz := by
  cases x <;> simp [State.putFp]
@[simp] theorem State.putFp_fzWindow (s : State) (x : Fmt) (r : Byte) (v : DWord) : (s.putFp x r v).fzWindow = s.fzWindow := by
  cases x <;> simp [State.putFp]
@[simp] theorem State.putFp_derrEvent (s : State) (x : Fmt) (r : Byte) (v : DWord) : (s.putFp x r v).derrEvent = s.derrEvent := by
  cases x <;> simp [State.putFp]
@[simp] theorem State.putFp_derrLeft (s : State) (x : Fmt) (r : Byte) (v : DWord) : (s.putFp x r v).derrLeft = s.derrLeft := by
  cases x <;> simp [State.putFp]
@[simp] theorem State.putFp_derrLoad (s : State) (x : Fmt) (r : Byte) (v : DWord) : (s.putFp x r v).derrLoad = s.derrLoad := by
  cases x <;> simp [State.putFp]
@[simp] theorem State.putFp_warnPending (s : State) (x : Fmt) (r : Byte) (v : DWord) : (s.putFp x r v).warnPending = s.warnPending := by
  cases x <;> simp [State.putFp]
@[simp] theorem State.putFp_opMode (s : State) (x : Fmt) (r : Byte) (v : DWord) : (s.putFp x r v).opMode = s.opMode := by
  cases x <;> simp [State.putFp]
@[simp] theorem State.putFp_debugger (s : State) (x : Fmt) (r : Byte) (v : DWord) : (s.putFp x r v).debugger = s.debugger := by
  cases x <;> simp [State.putFp]
@[simp] theorem State.putFp_holes (s : State) (x : Fmt) (r : Byte) (v : DWord) : (s.putFp x r v).holes = s.holes := by
  cases x <;> simp [State.putFp]
@[simp] theorem State.putFp_cur (s : State) (x : Fmt) (r : Byte) (v : DWord) : (s.putFp x r v).cur = s.cur := by
  cases x <;> simp [State.putFp]
@[simp] theorem State.putFp_inputs (s : State) (x : Fmt) (r : Byte) (v : DWord) : (s.putFp x r v).inputs = s.inputs := by
  cases x <;> simp [State.putFp]
@[simp] theorem State.putFp_accesses (s : State) (x : Fmt) (r : Byte) (v : DWord) : (s.putFp x r v).accesses = s.accesses := by
  cases x <;> simp [State.putFp]
@[simp] theorem State.putFp_fresh (s : State) (x : Fmt) (r : Byte) (v : DWord) : (s.putFp x r v).fresh = s.fresh := by
  cases x <;> simp [State.putFp]

end Sys2Proof.Machine
end

