-- ==== Sys2Proof/Laws/Encoding.lean ====
section
/-! SUPPORT. The fields of an instruction word and the word of four fields are inverse to each other. -/

namespace Sys2Proof

@[simp] theorem opField_wordOf (o c a b : Byte) : opField (wordOf o c a b) = o := by
  apply BitVec.eq_of_getLsbD_eq
  intro i hi
  simp only [opField, wordOf, BitVec.getLsbD_extractLsb', BitVec.getLsbD_append]
  have h1 : ¬ (24 + i < 8) := by omega
  have h2 : ¬ (24 + i - 8 < 8) := by omega
  have h3 : ¬ (24 + i - 8 - 8 < 8) := by omega
  have h4 : 24 + i - 8 - 8 - 8 = i := by omega
  simp [hi, h1, h2, h3, h4]

@[simp] theorem cField_wordOf (o c a b : Byte) : cField (wordOf o c a b) = c := by
  apply BitVec.eq_of_getLsbD_eq
  intro i hi
  simp only [cField, wordOf, BitVec.getLsbD_extractLsb', BitVec.getLsbD_append]
  have h1 : ¬ (16 + i < 8) := by omega
  have h2 : ¬ (16 + i - 8 < 8) := by omega
  have h3 : 16 + i - 8 - 8 = i := by omega
  simp [hi, h1, h2, h3]

@[simp] theorem aField_wordOf (o c a b : Byte) : aField (wordOf o c a b) = a := by
  apply BitVec.eq_of_getLsbD_eq
  intro i hi
  simp only [aField, wordOf, BitVec.getLsbD_extractLsb', BitVec.getLsbD_append]
  have h1 : ¬ (8 + i < 8) := by omega
  have h2 : 8 + i - 8 = i := by omega
  simp [hi, h1, h2]

@[simp] theorem bField_wordOf (o c a b : Byte) : bField (wordOf o c a b) = b := by
  apply BitVec.eq_of_getLsbD_eq
  intro i hi
  simp only [bField, wordOf, BitVec.getLsbD_extractLsb', BitVec.getLsbD_append]
  simp [hi]

theorem wordOf_fields (w : Word) : wordOf (opField w) (cField w) (aField w) (bField w) = w := by
  apply BitVec.eq_of_getLsbD_eq
  intro i hi
  simp only [wordOf, opField, cField, aField, bField, BitVec.getLsbD_append, BitVec.getLsbD_extractLsb']
  by_cases h1 : i < 8
  · simp [h1]
  · by_cases h2 : i - 8 < 8
    · have e : 8 + (i - 8) = i := by omega
      simp [h1, h2, e]
    · by_cases h3 : i - 8 - 8 < 8
      · have e : 16 + (i - 8 - 8) = i := by omega
        simp [h1, h2, h3, e]
      · have h4 : i - 8 - 8 - 8 < 8 := by omega
        have e : 24 + (i - 8 - 8 - 8) = i := by omega
        simp [h1, h2, h3, h4, e]

@[simp] theorem hi8_append_lo8 (i : BitVec 16) : hi8 i ++ lo8 i = i := by
  apply BitVec.eq_of_getLsbD_eq
  intro k hk
  simp only [hi8, lo8, BitVec.getLsbD_append, BitVec.getLsbD_extractLsb']
  by_cases h1 : k < 8
  · simp [h1]
  · have h2 : k - 8 < 8 := by omega
    have e : 8 + (k - 8) = k := by omega
    simp [h1, h2, e]

/-- Decoding a word of four fields is the choice its operation code makes among them. -/
theorem decode_wordOf {o c a b : Byte} {i : Instr} (h : decodeFields o.toNat c a b = some i) :
    decode (wordOf o c a b) = .ok i := by
  simp [decode, h]

end Sys2Proof
end

