-- ==== Sys2Proof/Laws/Memory.lean ====
section
/-! SUPPORT. The laws of memory: what a write changes, and the canonical form, which every memory operation keeps. -/

namespace Sys2Proof.Machine

@[simp] theorem readByte_nil (a : Nat) : readByte [] a = Config.memoryFill := rfl

theorem readByte_eraseByte (m : Memory) (a x : Nat) :
    readByte (eraseByte m a) x = if x = a then Config.memoryFill else readByte m x := by
  induction m with
  | nil => simp [eraseByte]
  | cons c m ih =>
    obtain ⟨k, b⟩ := c
    by_cases hk : k = a
    · subst hk
      by_cases hx : x = k
      · subst hx; simpa [eraseByte] using ih
      · simp [eraseByte, readByte, ih, hx, Ne.symm hx]
    · by_cases hx : k = x
      · subst hx; simp [eraseByte, readByte, hk]
      · simp [eraseByte, readByte, hk, hx, ih]

theorem readByte_insertByte (m : Memory) (a : Nat) (v : BitVec 8) (x : Nat) (h : ∀ b, (a, b) ∉ m) :
    readByte (insertByte m a v) x = if x = a then v else readByte m x := by
  induction m with
  | nil => simp [insertByte, readByte, eq_comm]
  | cons c m ih =>
    obtain ⟨k, b⟩ := c
    have hk : k ≠ a := fun e => h b (by simp [e])
    have ih' := ih fun b' hb => h b' (List.mem_cons_of_mem _ hb)
    by_cases hx : x = a
    · subst hx
      by_cases hl : x < k
      · simp [insertByte, readByte, hl]
      · simp [insertByte, readByte, hl, hk, ih']
    · by_cases hl : a < k
      · simp [insertByte, readByte, hl, hx, Ne.symm hx]
      · simp [insertByte, readByte, hl, ih', hx]

theorem mem_eraseByte {m : Memory} {a : Nat} {c : Host.Cell} (h : c ∈ eraseByte m a) : c ∈ m ∧ c.1 ≠ a := by
  induction m with
  | nil => simp [eraseByte] at h
  | cons d m ih =>
    obtain ⟨k, b⟩ := d
    by_cases hk : k = a
    · simp only [eraseByte, hk, if_true] at h
      exact ⟨List.mem_cons_of_mem _ (ih h).1, (ih h).2⟩
    · simp only [eraseByte, hk, if_false, List.mem_cons] at h
      rcases h with rfl | h
      · exact ⟨List.mem_cons_self, hk⟩
      · exact ⟨List.mem_cons_of_mem _ (ih h).1, (ih h).2⟩

/-- A byte written is what its address reads; every other address reads as before, on every list. -/
theorem readByte_writeByte (m : Memory) (a : Nat) (v : BitVec 8) (x : Nat) :
    readByte (writeByte m a v) x = if x = a then v else readByte m x := by
  unfold writeByte
  split
  · next h => simp [readByte_eraseByte, h]
  · rw [readByte_insertByte _ _ _ _ fun b hb => (mem_eraseByte hb).2 rfl, readByte_eraseByte]
    split <;> rfl

theorem wordBase_lt (a : Word) : wordBase a < 4294967296 := (alignWord a).isLt

theorem wordBase_mod (a : Word) : wordBase a % 4 = 0 := by
  have h : ∀ x : Word, (x &&& 4294967292#32).toNat % 4 = 0 := by
    intro x
    have : x &&& 4294967292#32 = (x >>> 2) <<< 2 := by
      ext i hi
      simp only [BitVec.getElem_and, BitVec.getElem_shiftLeft]
      by_cases h2 : i < 2
      · interval_cases i <;> simp
      · simp only [h2, decide_false, Bool.not_false, Bool.true_and, BitVec.getElem_ushiftRight]
        have : (4294967292#32)[i] = true := by interval_cases i <;> simp_all
        rw [this, Bool.and_true, ← BitVec.getLsbD_eq_getElem]
        congr 1; omega
    rw [this, BitVec.toNat_shiftLeft, BitVec.toNat_ushiftRight, Nat.shiftLeft_eq]
    omega
  exact h a

theorem wordBase_le (a : Word) : wordBase a ≤ 4294967292 := by
  have h := wordBase_lt a
  have h' := wordBase_mod a
  omega

/-- A word of a memory after one byte is written: unchanged when the byte is not one of its four. -/
theorem readWord_writeByte (m : Memory) (a : Word) (x : Nat) (v : BitVec 8) (h : x < wordBase a ∨ wordBase a + 3 < x) :
    readWord (writeByte m x v) a = readWord m a := by
  have h0 : ¬ wordBase a = x := by omega
  have h1 : ¬ wordBase a + 1 = x := by omega
  have h2 : ¬ wordBase a + 2 = x := by omega
  have h3 : ¬ wordBase a + 3 = x := by omega
  simp only [readWord, readByte_writeByte, h0, h1, h2, h3, if_false]

/-- Every byte after a word is written. -/
theorem readByte_writeWord (m : Memory) (a w : Word) (x : Nat) :
    readByte (writeWord m a w) x =
      if x = wordBase a + 3 then bField w
      else if x = wordBase a + 2 then aField w
      else if x = wordBase a + 1 then cField w
      else if x = wordBase a then opField w
      else readByte m x := by
  simp only [writeWord, readByte_writeByte]

/-- A word written is read back. -/
theorem readWord_writeWord (m : Memory) (a w : Word) : readWord (writeWord m a w) a = w := by
  simp only [readWord, readByte_writeWord]
  simp [wordOf_fields]

/-- Bytes outside the word are not changed by writing it. -/
theorem readByte_writeWord_outside (m : Memory) (a w : Word) (x : Nat) (h : x < wordBase a ∨ wordBase a + 3 < x) :
    readByte (writeWord m a w) x = readByte m x := by
  rw [readByte_writeWord, if_neg (by omega), if_neg (by omega), if_neg (by omega), if_neg (by omega)]

/-! ### The canonical form -/

theorem Memory.wf_cons (k : Nat) (b : BitVec 8) (m : Memory) :
    Memory.wf ((k, b) :: m) = true ↔
      k < 4294967296 ∧ b ≠ Config.memoryFill ∧ (∀ c ∈ m, k < c.1) ∧ Memory.wf m = true := by
  simp [Memory.wf, Bool.and_eq_true, and_assoc]

theorem Memory.wf_eraseByte {m : Memory} (a : Nat) (h : Memory.wf m = true) : Memory.wf (eraseByte m a) = true := by
  induction m with
  | nil => rfl
  | cons c m ih =>
    obtain ⟨k, b⟩ := c
    obtain ⟨hk, hb, hm, hw⟩ := (Memory.wf_cons k b m).1 h
    by_cases e : k = a
    · simpa [eraseByte, e] using ih hw
    · simp only [eraseByte, e, if_false]
      exact (Memory.wf_cons _ _ _).2 ⟨hk, hb, fun c hc => hm c (mem_eraseByte hc).1, ih hw⟩

theorem mem_insertByte {m : Memory} {a : Nat} {v : BitVec 8} {c : Host.Cell} (h : c ∈ insertByte m a v) :
    c = (a, v) ∨ c ∈ m := by
  induction m with
  | nil => simpa [insertByte] using h
  | cons d m ih =>
    obtain ⟨k, b⟩ := d
    unfold insertByte at h
    split at h
    · simpa using h
    · rcases List.mem_cons.1 h with rfl | h
      · simp
      · rcases ih h with e | e
        · exact .inl e
        · exact .inr (List.mem_cons_of_mem _ e)

theorem Memory.wf_insertByte {m : Memory} {a : Nat} {v : BitVec 8} (h : Memory.wf m = true) (ha : a < 4294967296)
    (hv : v ≠ Config.memoryFill) (hn : ∀ c ∈ m, c.1 ≠ a) : Memory.wf (insertByte m a v) = true := by
  induction m with
  | nil => exact (Memory.wf_cons _ _ _).2 ⟨ha, hv, by simp, rfl⟩
  | cons c m ih =>
    obtain ⟨k, b⟩ := c
    obtain ⟨hk, hb, hm, hw⟩ := (Memory.wf_cons k b m).1 h
    unfold insertByte
    split
    · next hl =>
      refine (Memory.wf_cons _ _ _).2 ⟨ha, hv, fun c hc => ?_, h⟩
      rcases List.mem_cons.1 hc with rfl | hc
      · exact hl
      · exact lt_trans hl (hm c hc)
    · next hl =>
      have hka : k ≠ a := hn (k, b) List.mem_cons_self
      refine (Memory.wf_cons _ _ _).2 ⟨hk, hb, fun c hc => ?_, ih hw fun c hc => hn c (List.mem_cons_of_mem _ hc)⟩
      rcases mem_insertByte hc with rfl | hc
      · show k < a
        omega
      · exact hm c hc

/-- Writing a byte below 2^32 keeps the canonical form. -/
theorem Memory.wf_writeByte {m : Memory} {a : Nat} (v : BitVec 8) (h : Memory.wf m = true) (ha : a < 4294967296) :
    Memory.wf (writeByte m a v) = true := by
  unfold writeByte
  split
  · exact Memory.wf_eraseByte a h
  · next hv => exact Memory.wf_insertByte (Memory.wf_eraseByte a h) ha hv fun c hc => (mem_eraseByte hc).2

/-- Writing a word keeps the canonical form. -/
theorem Memory.wf_writeWord {m : Memory} (a w : Word) (h : Memory.wf m = true) : Memory.wf (writeWord m a w) = true := by
  have hb := wordBase_le a
  unfold writeWord
  exact Memory.wf_writeByte _ (Memory.wf_writeByte _ (Memory.wf_writeByte _ (Memory.wf_writeByte _ h (by omega))
    (by omega)) (by omega)) (by omega)

/-- Writing a byte lane keeps the canonical form. -/
theorem Memory.wf_writeLane {m : Memory} (a : Word) (k : Nat) (v : Byte) (h : Memory.wf m = true) :
    Memory.wf (writeLane m a k v) = true :=
  Memory.wf_writeByte _ h (by have := wordBase_le a; omega)

/-- Writing a half-word lane keeps the canonical form. -/
theorem Memory.wf_writeHalf {m : Memory} (a : Word) (k : Nat) (v : BitVec 16) (h : Memory.wf m = true) :
    Memory.wf (writeHalf m a k v) = true :=
  Memory.wf_writeLane _ _ _ (Memory.wf_writeLane _ _ _ h)

/-- A store of any width keeps the canonical form. -/
theorem Memory.wf_storeMemory (s : State) {m : Memory} (c : Byte) (a v : Word) (h : Memory.wf m = true) :
    Memory.wf (s.storeMemory m c a v) = true := by
  unfold State.storeMemory
  split
  · exact Memory.wf_writeLane _ _ _ h
  · split
    · exact Memory.wf_writeHalf _ _ _ h
    · exact Memory.wf_writeWord _ _ h

/-- The memories of the machine after reset are in canonical form. -/
theorem State.reset_memory_wf : Memory.wf State.reset.idmem = true ∧ Memory.wf State.reset.irom = true ∧
    State.reset.imem = none := ⟨rfl, rfl, rfl⟩

/-- Two memories in canonical form that read the same everywhere are the same list. -/
theorem Memory.ext_of_wf {m m' : Memory} (h : Memory.wf m = true) (h' : Memory.wf m' = true)
    (e : ∀ a, readByte m a = readByte m' a) : m = m' := by
  have out : ∀ (m : Memory) (a : Nat), (∀ c ∈ m, a < c.1) → readByte m a = Config.memoryFill := by
    intro m a hm
    induction m with
    | nil => rfl
    | cons c m ih =>
      obtain ⟨k, b⟩ := c
      have hk : a < k := hm (k, b) List.mem_cons_self
      simp only [readByte, if_neg (Nat.ne_of_gt hk)]
      exact ih fun c hc => hm c (List.mem_cons_of_mem _ hc)
  induction m generalizing m' with
  | nil =>
    cases m' with
    | nil => rfl
    | cons c m' =>
      obtain ⟨k, b⟩ := c
      obtain ⟨-, hb, -, -⟩ := (Memory.wf_cons k b m').1 h'
      exact absurd (by simpa [readByte] using (e k).symm) hb
  | cons c m ih =>
    obtain ⟨k, b⟩ := c
    obtain ⟨-, hb, hm, hw⟩ := (Memory.wf_cons k b m).1 h
    cases m' with
    | nil => exact absurd (by simpa [readByte] using e k) hb
    | cons c' m' =>
      obtain ⟨k', b'⟩ := c'
      obtain ⟨-, hb', hm', hw'⟩ := (Memory.wf_cons k' b' m').1 h'
      have hkk : k = k' := by
        rcases Nat.lt_trichotomy k k' with l | l | l
        · have r := e k
          simp only [readByte, if_true, if_neg (Nat.ne_of_gt l)] at r
          rw [out m' k fun c hc => lt_trans l (hm' c hc)] at r
          exact absurd r hb
        · exact l
        · have r := e k'
          simp only [readByte, if_true, if_neg (Nat.ne_of_gt l)] at r
          rw [out m k' fun c hc => lt_trans l (hm c hc)] at r
          exact absurd r.symm hb'
      subst hkk
      have hbb : b = b' := by simpa [readByte] using e k
      subst hbb
      rw [ih hw hw' fun a => ?_]
      by_cases ha : k = a
      · subst ha
        rw [out m k hm, out m' k hm']
      · simpa [readByte, ha] using e a

end Sys2Proof.Machine
end

