-- ==== Sys2Proof/Laws/Ops.lean ====
section
/-! SUPPORT. What each shared operation does, said once: reading a general register after a write, the checks before an
instruction, how an instruction ends, and the add primitive. -/

namespace Sys2Proof.Machine

/-! ### General registers -/

/-- Reading an element of a vector after one element is replaced. -/
theorem vector_getD_set {α : Type} {n : Nat} (v : Vector α n) (i j : Nat) (x d : α) (hi : i < n) :
    (v.setIfInBounds i x).getD j d = if j = i then x else v.getD j d := by
  simp only [Vector.getD, Vector.toArray_setIfInBounds, Array.getD_eq_getD_getElem?, Array.getElem?_setIfInBounds]
  by_cases h : i = j
  · subst h; simp [hi]
  · simp [h, Ne.symm h]

/-- A write to register 1, 2 or one from 64 on is what that register reads, and no other register changes. -/
theorem State.getGR_putGR (s : State) (c : WriteClass) (n m : Byte) (v : Word)
    (hn : n = 1#8 ∨ n = 2#8 ∨ 64 ≤ n.toNat) : (s.putGR c n v).getGR m = if m = n then v else s.getGR m := by
  have toNat_ne : ∀ {x y : Byte}, x ≠ y → x.toNat ≠ y.toNat := fun h e => h (BitVec.eq_of_toNat_eq e)
  have hm' : m ≠ n → m.toNat ≠ n.toNat := toNat_ne
  have hlt := n.isLt
  have hml := m.isLt
  by_cases h1 : n = 1#8
  · subst h1
    simp only [State.putGR, State.getGR, if_true]
    split_ifs <;> rfl
  by_cases h2 : n = 2#8
  · subst h2
    have e : ¬ 2#8 = 1#8 := by decide
    simp only [State.putGR, State.getGR, if_true, e, if_false]
    by_cases hm : m = 2#8
    · subst hm; simp only [e, if_true, if_false]
    · simp only [hm, if_false]
  have h64 : 64 ≤ n.toNat := by
    rcases hn with h | h | h
    · exact absurd h h1
    · exact absurd h h2
    · exact h
  have h3 : ¬ n = 3#8 := by rintro rfl; exact absurd h64 (by decide)
  have h64' : ¬ n.toNat < 64 := Nat.not_lt.2 h64
  by_cases hm : m = n
  · subst hm
    by_cases hg : m.toNat < 128
    · have l1 : m.toNat - 64 < 64 := by omega
      simp only [State.putGR, State.getGR, h1, h2, h3, h64', hg, if_false, if_true,
        vector_getD_set _ _ _ _ _ l1]
    · have l1 : m.toNat - 128 < 128 := by omega
      simp only [State.putGR, State.getGR, h1, h2, h3, h64', hg, if_false, if_true,
        vector_getD_set _ _ _ _ _ l1]
  · have hne := toNat_ne hm
    by_cases hg : n.toNat < 128
    · simp only [State.putGR, State.getGR, h1, h2, h3, h64', hg, hm, if_false, if_true]
      split_ifs <;> try rfl
      rw [vector_getD_set _ _ _ _ _ (by omega), if_neg (by omega)]
    · simp only [State.putGR, State.getGR, h1, h2, h3, h64', hg, hm, if_false]
      split_ifs <;> try rfl
      rw [vector_getD_set _ _ _ _ _ (by omega), if_neg (by omega)]

/-- A write through gr3 shifts its bit 31 into the accumulator and changes no other register (R30). -/
theorem State.getGR_putGR_shift (s : State) (c : WriteClass) (m : Byte) (v : Word) :
    (s.putGR c 3#8 v).getGR m = if m = 2#8 then (s.getGR 2#8 <<< 1) ||| (v >>> 31) else s.getGR m := by
  have e1 : ¬ 3#8 = 1#8 := by decide
  have e2 : ¬ 3#8 = 2#8 := by decide
  have e3 : ¬ 2#8 = 1#8 := by decide
  by_cases hm : m = 2#8
  · subst hm
    simp only [State.putGR, State.getGR, e1, e2, e3, if_true, if_false]
  · simp only [State.putGR, State.getGR, e1, e2, hm, if_true, if_false]

/-- A register number that no model fault stops is 1, 2, 3 or from 64 on. -/
theorem numberFault_none {n : Byte} (h : numberFault n = none) : n = 1#8 ∨ n = 2#8 ∨ n = 3#8 ∨ 64 ≤ n.toNat := by
  unfold numberFault at h
  split_ifs at h with h0 h4
  have hn : ¬ (4 ≤ n.toNat ∧ n.toNat < 64) := by simpa using h4
  have h0' : n.toNat ≠ 0 := fun e => h0 (BitVec.eq_of_toNat_eq (by simpa using e))
  by_cases h64 : 64 ≤ n.toNat
  · exact .inr (.inr (.inr h64))
  · have hlt : n.toNat < 4 := by omega
    have : n.toNat = 1 ∨ n.toNat = 2 ∨ n.toNat = 3 := by omega
    rcases this with e | e | e
    · exact .inl (BitVec.eq_of_toNat_eq (by simpa using e))
    · exact .inr (.inl (BitVec.eq_of_toNat_eq (by simpa using e)))
    · exact .inr (.inr (.inl (BitVec.eq_of_toNat_eq (by simpa using e))))

/-- A write to a register that no model fault stops leaves its result, and changes no other register. -/
theorem State.putGR_result (s : State) (c : WriteClass) {n : Byte} (v : Word) (h : numberFault n = none) :
    s.ResultIn (s.putGR c n v) n v ∧ s.RegsExcept (s.putGR c n v) (touched n) := by
  by_cases h3 : n = 3#8
  · subst h3
    refine ⟨?_, fun m hm => ?_⟩
    · simp [State.ResultIn, State.getGR_putGR_shift]
    · rw [State.getGR_putGR_shift, if_neg (by simpa [touched] using hm)]
  · have hn : n = 1#8 ∨ n = 2#8 ∨ 64 ≤ n.toNat := by
      rcases numberFault_none h with e | e | e | e
      · exact .inl e
      · exact .inr (.inl e)
      · exact absurd e h3
      · exact .inr (.inr e)
    refine ⟨?_, fun m hm => ?_⟩
    · simp [State.ResultIn, h3, State.getGR_putGR s c n n v hn]
    · rw [State.getGR_putGR s c n m v hn, if_neg (by simpa [touched, h3] using hm)]

/-! ### The checks before an instruction -/

/-- What it means that nothing stops an instruction: no protected register, and no model fault of a register use. -/
theorem State.regStop_none {s : State} {prot : Bool} {us : List RegUse} (h : s.regStop prot us = none) :
    prot = false ∧ ∀ u ∈ us, s.useProtected u = false ∧ s.useFault u = none := by
  unfold State.regStop at h
  split at h
  · simp at h
  next hp =>
  rw [Bool.or_eq_true, not_or] at hp
  split at h
  · simp at h
  · next hf =>
    refine ⟨by simpa using hp.1, fun u hu => ⟨?_, ?_⟩⟩
    · have := hp.2
      simp only [List.any_eq_true, not_exists, not_and] at this
      simpa using this u hu
    · exact List.findSome?_eq_none_iff.1 hf u hu

/-- A destination that nothing stops has a register number that can be written. -/
theorem State.dst_number {s : State} {u : RegUse} {c : WriteClass} (h : s.useFault u = none) (hu : u.use = .dst c) :
    numberFault (s.absReg u.pos u.field) = none := by
  unfold State.useFault at h
  split at h
  · simp at h
  · simp only [hu, State.dstFault] at h
    split at h
    · simp at h
    · assumption

@[simp] theorem State.guarded_none {s : State} {prot : Bool} {us : List RegUse} (body : Except Stop Done)
    (h : s.regStop prot us = none) : s.guarded prot us body = body := by
  simp [State.guarded, h]

@[simp] theorem finish_ok (op : Byte) (d : Done) : finish op (.ok d) = .next d.advance := rfl
@[simp] theorem finish_trap (op vn : Byte) (k : TrapKind) (s : State) :
    finish op (.error (.trap vn k s)) = s.takeInstTrap op vn k := rfl

/-! ### Updates that do not concern the general registers -/

/-- The general registers depend on four fields of the state. -/
theorem State.getGR_congr {s t : State} (h1 : t.sp = s.sp) (h2 : t.cca = s.cca) (h3 : t.globals = s.globals)
    (h4 : t.locals = s.locals) (n : Byte) : t.getGR n = s.getGR n := by
  simp only [State.getGR, h1, h2, h3, h4]

@[simp] theorem Done.advance_seq_getGR (s : State) (n : Byte) : (Done.seq s).advance.getGR n = s.getGR n := rfl
@[simp] theorem Done.advance_branch_getGR (s : State) (t : Word) (n : Byte) :
    (Done.branch s t).advance.getGR n = s.getGR n := rfl
@[simp] theorem State.setVNZC_getGR (s : State) (x : Sum) (w : Word) (n : Byte) :
    (s.setVNZC x w).getGR n = s.getGR n := State.getGR_congr (by simp) (by simp) (by simp) (by simp) n
@[simp] theorem State.setNZ_getGR (s : State) (w : Word) (n : Byte) : (s.setNZ w).getGR n = s.getGR n :=
  State.getGR_congr (by simp) (by simp) (by simp) (by simp) n
@[simp] theorem State.setDF_getGR (s : State) (b : Bool) (n : Byte) : (s.setDF b).getGR n = s.getGR n :=
  State.getGR_congr (by simp) (by simp) (by simp) (by simp) n

/-- A result written to DEST by an instruction that then goes on: everything `State.Writes` says, for any further
update that keeps the registers, the memories, the special registers, the accumulators and the TLB. -/
theorem State.writes_of {s t : State} {c : WriteClass} {n : Byte} {v : Word} (h : numberFault n = none)
    (hr : ∀ m, t.getGR m = (s.putGR c n v).getGR m) (h1 : t.idmem = s.idmem) (h2 : t.irom = s.irom) (h3 : t.sr = s.sr)
    (h4 : t.acc = s.acc) (h5 : t.tlb = s.tlb) (h6 : t.tlbUsage = s.tlbUsage) (h7 : t.imem = s.imem) :
    s.Writes t n v := by
  obtain ⟨a, b⟩ := s.putGR_result c v h
  refine ⟨?_, fun m hm => (hr m).trans (b m hm), fun x => by rw [h1, h2]; exact ⟨rfl, rfl, h7⟩, h3, h4, h5, h6⟩
  unfold State.ResultIn at a ⊢
  simpa only [hr] using a

/-- The states that differ in nothing a program sees but the status. -/
theorem State.sameGeneral_of {s t : State} (h1 : t.sp = s.sp) (h2 : t.cca = s.cca) (h3 : t.globals = s.globals)
    (h4 : t.locals = s.locals) (h5 : t.idmem = s.idmem) (h6 : t.irom = s.irom) (h7 : t.acc = s.acc) (h8 : t.tlb = s.tlb)
    (h9 : t.tlbUsage = s.tlbUsage) (h10 : t.imem = s.imem) : s.SameGeneral t :=
  ⟨fun n _ => State.getGR_congr h1 h2 h3 h4 n, fun a => by rw [h5, h6]; exact ⟨rfl, rfl, h10⟩, h7, h8, h9⟩

/-- The states in which every register and memory byte reads the same, with the special registers and flags. -/
theorem State.sameData_of {s t : State} (h1 : ∀ n, t.getGR n = s.getGR n) (h2 : t.idmem = s.idmem) (h3 : t.irom = s.irom)
    (h4 : t.sr = s.sr) (h5 : t.alu = s.alu) (h6 : t.acc = s.acc) (h7 : t.tlb = s.tlb) (h8 : t.tlbUsage = s.tlbUsage)
    (h9 : t.imem = s.imem) : s.SameData t :=
  ⟨fun n _ => h1 n, fun a => by rw [h2, h3]; exact ⟨rfl, rfl, h9⟩, h4, h5, h6, h7, h8⟩

/-- The destination of an instruction that nothing stops. -/
theorem State.dst_of_regStop {s : State} {p : Pos} {f : Byte} {c : WriteClass} {prot : Bool} {us : List RegUse}
    (h : s.regStop prot us = none) (hm : (⟨p, f, .dst c⟩ : RegUse) ∈ us) : numberFault (s.absReg p f) = none :=
  State.dst_number ((State.regStop_none h).2 _ hm).2 rfl

/-- A completed instruction that has left CPS alone leaves it with the trace copy. -/
theorem State.tracedCps_of {s t : State} (h : t.cps = s.cps) : t.tracedCps = s.withTrace s.cps := by
  unfold State.tracedCps State.withTrace State.mm State.te State.tp; rw [h]

/-- A meaning that only writes a result to a register completes with it. -/
theorem plainCompletes_of {i : Instr} {us : List RegUse} {p : Pos} {f : Byte} {c : WriteClass} {s : State} {w : Word}
    (he : exec i s = finish i.opcode (s.guarded false us (.ok (.seq (s.putGR c (s.absReg p f) w)))))
    (hm : (⟨p, f, .dst c⟩ : RegUse) ∈ us) : PlainCompletes i us (s.absReg p f) s w := by
  intro hreg
  refine ⟨_, by rw [he, State.guarded_none _ hreg]; rfl, ⟨by simp, by simp, by rw [Done.advance_seq_cps]; exact State.tracedCps_of (by simp)⟩, ?_, by simp⟩
  exact State.writes_of (c := c) (State.dst_of_regStop hreg hm) (fun m => by simp) (by simp) (by simp) (by simp) (by simp)
    (by simp) (by simp) (by simp)

/-! ### How an instruction ends -/

/-- An instruction that answers a next state has completed, or has taken a trap. -/
theorem finish_next {op : Byte} {r : Except Stop Done} {t : State} (h : finish op r = .next t) :
    (∃ d, r = .ok d ∧ t = d.advance) ∨ ∃ vn k u, r = .error (.trap vn k u) ∧ u.takeInstTrap op vn k = .next t := by
  rcases r with (f | ⟨vn, k, u⟩) | d
  · simp [finish] at h
  · exact .inr ⟨vn, k, u, rfl, h⟩
  · exact .inl ⟨d, rfl, by simpa [finish] using h.symm⟩

/-- What an instruction's checks can answer: its own rule, or a Protection Violation that changes nothing, or a fault. -/
theorem State.guarded_cases (s : State) (prot : Bool) (us : List RegUse) (body : Except Stop Done) :
    (s.regStop prot us = none ∧ s.guarded prot us body = body) ∨
      s.guarded prot us body = .error (.trap 5 .curr s) ∨ ∃ f, s.guarded prot us body = .error (.fault f) := by
  unfold State.guarded State.regStop
  by_cases h : (prot || us.any s.useProtected) = true
  · simp only [h, if_true]
    exact .inr (.inl trivial)
  · simp only [h]
    cases us.findSome? s.useFault with
    | some f => exact .inr (.inr ⟨f, rfl⟩)
    | none =>
      cases s.ccaBoth us
      · exact .inl ⟨rfl, rfl⟩
      · exact .inr (.inr ⟨_, rfl⟩)

/-- A trap of an instruction that answers a next state is an ordinary trap or, with DA = 1, a Monitor trap. -/
theorem State.takeInstTrap_next {s t : State} {op vn : Byte} {k : TrapKind} (h : s.takeInstTrap op vn k = .next t) :
    s.mm = false ∧
      ((s.da = true ∧ t = { s with sr := { s.sr with exop := op.setWidth 32 } }.monitorTrap vn k) ∨
        (s.da = false ∧ t = { s with sr := { s.sr with exop := op.setWidth 32 } }.ordinaryTrap vn k)) := by
  unfold State.takeInstTrap State.takeTrap at h
  split_ifs at h with h1 h2 h3
  · simp only [Host.Outcome.next.injEq] at h
    exact ⟨by simpa using h1, .inl ⟨h2, h.symm⟩⟩
  · simp only [Host.Outcome.next.injEq] at h
    exact ⟨by simpa using h1, .inr ⟨by simpa [State.da] using h2, h.symm⟩⟩

/-- Where an ordinary trap can be entered, it is. -/
theorem State.takeInstTrap_ready {s : State} (h : s.TrapReady) (op vn : Byte) (k : TrapKind) :
    s.takeInstTrap op vn k = .next (({ s with sr := { s.sr with exop := op.setWidth 32 } } : State).ordinaryTrap vn k) := by
  obtain ⟨h1, h2, h3⟩ := h
  unfold State.takeInstTrap State.takeTrap
  simp only [h1, Bool.false_eq_true, if_false]
  rw [if_neg (by simpa [State.da] using h2), if_neg]
  simpa [State.vectorFails, State.vf, State.missing] using h3 vn

/-- The special registers after PC0 to PC2 have recorded a trap. -/
theorem State.recordPcs_special (s : State) (a b c : Word) : (s.recordPcs a b c).sr =
    if bitOf s.cps 10 then s.sr
    else if s.fzWindow = 0 then { s.sr with pc0 := a, pc1 := b, pc2 := c }
    else { s.sr with
      pc0 := alignWord (Config.freeWord s.fresh)
      pc1 := alignWord (Config.freeWord (s.fresh + 1))
      pc2 := alignWord (Config.freeWord (s.fresh + 2)) } := by
  unfold State.recordPcs; split_ifs <;> rfl

/-! ### Branches -/

/-- A taken branch with no page-size hazard. -/
theorem State.takeBranch_ready (s u : State) (t : Word) (h : s.BranchReady) :
    u.takeBranch s t = .ok (.branch u t) := by
  unfold State.takeBranch
  rw [if_neg]
  rw [Bool.and_eq_true, State.targetTranslated]
  rintro ⟨h1, h2⟩
  rcases h h1 with h | h <;> simp [h] at h2

/-- The target of the direct branches as a number. -/
theorem State.target_eq (s : State) (a : Bool) (i : BitVec 16) : s.target a i =
    if a then BitVec.ofNat 32 (i.toNat * 4) else BitVec.ofInt 32 (s.pc.toInt + i.toInt * 4) := by
  unfold State.target
  cases a
  · simp only [Bool.false_eq_true, if_false]
    rw [BitVec.ofInt_add, BitVec.ofInt_mul]
    simp only [BitVec.ofInt_toInt, BitVec.ofInt_ofNat]
    have : BitVec.ofInt 32 i.toInt = i.signExtend 32 := rfl
    rw [this, BitVec.shiftLeft_eq_mul_twoPow]
    rfl
  · simp only [if_true]
    apply BitVec.eq_of_toNat_eq
    have hi := i.isLt
    simp [Nat.shiftLeft_eq]

/-! ### The add primitive (40_integer_arithmetic.md R301) -/

/-- The add primitive: the sum modulo 2^32, its carry-out and its two's-complement overflow. -/
theorem addCore_spec (x y : Word) (k : Bool) :
    (addCore x y k).r = x + y + (if k then 1 else 0) ∧
    ((addCore x y k).cout = true ↔ 2 ^ 32 ≤ x.toNat + y.toNat + (if k then 1 else 0)) ∧
    ((addCore x y k).v = true ↔
      (x.toInt + y.toInt + (if k then 1 else 0) < -2 ^ 31 ∨ 2 ^ 31 ≤ x.toInt + y.toInt + (if k then 1 else 0))) := by
  have hx := x.isLt
  have hy := y.isLt
  refine ⟨?_, ?_, ?_⟩
  · apply BitVec.eq_of_toNat_eq
    cases k <;> simp [addCore, BitVec.toNat_add]
  · cases k <;> simp [addCore]
  · simp only [addCore, BitVec.toInt_eq_toNat_cond, bne_iff_ne, ne_eq, decide_eq_decide]
    cases k <;> simp only [if_true, if_false, Bool.false_eq_true] <;> split_ifs <;> push_cast <;> omega

end Sys2Proof.Machine
end

