-- ==== Sys2Proof/Laws/Access.lean ====
section
/-! SUPPORT. What translating, locating and making a data access can do, each said once. -/

namespace Sys2Proof.Machine

/-! ### Where an access goes depends on the map alone -/

/-- Two states with the same translation: what it reads is the same in both. CPS.CA, which a coprocessor transfer may
change, is not among it. -/
structure State.SameMap (s t : State) : Prop where
  rma0 : t.sr.rma0 = s.sr.rma0
  rmc0 : t.sr.rmc0 = s.sr.rmc0
  rma1 : t.sr.rma1 = s.sr.rma1
  rmc1 : t.sr.rmc1 = s.sr.rmc1
  mmu : t.sr.mmu = s.sr.mmu
  tlb : t.tlb = s.tlb
  cps : ∀ k, k ≠ 15 → bitOf t.cps k = bitOf s.cps k
  ps : t.hz.ps = s.hz.ps
  holes : t.holes = s.holes

/-- What finding no place for an access may change: LRU, the Usage bits and the counter of free values. -/
def State.LruOnly (s t : State) : Prop :=
  t = { s with sr := { s.sr with lru := t.sr.lru }, tlbUsage := t.tlbUsage, fresh := t.fresh }

/-- What finding a place for an access may change: the Usage bits; to the same ones in both, if they are. -/
def State.UsageOnly (s t w w' : State) : Prop :=
  w' = { t with tlbUsage := w'.tlbUsage } ∧ w = { s with tlbUsage := w.tlbUsage } ∧
    (t.tlbUsage = s.tlbUsage → w'.tlbUsage = w.tlbUsage)

/-- Two translations, in `s` and in `t`, with one outcome. -/
def State.MirrorT (s t : State) : Translated → Translated → Prop
  | .ok p io w, .ok p' io' w' => p' = p ∧ io' = io ∧ s.UsageOnly t w w'
  | .miss w, .miss w' => s.LruOnly w ∧ t.LruOnly w'
  | .violation w, .violation w' => s.LruOnly w ∧ t.LruOnly w'
  | .fault f, .fault f' => f' = f
  | _, _ => False

/-- Two accesses, in `s` and in `t`, with one outcome. -/
def State.MirrorL (s t : State) : Located → Located → Prop
  | .found sp p w, .found sp' p' w' => sp' = sp ∧ p' = p ∧ s.UsageOnly t w w'
  | .absent w, .absent w' => s.UsageOnly t w w'
  | .trap vn w, .trap vn' w' => vn' = vn ∧ s.LruOnly w ∧ t.LruOnly w'
  | .fault f, .fault f' => f' = f
  | _, _ => False

theorem State.usageOnly_refl (s t : State) : s.UsageOnly t s t := ⟨rfl, rfl, id⟩

/-- Protection has one outcome in both states. -/
theorem State.protect_map {s t u v : State} (h : s.UsageOnly t u v) (w : Word) (user : Bool) (k : AccessKind) (p : Word)
    (io : Bool) : s.MirrorT t (u.protect w user k p io) (v.protect w user k p io) := by
  unfold State.protect
  split_ifs
  · exact ⟨rfl, rfl, h⟩
  · refine ⟨?_, ?_⟩
    · rw [h.2.1]; rfl
    · rw [h.1]; rfl

/-- A translation has one outcome in every state with the same map. -/
theorem State.translate_map {s t : State} (m : s.SameMap t) (v : Word) (user : Bool) (k : AccessKind) :
    s.MirrorT t (s.translate v user k) (t.translate v user k) := by
  have hw : ∀ n, t.tlbWord n = s.tlbWord n := fun n => by simp [State.tlbWord, m.tlb]
  have hp : t.pageSize = s.pageSize := by simp [State.pageSize, m.mmu]
  have hn : t.processNumber user = s.processNumber user := by simp [State.processNumber, State.pid, m.mmu]
  unfold State.translate State.tlbTranslate
  simp only [m.rma0, m.rmc0, m.rma1, m.rmc1, hw, hp, hn]
  split_ifs
  · rfl
  · exact State.protect_map (s.usageOnly_refl t) ..
  · rfl
  · exact State.protect_map (s.usageOnly_refl t) ..
  · rfl
  · exact State.protect_map ⟨rfl, rfl, fun e => by simp [State.useSet, e]⟩ ..
  · exact State.protect_map ⟨rfl, rfl, fun e => by simp [State.useSet, e]⟩ ..
  · exact ⟨rfl, rfl⟩

/-- An access is placed in both states or in neither. -/
theorem State.place_map {s t u v : State} (m : t.holes = s.holes) (h : s.UsageOnly t u v) (sp : Space) (p : Word) :
    s.MirrorL t (u.place sp p) (v.place sp p) := by
  have e : v.missing sp.map p = u.missing sp.map p := by unfold State.missing; rw [h.1, h.2.1]; simp only [m]
  unfold State.place
  rw [e]
  split_ifs
  · exact h
  · exact ⟨rfl, rfl, h⟩

/-- An access has one outcome in every state with the same map: what finding its place changes is LRU, the Usage bits
and the counter of free values. -/
theorem State.locate_map {s t : State} {x y : Xfer} (m : s.SameMap t) (h1 : y.ctl = x.ctl) (h2 : y.addr = x.addr)
    (h3 : y.kind = x.kind) : s.MirrorL t (s.locate x) (t.locate y) := by
  have e1 : t.dataTranslated x.ctl = s.dataTranslated x.ctl := by
    simp [State.dataTranslated, State.ePD, State.mm, m.cps]
  have e2 : t.dataUser x.ctl = s.dataUser x.ctl := by simp [State.dataUser, State.user, State.eSM, State.mm, m.cps]
  have e0 : t.user = s.user := by simp [State.user, State.eSM, State.mm, m.cps]
  have e3 : ∀ {u v : State}, s.UsageOnly t u v → ∀ a b, v.unaligned a b = u.unaligned a b := by
    intro u v h a b
    rw [h.1, h.2.1]; simp [State.unaligned, State.tu, m.cps]
  unfold State.locate
  simp only [h1, h2, h3, e0, e1, e2, m.ps, e3 (s.usageOnly_refl t)]
  have k := State.translate_map m x.addr (s.dataUser x.ctl) x.kind
  generalize s.translate x.addr (s.dataUser x.ctl) x.kind = a at k
  generalize t.translate x.addr (s.dataUser x.ctl) x.kind = b at k
  have r := s.usageOnly_refl t
  generalize (if s.user = true then (9#8) else 11) = vn
  split_ifs <;> try first | exact State.place_map m.holes r .. | rfl | exact ⟨rfl, rfl, rfl⟩
  all_goals
    cases a <;> cases b <;> first | exact k.elim | skip
  · next w p io w' =>
    obtain ⟨rfl, rfl, k⟩ := k
    simp only [e3 k]
    have l : s.LruOnly w := by rw [k.2.1]; rfl
    have l' : t.LruOnly w' := by rw [k.1]; rfl
    split_ifs
    · exact State.place_map m.holes k ..
    · exact ⟨rfl, l, l'⟩
    · exact State.place_map m.holes k ..
  · exact ⟨rfl, k⟩
  · exact ⟨rfl, k⟩
  · exact k
/-- An access is found at the same place in every state with the same map, and finding it writes only the Usage
bits. -/
theorem State.locate_found {s t w : State} {x y : Xfer} {sp : Space} {p : Word} (h : s.locate x = .found sp p w)
    (m : s.SameMap t) (h1 : y.ctl = x.ctl) (h2 : y.addr = x.addr) (h3 : y.kind = x.kind) :
    ∃ w', t.locate y = .found sp p w' ∧ w' = { t with tlbUsage := w'.tlbUsage } ∧
      (t.tlbUsage = s.tlbUsage → w'.tlbUsage = w.tlbUsage) := by
  have k := State.locate_map m h1 h2 h3
  rw [h] at k
  generalize t.locate y = r at k
  cases r <;> first | exact k.elim | skip
  obtain ⟨rfl, rfl, k⟩ := k
  exact ⟨_, rfl, k.1, k.2.2⟩

/-- An access that traps does so in every state with the same map. -/
theorem State.locate_trap {s t w : State} {x y : Xfer} {vn : Byte} (h : s.locate x = .trap vn w)
    (m : s.SameMap t) (h1 : y.ctl = x.ctl) (h2 : y.addr = x.addr) (h3 : y.kind = x.kind) :
    ∃ w', t.locate y = .trap vn w' ∧ t.LruOnly w' := by
  have k := State.locate_map m h1 h2 h3
  rw [h] at k
  generalize t.locate y = r at k
  cases r <;> first | exact k.elim | skip
  obtain ⟨rfl, _, k⟩ := k
  exact ⟨_, rfl, k⟩

/-- An access to an address that does not exist is one in every state with the same map. -/
theorem State.locate_absent {s t w : State} {x y : Xfer} (h : s.locate x = .absent w)
    (m : s.SameMap t) (h1 : y.ctl = x.ctl) (h2 : y.addr = x.addr) (h3 : y.kind = x.kind) :
    ∃ w', t.locate y = .absent w' ∧ w' = { t with tlbUsage := w'.tlbUsage } ∧
      (t.tlbUsage = s.tlbUsage → w'.tlbUsage = w.tlbUsage) := by
  have k := State.locate_map m h1 h2 h3
  rw [h] at k
  generalize t.locate y = r at k
  cases r <;> first | exact k.elim | skip
  exact ⟨_, rfl, k.1, k.2.2⟩

/-! ### Making an access -/

/-- The state before a single access is located. -/
theorem State.startChannel_map (s : State) (x : Xfer) (m : Bool) : s.SameMap (s.startChannel x m) := by
  constructor <;> intros <;> unfold State.startChannel <;> split_ifs <;> rfl

/-- The special registers once the channel registers tell an access. -/
theorem State.startChannel_special (s : State) (x : Xfer) (m : Bool) : (s.startChannel x m).sr = if s.frozen then s.sr else
   { s.sr with cha := x.addr, chd := if x.load then Config.freeWord s.fresh else x.data, chc := startChc s.sr.chc x m } := by
  unfold State.startChannel; split_ifs <;> rfl

/-- A found access is made at its place. -/
theorem State.access_found {s u : State} {x : Xfer} {sp : Space} {p : Word} (hl : s.locate x = .found sp p u) (hp : ctlCE x.ctl = true → s.cp = true)
  {t : State} (m : s.SameMap t) (hc : t.sr.cfg = s.sr.cfg) (h4 : t.tlbUsage = s.tlbUsage) : t.access x = ({ t with tlbUsage := u.tlbUsage }).performAt x sp p := by
  obtain ⟨w, a, b, c⟩ := State.locate_found hl m rfl rfl rfl
  unfold State.access
  rw [if_neg, a]
  · have e : w = { t with tlbUsage := u.tlbUsage } := by rw [← c h4]; exact b
    rw [e]
  · unfold State.cp at hp ⊢; rw [hc]
    cases h : ctlCE x.ctl
    · simp only [Bool.false_and, Bool.false_eq_true, not_false_iff]
    · simp only [hp h, Bool.not_true, Bool.and_false, Bool.false_eq_true, not_false_iff]

/-- A load answered without DERR. -/
theorem State.performAt_load {s : State} {x : Xfer} {sp : Space} {p : Word} (hd : s.derrNext = false) (hl : x.load = true) (hs : x.set = false) :
   s.performAt x sp p = .done (((s.bumpAccess.readSpace sp p).2.putGR .load x.reg (s.loadValue x.ctl x.addr (s.bumpAccess.readSpace sp p).1)).afterAccess x) := by
  unfold State.performAt
  rw [if_neg (by simp [hd]), if_pos hl]
  simp [hs]

/-- The word a read returns, and that it changes only the counter of free values. -/
theorem State.readSpace_answers (s : State) (sp : Space) (p : Word) : ∃ w n, s.readSpace sp p = (w, { s with fresh := n }) ∧ s.Answers sp p w := by
  cases sp
  · exact ⟨_, s.fresh, rfl, fun _ => rfl, by simp⟩
  · exact ⟨_, s.fresh, rfl, by simp, fun _ => rfl⟩
  · exact ⟨_, _, rfl, by simp, by simp⟩
  · exact ⟨_, _, rfl, by simp, by simp⟩

/-- A store answered without DERR. -/
theorem State.performAt_store {s : State} {x : Xfer} {sp : Space} {p : Word} (hd : s.derrNext = false)
    (hl : x.load = false) :
    s.performAt x sp p = .done ((s.bumpAccess.writeSpace sp x.ctl p x.data).afterAccess x) := by
  unfold State.performAt
  rw [if_neg (by simp [hd]), if_neg (by simp [hl])]

/-! ### The transfers of a sequence (44_data_movement.md R438) -/

/-- A transfer that others follow. -/
theorem transferLoop_next {n : Nat} {check : Bool → Byte → Option Fault} {s t : State}
    (hb : s.bankProtected s.targetRegister = false) (hc : check s.transfer.load s.transfer.reg = none)
    (h : (s.transferData s.transfer).access s.transfer = .done t) (hn : t.countRemaining ≠ 0) :
    transferLoop (n + 1) check s = transferLoop n sequenceFault t.nextTransfer := by
  simp [transferLoop, hb, hc, h, hn]

/-- The last transfer. -/
theorem transferLoop_last {n : Nat} {check : Bool → Byte → Option Fault} {s t : State}
    (hb : s.bankProtected s.targetRegister = false) (hc : check s.transfer.load s.transfer.reg = none)
    (h : (s.transferData s.transfer).access s.transfer = .done t) (hn : t.countRemaining = 0) :
    transferLoop (n + 1) check s = .done t.lastTransfer := by
  simp [transferLoop, hb, hc, h, hn]

/-- A transfer that is not made ends the sequence, as it is. -/
theorem transferLoop_ends {n : Nat} {check : Bool → Byte → Option Fault} {s : State}
    (hb : s.bankProtected s.targetRegister = false) (hc : check s.transfer.load s.transfer.reg = none)
    (h : ∀ t, (s.transferData s.transfer).access s.transfer ≠ .done t) :
    transferLoop (n + 1) check s = (s.transferData s.transfer).access s.transfer := by
  simp only [transferLoop, hb, hc, Bool.false_eq_true, if_false]

/-- A protected register ends it before its transfer. -/
theorem transferLoop_protected {n : Nat} {check : Bool → Byte → Option Fault} {s : State}
    (hb : s.bankProtected s.targetRegister = true) : transferLoop (n + 1) check s = .trap 5 s := by
  simp [transferLoop, hb]

end Sys2Proof.Machine
end

