-- ==== Sys2Proof/Laws/Float.lean ====
section
/-! SUPPORT. Rounding: what `roundAt` does, in the terms of `IsRounded`. -/

namespace Sys2Proof.Machine

/-- A multiple of the unit is its own rounding. -/
theorem IsRounded_self (mode : Rounding) (g : Int) (n : Int) :
    IsRounded mode g (n * (2 : ℝ) ^ g) (n * (2 : ℝ) ^ g) := by
  have hp : (0 : ℝ) < 2 ^ g := by positivity
  refine ⟨n, rfl, ?_⟩
  cases mode <;> simp <;> first
    | (constructor <;> first | positivity | nlinarith [mul_self_nonneg ((n : ℝ) * 2 ^ g)] | (intro h; exfalso; linarith))
    | positivity

/-- `roundAt` rounds as R503 says (46_floating_point.md). -/
theorem roundAt_isRounded (mode : Rounding) (neg : Bool) (m : Nat) (e g : Int) :
    IsRounded mode g (signFactor neg * m * (2 : ℝ) ^ e)
      (signFactor neg * (roundAt mode neg m e g).m * (2 : ℝ) ^ (roundAt mode neg m e g).e) := by
  unfold roundAt
  by_cases h : g ≤ e
  · have : signFactor neg * m * (2 : ℝ) ^ e =
        ((if neg then -(m * 2 ^ (e - g).toNat : Int) else (m * 2 ^ (e - g).toNat : Int)) : Int) * (2 : ℝ) ^ g := by
      have h2 : (2 : ℝ) ^ e = 2 ^ (e - g).toNat * 2 ^ g := by
        rw [← zpow_natCast, ← zpow_add₀ (by norm_num), Int.toNat_of_nonneg (by omega)]; congr 1; ring
      rw [h2]; cases neg <;> simp [signFactor] <;> ring
    simp only [h, if_true]
    rw [this]; exact IsRounded_self ..
  · simp only [h, if_false]
    set k := (g - e).toNat with hk
    have hk1 : 1 ≤ k := by omega
    have h2 : (2 : ℝ) ^ g = 2 ^ k * 2 ^ e := by
      rw [← zpow_natCast, ← zpow_add₀ (by norm_num), hk, Int.toNat_of_nonneg (by omega)]; congr 1; ring
    have hm : (m : ℝ) = (m / 2 ^ k : Nat) * 2 ^ k + (m % 2 ^ k : Nat) := by
      exact_mod_cast (Nat.div_add_mod' m (2 ^ k)).symm
    have hr : m % 2 ^ k < 2 ^ k := Nat.mod_lt _ (by positivity)
    generalize m / 2 ^ k = q at *
    generalize m % 2 ^ k = r at *
    have hh : (2 : ℝ) ^ k = 2 * (2 ^ (k - 1) : Nat) := by
      obtain ⟨j, hj⟩ := Nat.exists_eq_add_of_le hk1
      rw [hj]; simp [pow_add]
    have hrk : r < 2 * 2 ^ (k - 1) := by
      obtain ⟨j, hj⟩ := Nat.exists_eq_add_of_le hk1
      rw [hj] at hr ⊢; simpa [pow_add] using hr
    have hpe : (0 : ℝ) < 2 ^ e := by positivity
    generalize (2 : ℝ) ^ e = E at *
    generalize 2 ^ (k - 1) = hf at *
    have hr' : (r : ℝ) < 2 * hf := by exact_mod_cast hrk
    have hr0 : (0 : ℝ) ≤ r := by positivity
    have hq0 : (0 : ℝ) ≤ q := by positivity
    have hg : (2 : ℝ) ^ g = 2 * (hf * E) := by rw [h2, hh]; ring
    have hx : signFactor neg * m * E = signFactor neg * (q * (2 * (hf * E)) + r * E) := by rw [hm, hh]; ring
    rw [hx]
    have hf0 : (0 : ℝ) < hf := by
      have : 0 < hf := by omega
      exact_mod_cast this
    have hu : 0 < (hf : ℝ) * E := by positivity
    have ht0 : 0 ≤ (r : ℝ) * E := by positivity
    have ht : (r : ℝ) * E < 2 * (hf * E) := by nlinarith
    have ha : hf < r → (hf : ℝ) * E < r * E := fun h => by
      have : (hf : ℝ) < r := by exact_mod_cast h
      nlinarith
    have hb : ¬ hf < r → (r : ℝ) * E ≤ hf * E := fun h => by
      have : (r : ℝ) ≤ hf := by exact_mod_cast Nat.le_of_not_lt h
      nlinarith
    have hc : ¬ r = hf → (r : ℝ) * E ≠ hf * E := fun h h' => h (by
      have := mul_right_cancel₀ hpe.ne' h'
      exact_mod_cast this)
    have hq1 : r = hf → (r : ℝ) * E = hf * E := fun h => by rw [h]
    have hd : r ≠ 0 → 0 < (r : ℝ) * E := fun h => by positivity
    have hz : r = 0 → (r : ℝ) * E = 0 := fun h => by simp [h]
    have hq : 0 ≤ (q : ℝ) * (2 * (hf * E)) := by positivity
    generalize (r : ℝ) * E = t at *
    generalize (hf : ℝ) * E = u at *
    refine ⟨(if neg then -1 else 1) * (if roundsAway mode neg q r hf then q + 1 else q : Nat), ?_, ?_⟩
    · cases neg <;> simp [signFactor]
    · rw [hg]
      have habs : ∀ b : ℝ, |signFactor neg * b| = |b| := fun b => by cases neg <;> simp [signFactor]
      cases mode with
      | nearest =>
        have hb1 : |2 * u - t| = 2 * u - t := abs_of_pos (by linarith)
        have hb0 : |-t| = t := by rw [abs_neg, abs_of_nonneg ht0]
        by_cases haway : roundsAway .nearest neg q r hf = true
        · have e1 : signFactor neg * ((q + 1 : Nat) : ℝ) * (2 * u) - signFactor neg * (q * (2 * u) + t) =
            signFactor neg * (2 * u - t) := by push_cast; ring
          simp only [haway, if_true, e1, habs, hb1]
          simp only [roundsAway, Bool.or_eq_true, decide_eq_true_eq, Bool.and_eq_true, beq_iff_eq] at haway
          rcases haway with h | ⟨h, h'⟩
          · have := ha h
            exact ⟨by linarith, fun h2 => by exfalso; linarith⟩
          · have := hq1 h
            exact ⟨by linarith, fun _ => by cases neg <;> simp <;> omega⟩
        · have e1 : signFactor neg * ((q : Nat) : ℝ) * (2 * u) - signFactor neg * (q * (2 * u) + t) =
            signFactor neg * (-t) := by ring
          simp only [haway, Bool.false_eq_true, if_false, e1, habs, hb0]
          simp only [roundsAway, Bool.or_eq_true, decide_eq_true_eq, Bool.and_eq_true, beq_iff_eq, not_or,
            not_and] at haway
          have := hb haway.1
          refine ⟨by linarith, fun h2 => ?_⟩
          by_cases h3 : r = hf
          · have := haway.2 h3
            cases neg <;> simp <;> omega
          · exact absurd (by linarith) (hc h3)
      | down =>
        by_cases h0 : r = 0
        · have := hz h0
          cases neg <;> simp [roundsAway, signFactor, h0] <;> constructor <;> linarith
        · have := hd h0
          cases neg <;> simp [roundsAway, signFactor, h0] <;> constructor <;> linarith
      | up =>
        by_cases h0 : r = 0
        · have := hz h0
          cases neg <;> simp [roundsAway, signFactor, h0] <;> constructor <;> linarith
        · have := hd h0
          cases neg <;> simp [roundsAway, signFactor, h0] <;> constructor <;> linarith
      | zero =>
        have e1 : |(q : ℝ) * (2 * u)| = q * (2 * u) := abs_of_nonneg hq
        have e2 : |(q : ℝ) * (2 * u) + t| = q * (2 * u) + t := abs_of_nonneg (by linarith)
        have e3 : signFactor neg * signFactor neg = 1 := by cases neg <;> simp [signFactor]
        simp only [roundsAway, Bool.false_eq_true, if_false]
        rw [mul_assoc, habs, habs, e1, e2,
          show signFactor neg * ((q : ℝ) * (2 * u)) * (signFactor neg * (q * (2 * u) + t)) =
          (signFactor neg * signFactor neg) * (q * (2 * u) * (q * (2 * u) + t)) by ring, e3]
        exact ⟨by linarith, by linarith, by positivity⟩
end Sys2Proof.Machine
end

