-- ==== Sys2Proof/Laws/Sequence.lean ====
section
/-! SUPPORT. What the decision before an instruction can do while the trap of a DERR answer is outstanding, and what a
fetch finds where nothing is outstanding. -/

namespace Sys2Proof.Machine

/-! ### Fetching -/

@[simp] theorem agedFetch_nil : agedFetch [] = [] := rfl

/-- One fetch later a change of RE, PI or SM that has not taken effect is one of those before, one fetch nearer. -/
theorem mem_agedFetch {o : OldFetch} {os : List OldFetch} (h : o ∈ agedFetch os) :
    ∃ p ∈ os, 1 < p.left ∧ o = { p with left := p.left - 1 } := by
  obtain ⟨p, hp, rfl⟩ := List.mem_map.1 h
  exact ⟨p, (List.takeWhile_prefix _).subset hp, by simpa using List.mem_takeWhile_imp hp, rfl⟩

/-- Where no change is outstanding, fetches use the bits of CPS. -/
theorem State.fetch_bits {s : State} (h : s.oldFetch = []) :
    s.fetchRE = s.eRE ∧ s.fetchPI = s.ePI ∧ s.fetchSM = s.eSM := by
  simp [State.fetchRE, State.fetchPI, State.fetchSM, h]

/-- Where no store has overtaken a prefetched word, a fetch finds what memory holds. -/
theorem State.memoryFetch_fresh {s : State} (h : s.prefetched = []) (he : s.early = []) (p : Word) :
    s.memoryFetch p = (readWord s.fetchMemory p, s) := by
  simp [State.memoryFetch, State.stale, State.buffered, h, he]

/-- An instruction that an interrupt return has fetched before a sequence is the word of then (48_miscellaneous.md
R606). -/
@[simp] theorem State.memoryFetch_early {s : State} {sp : FetchSpace} {q w : Word} {es : List EarlyFetch}
    (h : s.early = .found sp q w :: es) (p : Word) : s.memoryFetch p = (w, s) := by
  simp [State.memoryFetch, h]

/-- The place of an instruction that has not been fetched early. -/
theorem State.fetchPlace_of_nil {s : State} (h : s.early = []) : s.fetchPlace = s.placeOf s.pc := by
  simp [State.fetchPlace, h]

/-- A fetch of an interrupt return writes Usage bits and nothing else but the number of the next free value. -/
theorem State.fetchEarly_snd (s : State) (a : Word) :
    ∃ u n, (s.fetchEarly a).2 = { s with tlbUsage := u, fresh := n } := by
  unfold State.fetchEarly
  cases s.placeOf a <;> exact ⟨_, _, rfl⟩

/-- Both fetches write Usage bits and what they find, and nothing else but the number of the next free value. -/
theorem State.fetchReturned_eq (s : State) : ∃ u n, s.fetchReturned = { s with
    tlbUsage := u, fresh := n
    early := [(s.fetchEarly s.pc).1, ((s.fetchEarly s.pc).2.fetchEarly s.npc).1] } := by
  obtain ⟨u, n, h⟩ := s.fetchEarly_snd s.pc
  obtain ⟨v, m, k⟩ := (s.fetchEarly s.pc).2.fetchEarly_snd s.npc
  refine ⟨v, m, ?_⟩
  simp only [State.fetchReturned, k]
  simp only [h]

/-- A non-sequential fetch finds no old word, unless an interrupt return has just resumed a sequence (20_memory.md R222,
48_miscellaneous.md R606). -/
theorem State.memoryFetch_nonsequential {s : State} (h : s.pcSeq = false) (h' : ∀ p ∈ s.prefetched, p.left ≤ 4)
    (he : s.early = []) (p : Word) : s.memoryFetch p = (readWord s.fetchMemory p, s) := by
  have hb : s.buffered = [] := by
    simp only [State.buffered, h, Bool.false_or, List.filter_eq_nil_iff, decide_eq_true_eq]
    exact fun q hq => Nat.not_lt.2 (h' q hq)
  simp [State.memoryFetch, State.stale, hb, he]

/-! ### The decision before an instruction -/

/-- An instruction executed before the trap of a DERR answer at most sets CHC.NN (60_exceptions.md R690). -/
theorem State.noteOverwritten_cases (s t : State) (i : Instr) : s.noteOverwritten i t = t ∨
    s.noteOverwritten i t = { t with sr := { t.sr with chc := putBit t.sr.chc 1 true } } := by
  unfold State.noteOverwritten
  cases s.derrLoad with
  | none => exact .inl rfl
  | some r => simp only []; split_ifs <;> simp

/-- While the trap of a DERR answer is outstanding, it is taken, or one instruction that does not wait for the access is
executed, one fewer of those the delay leaves. -/
theorem State.overlap_cases (s : State) (vn : Byte) (run : State → Out) : s.overlap vn run = s.takeDerr vn ∨
    ∃ i, s.upcoming = some i ∧ s.heldByAccess i = false ∧ s.derrLeft ≠ 0 ∧
      ((∃ t, run { s with derrLeft := s.derrLeft - 1 } = .next t ∧ s.trapped t = false ∧
          s.overlap vn run = .next (s.noteOverwritten i t)) ∨
       ((∀ t, run { s with derrLeft := s.derrLeft - 1 } ≠ .next t) ∧
          s.overlap vn run = run { s with derrLeft := s.derrLeft - 1 })) := by
  unfold State.overlap
  split_ifs with h
  · exact .inl rfl
  · cases hu : s.upcoming with
    | none => exact .inl rfl
    | some i =>
      cases hh : s.heldByAccess i with
      | true => exact .inl (by simp [hh])
      | false =>
        have h0 : s.derrLeft ≠ 0 := fun e => h (by simp [e])
        simp only [hh, Bool.false_eq_true, if_false]
        cases hr : run { s with derrLeft := s.derrLeft - 1 } with
        | next t =>
          cases ht : s.trapped t with
          | true => exact .inl (by simp [ht])
          | false => exact .inr ⟨i, rfl, hh, h0, .inl ⟨t, rfl, ht, by simp [ht]⟩⟩
        | fault f =>
          by_cases hf : f = .ignoredTrap ∨ f = .vectorFetchError
          · rcases hf with rfl | rfl <;> exact .inl rfl
          · exact .inr ⟨i, rfl, hh, h0, .inr ⟨fun t => by simp, by cases f <;> simp_all⟩⟩
        | refused r => exact .inr ⟨i, rfl, hh, h0, .inr ⟨fun t => by simp, rfl⟩⟩

/-- Without such a trap and outside Monitor mode, with nothing due and no Wait, the instruction is executed. -/
theorem State.decision_run {s : State} (h : s.derrEvent = none) (run : State → Out)
    (hm : s.mm = true ∨ s.asyncDue = none ∧ s.wm = false) : s.decision run = run s := by
  unfold State.decision
  rw [h]
  rcases hm with hm | ⟨ha, hw⟩
  · simp [hm]
  · cases hm : s.mm <;> simp [ha, hw]

end Sys2Proof.Machine
end

