-- ==== Sys2Proof/Tests/Slice0.lean ====
section
/-! SUPPORT. Tests: the well-formedness checks, words written out from the encodings of the spec, single steps with the
results the spec's examples give, and a witness for the hypotheses of every statement. -/

namespace Sys2Proof.Tests

set_option Elab.async false

open Sys2Proof Sys2Proof.Machine

/-! ### Well-formedness: each check refuses an ill-formed term -/

theorem test_wf_refuses_coprocessor_bit : (Instr.load 0x90 96 (.reg 97)).WellFormed = false := by decide
theorem test_wf_refuses_mac_function : (Instr.fmac 0x40 96 97).WellFormed = false := by decide
theorem test_wf_refuses_sqrt_format : (Instr.sqrt 96 97 0x05).WellFormed = false := by decide
theorem test_wf_refuses_class_format : (Instr.classify 96 97 0x81).WellFormed = false := by decide
theorem test_wf_refuses_mtacc_format : (Instr.mtacc 0 97 0x14).WellFormed = false := by decide
theorem test_wf_refuses_mtacc_rc : (Instr.mtacc 1 97 0x04).WellFormed = false := by decide
theorem test_wf_refuses_mfacc_ra : (Instr.mfacc 96 1 0x04).WellFormed = false := by decide
theorem test_wf_accepts : ([.load 0x80 96 (.reg 97), .load 0x10 96 (.imm 4), .fmac 0x3F 96 97, .sqrt 96 97 2,
    .classify 96 97 1, .mtacc 0 97 0x0F, .mfacc 96 0 0x0F, .iret] : List Instr).all Instr.WellFormed = true := by decide

/-! ### Decoding: words of the spec's examples -/

/-- The word is that of the instruction, both ways. -/
def agrees (p : Word × Instr) : Bool := decide (decode p.1 = .ok p.2 ∧ encode p.2 = p.1)

theorem test_decode_add_and_subtract : ([
    (0x14606162, .add 96 97 (.reg 98)),
    (0x1C886183, .addc 136 97 (.reg 131)),
    (0x18896284, .addcs 137 98 (.reg 132)),
    (0x1B606000, .addcu 96 96 (.imm 0)),
    (0x11606101, .adds 96 97 (.imm 1)),
    (0x12606162, .addu 96 97 (.reg 98)),
    (0x25606101, .sub 96 97 (.imm 1)),
    (0x2C606162, .subc 96 97 (.reg 98)),
    (0x28606162, .subcs 96 97 (.reg 98)),
    (0x2A606162, .subcu 96 97 (.reg 98)),
    (0x21606101, .subs 96 97 (.imm 1)),
    (0x23606101, .subu 96 97 (.imm 1)),
    (0x35747400, .subr 116 116 (.imm 0)),
    (0x3D606100, .subrc 96 97 (.imm 0)),
    (0x38606162, .subrcs 96 97 (.reg 98)),
    (0x3B606100, .subrcu 96 97 (.imm 0)),
    (0x31606100, .subrs 96 97 (.imm 0)),
    (0x3360610A, .subru 96 97 (.imm 10))] : List (Word × Instr)).all agrees = true := by decide +kernel

theorem test_decode_multiply_and_divide : ([
    (0x64606160, .mul 96 97 (.reg 96)),
    (0x66606160, .mull 96 97 (.reg 96)),
    (0x74606160, .mulu 96 97 (.reg 96)),
    (0x69610000, .div0 97 (.imm 0)),
    (0x6A616184, .div 97 97 (.reg 132)),
    (0x6C616184, .divl 97 97 (.reg 132)),
    (0x6E616184, .divrem 97 97 (.reg 132)),
    (0xE0618283, .multiply 97 130 131),
    (0xE2618283, .multiplu 97 130 131),
    (0xDE608283, .multm 96 130 131),
    (0xDF608283, .multmu 96 130 131),
    (0xE1606162, .divide 96 97 98),
    (0xE3606162, .dividu 96 97 98)] : List (Word × Instr)).all agrees = true := by decide +kernel

theorem test_decode_compare : ([
    (0x61606100, .cpeq 96 97 (.imm 0)),
    (0x62606162, .cpneq 96 97 (.reg 98)),
    (0x41606100, .cplt 96 97 (.imm 0)),
    (0x43606101, .cpltu 96 97 (.imm 1)),
    (0x44606162, .cple 96 97 (.reg 98)),
    (0x46606162, .cpleu 96 97 (.reg 98)),
    (0x496061FF, .cpgt 96 97 (.imm 255)),
    (0x4B6061FF, .cpgtu 96 97 (.imm 255)),
    (0x4D606000, .cpge 96 96 (.imm 0)),
    (0x4F606100, .cpgeu 96 97 (.imm 0)),
    (0x2E606162, .cpbyte 96 97 (.reg 98))] : List (Word × Instr)).all agrees = true := by decide +kernel

theorem test_decode_assert : ([
    (0x70400101, .aseq 64 1 (.reg 1)),
    (0x72450101, .asneq 69 1 (.reg 1)),
    (0x50406061, .aslt 64 96 (.reg 97)),
    (0x5340600A, .asltu 64 96 (.imm 10)),
    (0x54406061, .asle 64 96 (.reg 97)),
    (0x56406061, .asleu 64 96 (.reg 97)),
    (0x59406000, .asgt 64 96 (.imm 0)),
    (0x5A406061, .asgtu 64 96 (.reg 97)),
    (0x5D406000, .asge 64 96 (.imm 0)),
    (0x5E40017E, .asgeu 64 1 (.reg 126))] : List (Word × Instr)).all agrees = true := by decide +kernel

theorem test_decode_logical_and_shift : ([
    (0x916061F0, .and 96 97 (.imm 240)),
    (0x9D6061FF, .andn 96 97 (.imm 255)),
    (0x9A606161, .nand 96 97 (.reg 97)),
    (0x99606100, .nor 96 97 (.imm 0)),
    (0x93606100, .or 96 97 (.imm 0)),
    (0xAB606100, .orn 96 97 (.imm 0)),
    (0x96606162, .xnor 96 97 (.reg 98)),
    (0x94606060, .xor 96 96 (.reg 96)),
    (0x81606104, .sll 96 97 (.imm 4)),
    (0x8360611F, .srl 96 97 (.imm 31)),
    (0x8760611F, .sra 96 97 (.imm 31)),
    (0x7A606162, .extract 96 97 (.reg 98))] : List (Word × Instr)).all agrees = true := by decide +kernel

theorem test_decode_data_access : ([
    (0x16006061, .load 0 96 (.reg 97)),
    (0x06006061, .loadl 0 96 (.reg 97)),
    (0x26006061, .loadset 0 96 (.reg 97)),
    (0x36008261, .loadm 0 130 (.reg 97)),
    (0x1E006061, .store 0 96 (.reg 97)),
    (0x0E006061, .storel 0 96 (.reg 97)),
    (0x3E006062, .storem 0 96 (.reg 98))] : List (Word × Instr)).all agrees = true := by decide +kernel

theorem test_decode_data_movement : ([
    (0x0B606100, .exbyte 96 97 (.imm 0)),
    (0x7D606100, .exhw 96 97 (.imm 0)),
    (0x7E606100, .exhws 96 97),
    (0x0C606162, .inbyte 96 97 (.reg 98)),
    (0x78606162, .inhw 96 97 (.reg 98)),
    (0xC6600200, .mfsr 96 2),
    (0xCE000260, .mtsr 2 96),
    (0x04008703, .mtsrim 135 3),
    (0xB6606100, .mftlb 96 97),
    (0xBE006162, .mttlb 97 98)] : List (Word × Instr)).all agrees = true := by decide +kernel

theorem test_decode_constant : ([
    (0x03126034, .const 96 0x1234),
    (0x02126034, .consth 96 0x1234),
    (0x053F6080, .consthz 96 0x3F80),
    (0x01FF60FF, .constn 96 0xFFFF)] : List (Word × Instr)).all agrees = true := by decide +kernel

theorem test_decode_float_arithmetic : ([
    (0xF0606162, .fadd 96 97 98),
    (0xF1606264, .dadd 96 98 100),
    (0xF2606162, .fsub 96 97 98),
    (0xF3606264, .dsub 96 98 100),
    (0xF4606162, .fmul 96 97 98),
    (0xF5606264, .dmul 96 98 100),
    (0xF6606162, .fdiv 96 97 98),
    (0xF7606264, .ddiv 96 98 100),
    (0xF9606263, .fdmul 96 98 99)] : List (Word × Instr)).all agrees = true := by decide +kernel

theorem test_decode_float_compare : ([
    (0xEA606162, .feq 96 97 98),
    (0xEB606264, .deq 96 98 100),
    (0xEC606162, .fgt 96 97 98),
    (0xED606264, .dgt 96 98 100),
    (0xEE606162, .fge 96 97 98),
    (0xEF606264, .dge 96 98 100)] : List (Word × Instr)).all agrees = true := by decide +kernel

theorem test_decode_float_other : ([
    (0xD8108292, .fmac 16 130 146),
    (0xD9026062, .dmac 2 96 98),
    (0xDA606086, .fmsm 96 96 134),
    (0xDB606264, .dmsm 96 98 100),
    (0xE4606144, .convert 96 97 68),
    (0xE5606101, .sqrt 96 97 1),
    (0xE6606101, .classify 96 97 1),
    (0xE8008400, .mtacc 0 132 0),
    (0xE9980006, .mfacc 152 0 6)] : List (Word × Instr)).all agrees = true := by decide +kernel

theorem test_decode_branch : ([
    (0xA8018003, .call false 128 259),
    (0xC8008060, .calli 128 96),
    (0xA0000002, .jmp false 2),
    (0xA4006003, .jmpf false 96 3),
    (0xB4FF60FE, .jmpfdec false 96 65534),
    (0xC4006061, .jmpfi 96 97),
    (0xC0000080, .jmpi 128),
    (0xAC006003, .jmpt false 96 3),
    (0xCC006061, .jmpti 96 97)] : List (Word × Instr)).all agrees = true := by decide +kernel

theorem test_decode_miscellaneous : ([
    (0x08600061, .clz 96 (.reg 97)),
    (0xD7468283, .emulate 70 130 131),
    (0x9E828360, .setip 130 131 96),
    (0x9F000000, .inv),
    (0x88000000, .iret),
    (0x8C000000, .iretinv),
    (0x89000000, .halt)] : List (Word × Instr)).all agrees = true := by decide +kernel

/-! ### Single instructions, with the results of the spec's examples (95_test_vectors.md B1 to B20) -/

/-- Supervisor mode, instructions and data untranslated in instruction/data memory, CFG = 0, all exceptions masked. -/
def base : State :=
  { State.reset with
    pc := 0x1000, npc := 0x1004, lastpc := 0xFFC, pcSeq := true, sp := 0x200, spValid := true, cps := 0x72
    sr := { SpecialRegs.reset with cfg := 0, vab := 0x200000, fpe := 0x3F } }

/-- General registers 97 and 98 given. -/
def base2 (x y : Word) : State := (base.putGR .other 97 x).putGR .other 98 y

/-- The instruction answers a next state of which a test holds. -/
def gives (i : Instr) (s : State) (p : State → Bool) : Bool :=
  match exec i s with
  | .next t => p t
  | _ => false

/-- The step that fetches a word answers a next state of which a test holds. -/
def steps (w : Nat) (s : State) (p : State → Bool) : Bool :=
  match step (s.withFetchWord 32 w) with
  | .next t => p t
  | _ => false

/-- A register after the instruction. -/
def shows (i : Instr) (s : State) (n : Byte) (v : Word) : Bool := gives i s fun t => t.getGR n == v

theorem test_reset_status : State.reset.cps = 0x573#32 ∧ State.reset.pc = 0#32 ∧ bitOf State.reset.sr.cfg 0 = true := by
  decide +kernel
theorem test_add_wraps : gives (.add 96 97 (.reg 98)) (base2 0xFFFFFFFF 1)
    (fun t => t.getGR 96 == 0#32 && t.alu == 0x180#32) = true := by decide +kernel
theorem test_adds_traps : gives (.adds 96 97 (.reg 98)) (base2 0x7FFFFFFF 1)
    (fun t => t.getGR 96 == 0x80000000#32 && t.alu == 0x600#32 && t.pc == 0x200200#32 && t.sr.exop == 0x10#32) = true := by
  decide +kernel
theorem test_subru : gives (.subru 96 97 (.reg 98)) (base2 7 5)
    (fun t => t.getGR 96 == 0xFFFFFFFE#32 && t.alu == 0x200#32 && t.pc == 0x200200#32) = true := by decide +kernel
theorem test_add_to_gr3 : gives (.add 3 97 (.reg 98)) (base2 0x80000000 0) (fun t => t.cca == 1#32) = true := by
  decide +kernel
theorem test_div0 : gives (.div0 96 (.imm 0)) { base with sr := { base.sr with q := 100 } }
    (fun t => t.alu == 0x900#32 && t.sr.q == 200#32) = true := by decide +kernel
theorem test_divide_traps : gives (.divide 96 97 98) base
    (fun t => t.pc == 0x202100#32 && t.sr.ipc == 384#32 && t.sr.ipa == 388#32 && t.sr.ipb == 392#32) = true := by
  decide +kernel
theorem test_multm : shows (.multm 96 97 98) (base2 0x80000000 0x80000000) 96 0x40000000 = true := by decide +kernel
theorem test_cpltu : shows (.cpltu 96 97 (.imm 200)) (base2 0xFFFFFFFF 0) 96 0 = true := by decide +kernel
theorem test_asltu_traps : gives (.asltu 69 97 (.reg 98)) (base2 5 5)
    (fun t => t.pc == 0x204500#32 && t.cps == 0x473#32 && t.sr.ops == 0x72#32) = true := by decide +kernel
theorem test_orn : gives (.orn 96 97 (.reg 98)) (base2 0xFF00FF00 0x0FF00FF0)
    (fun t => t.getGR 96 == 0xFF0FFF0F#32 && t.alu == 0x200#32) = true := by decide +kernel
theorem test_sra_takes_five_bits : shows (.sra 96 97 (.reg 98)) (base2 0xF0000000 36) 96 0xFF000000 = true := by
  decide +kernel
theorem test_extract_rotates : shows (.extract 96 97 (.reg 97)) { base2 0x80000001 0 with alu := 1 } 96 3 = true := by
  decide +kernel
theorem test_const : shows (.constn 96 0x1234) base 96 0xFFFF1234 = true := by decide +kernel
theorem test_inhw_in_upper_half : shows (.inhw 96 97 (.reg 98)) (base2 0x11223344 0xAABBCCDD) 96 0xCCDD3344 = true := by
  decide +kernel
theorem test_load_reads_stored : gives (.store 0 97 (.imm 0x80)) (base2 0xAA 0)
    (fun t => shows (.load 0 96 (.imm 0x80)) t 96 0xAA) = true := by decide +kernel
theorem test_load_signed_byte : gives (.store 0 97 (.imm 0x80)) (base2 0x000000F1 0)
    (fun t => shows (.load 0x11 96 (.imm 0x83)) { t with sr := { t.sr with cfg := 0x20 } } 96 0xFFFFFFF1) = true := by
  decide +kernel
theorem test_unaligned_traps : gives (.load 0 96 (.imm 2)) { base with cps := 0x872 }
    (fun t => t.pc == 0x200100#32 && t.sr.cha == 2#32) = true := by decide +kernel
theorem test_mtsrim_cr : gives (.mtsrim 135 3) base (fun t => t.sr.chc == 0x30000#32) = true := by decide +kernel
theorem test_call : gives (.call false 97 0x40) base
    (fun t => t.pc == 0x1004#32 && t.npc == 0x1100#32 && t.getGR 97 == 0x1008#32) = true := by decide +kernel
theorem test_jmpfdec : gives (.jmpfdec false 97 0xFFFE) (base2 0 0)
    (fun t => t.npc == 0xFF8#32 && t.getGR 97 == 0xFFFFFFFF#32) = true := by decide +kernel
theorem test_clz : shows (.clz 96 (.reg 97)) (base2 1 0) 96 31 = true := by decide +kernel
theorem test_setip : gives (.setip 130 131 96) base
    (fun t => t.sr.ipc == 0x208#32 && t.sr.ipa == 0x20C#32 && t.sr.ipb == 384#32) = true := by decide +kernel
theorem test_fadd_inexact : gives (.fadd 96 97 98) (base2 0x3F800000 0x33800001)
    (fun t => t.getGR 96 == 0x3F800001#32 && t.sr.fps == 16#32) = true := by decide +kernel
theorem test_fdiv_third : gives (.fdiv 96 97 98) { base2 0x3F800000 0x40400000 with sr := { base.sr with fpe := 0xBF } }
    (fun t => t.getGR 96 == 0x3EAAAAAB#32 && t.sr.fps == 16#32) = true := by decide +kernel
theorem test_fmul_overflow_traps : gives (.fmul 96 97 98)
    { base2 0x7F000000 0x40000000 with sr := { base.sr with fpe := 0x3B } }
    (fun t => t.getGR 96 == 0#32 && t.sr.fps == 0x400#32 && t.pc == 0x201600#32) = true := by decide +kernel
theorem test_free_pointers_differ :
    let s : State := { base with spValid := false }
    s.trapNumber .a false 0x80 = 0x80 ||| lowByte (Config.freeWord s.fresh) ∧
    s.trapNumber .b true 0x80 = 0x80 ||| lowByte (Config.freeWord (s.fresh + 1)) ∧
    s.trapNumber .c true 0x80 = 0x80 ||| lowByte (Config.freeWord (s.fresh + 2)) := ⟨rfl, rfl, rfl⟩
theorem test_sqrt_two : shows (.sqrt 96 97 1) { base2 0x40000000 0 with sr := { base.sr with fpe := 0xBF } } 96 0x3FB504F4
    = true := by decide +kernel
theorem test_iret : gives .iret { base with cps := 0x473, sr := { base.sr with ops := 0x72, pc1 := 0x1000, pc0 := 0x2000 } }
    (fun t => t.pc == 0x1000#32 && t.npc == 0x2000#32 && t.cps == 0x72#32) = true := by decide +kernel
theorem test_iret_after_page_size :
    let s : State := { base with cps := 0x473, hz := { Hazards.none with ps := true }, sr := { base.sr with ops := 0x72 } }
    gives .iret s (fun t => !t.hz.ps) = true ∧
    (match exec .iret { s with sr := { s.sr with ops := 0x52 } } with | .fault f => f == .hazardPageSize | _ => false) =
      true := by decide +kernel
theorem test_step_runs_add : steps 0x14606162 (base2 2 3) (fun t => t.getGR 96 == 5#32 && t.pc == 0x1004#32) = true := by
  decide +kernel
theorem test_step_from_reset : steps 0x03126034 State.reset (fun t => t.getGR 96 == 0x1234#32 && t.pc == 4#32) = true := by
  decide +kernel
theorem test_step_illegal : steps 0x00000000 base (fun t => t.pc == 0x200000#32 && t.sr.pc1 == 0x1000#32) = true := by
  decide +kernel

theorem test_step_inv_stops_cache : (match step { base with btc := { Btc.reset with pendingInv := true } } with
    | .next t => t.btc.pendingInv == false | _ => false) = true := by decide +kernel
theorem test_mtsrim_tp_traces : steps 0x04100272 base (fun t => bitOf t.cps 12) = true := by decide +kernel
theorem test_warn_halts : (match step { base with inputs := [{ Input.quiet with warn := true, cntl := 2 }] } with
    | .next t => t.pc == 16#32 && t.opMode == .halted | _ => false) = true := by decide +kernel
theorem test_storem_reaching_gr2 :
    (match exec (.storem 0 1 (.imm 0x80)) { base with sr := { base.sr with chc := 0x10000 } } with
     | .fault f => f == .ccaRestriction | _ => false) = true := by decide +kernel

/-- An access answered DERR whose trap may still wait two instructions (R690), the load having been into register `r`. -/
def lateDerr (r : Byte) : State := { base2 2 3 with derrEvent := some 7, derrLeft := 2, derrLoad := some r }
theorem test_derr_trap_waits : steps 0x14606162 (lateDerr 96)
    (fun t => t.getGR 96 == 5#32 && t.derrEvent == some 7 && t.derrLeft == 1 && bitOf t.sr.chc 1) = true := by
  decide +kernel
theorem test_derr_trap_before_reader : steps 0x14606162 (lateDerr 97)
    (fun t => t.derrEvent == none && t.sr.pc1 == 0x1000#32) = true := by decide +kernel

theorem test_split_memory : steps 0x14606162 { base2 2 3 with imem := some [] }
    (fun t => t.getGR 96 == 5#32 && t.idmem == []) = true := by decide +kernel
theorem test_monitor_keeps_tp : gives (.add 96 97 (.reg 98)) { base2 2 3 with cps := 0x11072 }
    (fun t => bitOf t.cps 12) = true := by decide +kernel
theorem test_monitor_copies_te : gives (.add 96 97 (.reg 98)) { base2 2 3 with cps := 0x12072 }
    (fun t => bitOf t.cps 12) = true := by decide +kernel
theorem test_loadm_derr_holds : gives (.loadm 0 96 (.imm 0x80))
    { base with cur := { Input.quiet with derr := some 1 }, sr := { base.sr with chc := 0x20000 } }
    (fun t => t.derrEvent == some 7 && t.derrLeft == 0 && t.sr.cha == 0x84#32) = true := by decide +kernel
theorem test_target_sees_store : let s : State := { base2 2 3 with prefetched := [⟨0x1000, 7, 4⟩] }
    ({ s with pcSeq := false }).stale 0x1000 = [] ∧ s.stale 0x1000 = [7] ∧
    ({ s.keepFetched with pcSeq := false }).stale 0x1000 = [7] := by decide +kernel
/-- A STOREM resumed over the two instructions returned to: the words fetched are those before it (R606, steps 6 to 10). -/
def overwritten : State :=
  { base with
    cps := 0x473, idmem := writeWord (writeWord [] 0x100 0x14606162) 0x104 0x14616162
    sr := { base.sr with ops := 0x72, pc1 := 0x100, pc0 := 0x104, cha := 0x100, chc := 0x00014181 } }
theorem test_return_fetches_before_storem : gives .iret overwritten (fun t =>
    t.pc == 0x100#32 && readWord t.idmem 0x100 == overwritten.getGR 96 &&
      t.early == [.found .idmem 0x100 0x14606162, .found .idmem 0x104 0x14616162]) = true := by decide +kernel
theorem test_early_word_executes : (match step { base2 2 3 with
      early := [.found .idmem 0x1000 0x14606162], idmem := writeWord [] 0x1000 0xFFFFFFFF } with
    | .next t => t.getGR 96 == 5#32 && t.early == [] | _ => false) = true := by decide +kernel
theorem test_later_change_ends_earlier : agedFetch [⟨true, true, true, 1⟩, ⟨false, true, true, 3⟩] = [] ∧
    agedFetch [⟨true, true, true, 3⟩, ⟨false, true, true, 1⟩] = [⟨true, true, true, 2⟩] := by decide +kernel

/-! ### Witnesses: a state and operands that meet the hypotheses of each statement -/

/-- User mode, otherwise as `base`. -/
def userBase : State := { base with cps := 0x62 }

/-- Translated data accesses, with a TLB entry in set 0 of line 2 that lets Supervisor and User mode read and write
page 0x800 at physical page 0x3000, and one in set 1 of line 3. -/
def mapped : State :=
  { base with
    cps := 0x32
    tlb := (((base.tlb.set 4 0x00007F00).set 5 0x00003000).set 70 0x00007F00).set 71 0x00005000 }

/-- A data access answered with DERR. -/
def failing : State := { base with cur := { Input.quiet with derr := some 0 } }

/-- An accumulator format, all floating-point exceptions masked. -/
def withAcf (n : Nat) : State := { base with sr := { base.sr with fpe := BitVec.ofNat 32 (512 * n + 0x3F) } }

theorem witness_AddAndSubtractComplete :
    (let s := base2 0x7FFFFFFE 1
     s.regStop false (usesRRM .aluCca 2 97 (.reg 98)) = none ∧ s.regStop false (usesRRM .alu 3 97 (.imm 255)) = none ∧
     ¬ signedOver (s.src .a 97) (s.opnd (.reg 98)) 0 ∧ ¬ signedOver (s.src .a 97) (~~~s.opnd (.imm 0)) 1) ∧
    (let s := base2 0xFFFFFFFE 1
     s.regStop false (usesRRM .alu 1 97 (.reg 98)) = none ∧ ¬ carryOut (s.src .a 97) (s.opnd (.reg 98)) 0 ∧
     ¬ ¬ carryOut (s.src .a 97) (~~~s.opnd (.reg 97)) 1) := by
  simp only [signedOver, carryOut]; decide +kernel

theorem witness_OutOfRangeTraps :
    (let s := base2 0x7FFFFFFF 1
     s.regStop false (usesRRM .alu 3 97 (.reg 98)) = none ∧ signedOver (s.src .a 97) (s.opnd (.reg 98)) 0) ∧
    (let s := base2 0xFFFFFFFF 1
     s.regStop false (usesRRM .alu 96 97 (.reg 98)) = none ∧ carryOut (s.src .a 97) (s.opnd (.reg 98)) 0 ∧
     ¬ carryOut (s.src .a 98) (~~~s.opnd (.reg 97)) 1) := by
  simp only [signedOver, carryOut]; decide +kernel

theorem witness_MultiplyStepsComplete : base.regStop false (usesRRM .alu 3 97 (.reg 98)) = none ∧
    base.regStop false (usesRRM .alu 255 1 (.imm 0)) = none := by decide +kernel

theorem witness_DivideStepsComplete :
    (let s := base2 3 5
     s.regStop false (opndUses (.reg 98) ++ [⟨.c, 96, .dst .alu⟩]) = none ∧
     s.regStop false (usesRRM .alu 96 97 (.reg 98)) = none ∧ (false = true ↔ carryOut (s.src .a 97) (s.opnd (.reg 98)) 0)) ∧
    (let s := { base2 5 3 with alu := 0x800 }
     s.regStop false (usesRRM .alu 3 97 (.reg 98)) = none ∧
     (true = true ↔ carryOut (s.src .a 97) (~~~s.opnd (.reg 98)) 1)) := by
  simp only [carryOut]; decide +kernel

theorem witness_MultiplyClassCompletes :
    (let s := base2 0x10000 0x7FFF
     s.regStop false (usesMultiply 96 97 98) = none ∧
       -2 ^ 31 ≤ (s.src .a 97).toInt * (s.src .b 98).toInt ∧ (s.src .a 97).toInt * (s.src .b 98).toInt < 2 ^ 31) ∧
    (let s := { base2 0x80000000 0x80000000 with sr := { base.sr with inte := 3 } }
     s.regStop false (usesMultiply 96 97 98) = none ∧ bitOf s.sr.inte 0 = true) := by decide +kernel

theorem witness_MultiplyTraps :
    let s := { base2 0x80000000 0xFFFFFFFF with sr := { base.sr with inte := 0 } }
    s.regStop false (usesMultiply 96 97 98) = none ∧ bitOf s.sr.inte 0 = false ∧
      ¬ ((s.src .a 97).toInt * (s.src .b 98).toInt < 2 ^ 31) ∧
      2 ^ 32 ≤ (s.src .a 97).toNat * (s.src .b 98).toNat := by decide +kernel

theorem base_ready : base.TrapReady := ⟨by decide +kernel, by decide +kernel, by decide +kernel⟩

theorem witness_DivideTraps : base.regStop false (usesNumbers 96 97 98) = none ∧ base.TrapReady :=
  ⟨by decide +kernel, base_ready⟩

theorem witness_ComparesComplete : base.regStop false (usesRRM .other 96 97 (.reg 98)) = none ∧
    base.regStop false (usesRRM .other 3 97 (.imm 255)) = none := by decide +kernel

theorem witness_AssertsComplete :
    (let s := base2 0x80000000 0x7FFFFFFF
     s.regStop false ([⟨.a, 97, .src⟩] ++ opndUses (.reg 98)) = none ∧ (s.src .a 97).toInt < (s.opnd (.reg 98)).toInt ∧
       s.user = false ∧ s.TrapReady) ∧
    userBase.regStop false ([⟨.a, 97, .src⟩] ++ opndUses (.reg 98)) = none ∧ userBase.user = true ∧
    (63#8).toNat < 64 ∧ 64 ≤ (64#8).toNat ∧ userBase.TrapReady :=
  ⟨⟨by decide +kernel, by decide +kernel, by decide +kernel, by decide +kernel, by decide +kernel, by decide +kernel⟩,
    by decide +kernel, by decide +kernel, by decide, by decide, by decide +kernel, by decide +kernel, by decide +kernel⟩

theorem witness_LogicalComplete : base.regStop false (usesRRM .alu 3 97 (.reg 98)) = none ∧ base.frozen = false ∧
    ({ base with cps := 0x472 } : State).frozen = true := by decide +kernel

theorem witness_ShiftsComplete : (base2 1 31).regStop false (usesRRM .other 96 97 (.reg 98)) = none := by decide +kernel

theorem witness_ByteMovesComplete : base.regStop false (usesRRM .other 96 97 (.imm 0)) = none ∧
    base.regStop false [⟨.a, 97, .src⟩, ⟨.c, 96, .dst .other⟩] = none := by decide +kernel

theorem witness_ConstantsComplete : base.regStop false [⟨.a, 2, .dst .constant⟩] = none ∧ base.absReg .a 2 ≠ 3#8 ∧
    base.regStop false [⟨.a, 3, .dst .constant⟩] = none ∧ base.absReg .a 3 = 3#8 := by decide +kernel

theorem witness_BranchesComplete : base.BranchReady ∧ base.regStop false [] = none ∧
    base.regStop false [⟨.b, 97, .src⟩] = none ∧ base.regStop false [⟨.a, 128, .dst .other⟩] = none ∧
    base.regStop false [⟨.b, 97, .src⟩, ⟨.a, 97, .dst .other⟩] = none := by
  unfold State.BranchReady; decide +kernel

theorem witness_ConditionalBranchesComplete : base.BranchReady ∧
    base.regStop false [⟨.a, 97, .src⟩, ⟨.a, 97, .dst .other⟩] = none ∧
    base.regStop false [⟨.a, 97, .src⟩, ⟨.b, 98, .src⟩] = none ∧
    0 ≤ ((base2 0x7FFFFFFF 0).src .a 97).toInt ∧ ((base2 0x80000000 0).src .a 97).toInt < 0 := by
  unfold State.BranchReady; decide +kernel

theorem witness_EmulateTraps : base.regStop false [⟨.a, 97, .number⟩, ⟨.b, 98, .number⟩] = none ∧ base.user = false ∧
    base.TrapReady ∧ userBase.user = true ∧ (63#8).toNat < 64 :=
  ⟨by decide +kernel, by decide +kernel, base_ready, by decide +kernel, by decide⟩

theorem witness_MiscellaneousComplete : base.regStop false (opndUses (.reg 97) ++ [⟨.c, 96, .dst .other⟩]) = none ∧
    base.regStop false [⟨.a, 0x82, .number⟩, ⟨.b, 0x83, .number⟩, ⟨.c, 96, .number⟩] = none ∧ base.user = false ∧
    ({ userBase with debugger := true } : State).debugger = true := by decide +kernel

/-- A pending LOAD of gr96 from 0x83, or LOADSET or STORE, as the channel registers tell it, in Supervisor mode with
FZ = 1. -/
def pending (chc : Word) : State :=
  { base with cps := 0x472, sr := { base.sr with ops := 0x72, cha := 0x83, chd := 7, chc := chc } }

/-- What the restart of an access asks of a state. -/
def restartOk (chc : Word) : Bool :=
  let s := pending chc
  let r : State := { s with cps := 0x72 }
  !s.user && s.frozen && bitOf chc 0 && !bitOf chc 1 && !bitOf chc 14 &&
    decide (64 ≤ (chc.extractLsb' 2 8 : Byte).toNat) && s.cur.derr == none &&
    decide (r.locate ⟨0, bitOf chc 15, bitOf chc 13, false, 96, 0x83, 7⟩ = .found .idmem 0x83 r)

theorem witness_InterruptReturnsComplete :
    (let s : State := { base with cps := 0x472 }
     let m : State := { base with cps := 0x10072 }
     s.user = false ∧ s.frozen = true ∧ (bitOf s.sr.chc 0 && !bitOf s.sr.chc 1) = false ∧ s.mm = false ∧
       m.user = false ∧ m.frozen = true ∧ m.mm = true) ∧
    [0x8181, 0xA181, 0x0181, 0x2181].all restartOk = true := by decide +kernel

theorem witness_InterruptReturnsComplete_errors :
    (let s : State := { pending 0x8181 with cur := { Input.quiet with derr := some 0 } }
     restartOk 0x8181 = true ∧ s.cur.derr = some s.accesses) ∧
    (let s : State := { pending 0x8181 with holes := [⟨.data, 0x80, 0x84⟩] }
     let r : State := { s with cps := 0x72 }
     r.locate ⟨0, true, false, false, 96, 0x83, 7⟩ = .absent r) ∧
    (let s : State := { pending 0xA181 with cur := { Input.quiet with derr := some 1 } }
     restartOk 0xA181 = true ∧ s.cur.derr = some (s.accesses + 1)) ∧
    (let r : State := { pending 0x8181 with cps := 0x872 }
     r.locate ⟨0, true, false, false, 96, 0x83, 7⟩ = .trap 1 r) ∧
    (let s := pending 0x80008181
     (s.sr.chc.extractLsb' 24 8 : Byte).getLsbD 7 = true ∧ bitOf s.sr.cfg 1 = false) ∧
    (let s : State := { pending 0x8181 with hz := { Hazards.none with ps := true } }
     let r : State := { s with cps := 0x32 }
     r.locate ⟨0, true, false, false, 96, 0x83, 7⟩ = .fault .hazardPageSize ∧ bitOf r.cps 5 = true ∧
     bitOf (0x52 : Word) 5 = false ∧ bitOf (0x52 : Word) 8 = false) := by decide +kernel

/-- Transfer `j` of a sequence is found and answered, at a place. -/
def answeredAt (q : Sequence) (s : State) (sp : Space) (p : Word) (j : Nat) : Bool :=
  !s.bankProtected (q.reg j) && sequenceFault q.load (q.reg j) == none && !(q.ctl.getLsbD 7) &&
    (match s.locate (q.xfer j) with | .found sp' p' _ => decide (sp' = sp ∧ p' = p) | _ => false) &&
    s.cur.derr != some (s.accesses + j)

theorem made_of_answered {q : Sequence} {s : State} {sp : Space} {p : Word} {j : Nat}
    (h : answeredAt q s sp p j = true) : q.Made s sp p j := by
  simp only [answeredAt, Bool.and_eq_true, Bool.not_eq_true', beq_iff_eq, bne_iff_ne] at h
  obtain ⟨⟨⟨⟨h1, h2⟩, h3⟩, h4⟩, h5⟩ := h
  refine ⟨⟨h1, .inl h2⟩, fun h => absurd (h.1.symm.trans h3) (by decide), ?_, h5⟩
  split at h4
  · next w e => obtain ⟨rfl, rfl⟩ := of_decide_eq_true h4; exact ⟨w, e⟩
  · simp at h4

/-- The status a return brings back, by OPS, and the channel registers of two words of LOADM, from register 127. -/
def resumed (ops cha : Word) : State :=
  { mapped with cps := 0x473, sr := { base.sr with ops := ops, cha := cha, chc := 0x0001C1FD, rbp := 0x0100 } }

/-- `resumed` when CPS is back. -/
def resumedBack (ops cha : Word) : State := { resumed ops cha with cps := ops }

theorem witness_InterruptReturnsComplete_sequence :
    ((resumed 0x72 0x80).frozen = true ∧ (resumed 0x72 0x80).user = false ∧ (resumed 0x72 0x80).recordedSequence.last = 1 ∧
      bitOf (0x0001C1FD : Word) 0 = true ∧ bitOf (0x0001C1FD : Word) 1 = false ∧ bitOf (0x0001C1FD : Word) 14 = true ∧
      bitOf (0x472 : Word) 10 = true) ∧
    (let q := (resumed 0x72 0x80).recordedSequence
     ∀ j ≤ q.last, q.Made (resumedBack 0x72 0x80) .idmem (q.address j) j) ∧
    (let q := (resumed 0x62 0x80).recordedSequence
     let r := resumedBack 0x62 0x80
     q.Made r .idmem 0x80 0 ∧ r.bankProtected (q.reg 1) = true) ∧
    (let q := (resumed 0x72 0x80).recordedSequence
     let r : State := { resumedBack 0x72 0x80 with cur := { Input.quiet with derr := some 1 } }
     q.Made r .idmem 0x80 0 ∧ q.Fails r 1) ∧
    (let q := (resumed 0x32 0xFFC).recordedSequence
     let r := resumedBack 0x32 0xFFC
     q.Made r .idmem 0x53FC 0 ∧ q.Traps r 11 1) := by
  refine ⟨by decide +kernel, ?_, ⟨made_of_answered (by decide +kernel), by decide +kernel⟩,
    ⟨made_of_answered (by decide +kernel), ⟨by decide +kernel, .inl (by decide +kernel)⟩, ?_,
      { resumedBack 0x72 0x80 with cur := { Input.quiet with derr := some 1 } },
      .inr ⟨.idmem, 0x84, by decide +kernel, by decide +kernel⟩⟩,
    ⟨made_of_answered (by decide +kernel), ⟨by decide +kernel, .inl (by decide +kernel)⟩, .inr ⟨?_,
      { resumedBack 0x32 0xFFC with sr := { (resumedBack 0x32 0xFFC).sr with lru := 8 } }, by decide +kernel⟩⟩⟩
  · intro q j hj
    exact made_of_answered ((by decide +kernel : ∀ j ≤ (resumed 0x72 0x80).recordedSequence.last,
      answeredAt (resumed 0x72 0x80).recordedSequence (resumedBack 0x72 0x80) .idmem
        ((resumed 0x72 0x80).recordedSequence.address j) j = true) j hj)
  all_goals unfold Sequence.NoUnit; decide +kernel

/-- What the single accesses ask of a state. -/
def accessOk (s : State) (ctl : Byte) : Prop :=
  (bitOf s.sr.chc 14 && !s.frozen) = false ∧ (ctl.getLsbD 7 = true → bitOf s.sr.cfg 1 = true)

theorem witness_LoadsComplete :
    let s : State := { base2 0 0x83 with sr := { base.sr with cfg := 0x20 } }
    s.regStop (s.accessProtected 0x11) (usesLoad 96 (.reg 98)) = none ∧ accessOk s 0x11 ∧
    s.cur.derr ≠ some s.accesses ∧ s.cur.derr ≠ some (s.accesses + 1) ∧
    s.locate ⟨0x11, true, false, false, 96, 0x83, 0⟩ = .found .idmem 0x83 s ∧
    s.locate ⟨0x11, true, true, false, 96, 0x83, 0⟩ = .found .idmem 0x83 s := by
  unfold accessOk; decide +kernel

theorem witness_StoresComplete :
    let s : State := { base2 7 0x80 with sr := { base.sr with cfg := 0x22 } }
    s.regStop (s.accessProtected 0) (usesStore 97 (.reg 98)) = none ∧ accessOk s 0 ∧ s.cur.derr ≠ some s.accesses ∧
    s.locate ⟨0, false, false, false, 97, 0x80, 7⟩ = .found .idmem 0x80 s ∧
    s.regStop (s.accessProtected 0xA0) (usesStore 97 (.reg 98)) = none ∧ accessOk s 0xA0 ∧
    s.locate ⟨0xA0, false, false, false, 97, 0x80, 7⟩ = .found .cop 0x80 s := by
  unfold accessOk; decide +kernel

/-- A LOADM or STOREM of two words, from register 255 to register 128. -/
def twoWords : State := { base with sr := { base.sr with chc := 0x00010000 } }

theorem witness_LoadMultipleCompletes :
    twoWords.absReg .a 0x7F = 127#8 ∧ twoWords.regStop (twoWords.accessProtected 0) (usesLoad 127 (.imm 0x80)) = none ∧
    twoWords.frozen = false ∧ twoWords.hz.multiple = false ∧ twoWords.sr.chc.toNat / 2 ^ 16 % 2 ^ 8 = 1 ∧
    ∀ j ≤ 1, twoWords.locate ⟨0, true, false, false, sequenceRegister 127 j, 0x80 + 4 * BitVec.ofNat 32 j, 0⟩ =
        .found .idmem (0x80 + 4 * BitVec.ofNat 32 j) twoWords ∧
      twoWords.cur.derr ≠ some (twoWords.accesses + j) ∧ twoWords.bankProtected (sequenceRegister 127 j) = false ∧
      sequenceFault true (sequenceRegister 127 j) = none := by decide +kernel

theorem witness_StoreMultipleCompletes :
    twoWords.regStop (twoWords.accessProtected 0) (usesStore 127 (.imm 0x80)) = none ∧
    twoWords.frozen = false ∧ twoWords.hz.multiple = false ∧ twoWords.sr.chc.toNat / 2 ^ 16 % 2 ^ 8 = 1 ∧
    (∀ j ≤ 1, twoWords.locate ⟨0, false, false, false, sequenceRegister 127 j, 0x80 + 4 * BitVec.ofNat 32 j, 0⟩ =
        .found .idmem (0x80 + 4 * BitVec.ofNat 32 j) twoWords ∧
      twoWords.cur.derr ≠ some (twoWords.accesses + j) ∧ twoWords.bankProtected (sequenceRegister 127 j) = false ∧
      sequenceFault false (sequenceRegister 127 j) = none) ∧
    base.regStop (base.accessProtected 0) (usesStore 2 (.imm 0x80)) = none ∧ base.sr.chc.toNat / 2 ^ 16 % 2 ^ 8 = 0 ∧
    base.locate ⟨0, false, false, false, 2, 0x80, 0⟩ = .found .idmem 0x80 base ∧ base.bankProtected 2 = false ∧
    sequenceRegister (base.absReg .a 2) 0 = 2#8 := by decide +kernel

theorem witness_RefusedAccessTraps :
    let s : State := { base with cps := 0x872 }
    s.regStop (s.accessProtected 0) (usesLoad 96 (.imm 2)) = none ∧ accessOk s 0 ∧
    s.locate ⟨0, true, false, false, 96, 2, 0⟩ = .trap 1 s ∧
    s.locate ⟨0, true, true, false, 96, 2, 0⟩ = .trap 1 s ∧ s.frozen = false ∧
    mapped.locate ⟨0, false, false, false, 96, 0, 0⟩ = .trap 11 mapped ∧
    mapped.regStop (mapped.accessProtected 0) (usesStore 96 (.imm 0)) = none ∧ accessOk mapped 0 := by
  unfold accessOk; decide +kernel

/-- A hole of instruction/data memory at 0x80. -/
def holed : State := { base with holes := [⟨.data, 0x80, 0x84⟩, ⟨.instr, 0x1000, 0x1004⟩] }

theorem witness_AccessesAreLocated :
    (0x80#8).getLsbD 7 = true ∧ (0x10#8).getLsbD 7 = false ∧ bitOf base.cps 6 = true ∧ (0x20#8).getLsbD 5 = true ∧
    (0x47#8).getLsbD 6 = true ∧ bitOf mapped.cps 6 = false ∧ mapped.mm = false ∧ mapped.hz.ps = false ∧
    ({ mapped with hz := { Hazards.none with ps := true } } : State).hz.ps = true ∧
    mapped.locate ⟨0, true, false, false, 96, 0x802, 0⟩ =
      .found .idmem 0x3002 { mapped with tlbUsage := mapped.tlbUsage.set 2 true } ∧
    mapped.locate ⟨0, true, false, false, 96, 0, 0⟩ =
      .trap 11 { mapped with sr := { mapped.sr with lru := 0 } } ∧
    holed.locate ⟨0, true, false, false, 96, 0x83, 0⟩ = .absent holed ∧
    holed.locate ⟨0, true, false, false, 96, 0x84, 0⟩ = .found .idmem 0x84 holed := by decide +kernel

/-- `mapped` with Region Mapping Unit 0 mapping 0x20000 to 0x50000 in input/output for Supervisor loads, and unit 1
mapping 0x30000 with an unused bit of its region set. -/
def regions : State :=
  { mapped with
    sr := { mapped.sr with rma0 := 0x00020005, rmc0 := 0x00016000, rma1 := 0x00030002, rmc1 := 0x00024000 } }

theorem witness_AddressesAreTranslated :
    (let s := regions
     s.translate 0x21234 false .load = .ok 0x51234 true s ∧
     (match s.translate 0x2FFFF false .store with | .violation _ => true | _ => false) = true ∧
     s.translate 0x800 false .load = .fault .regionUnusedBits) ∧
    bitOf mapped.sr.rmc0 14 = false ∧ bitOf mapped.sr.rmc1 14 = false ∧
    bitOf (mapped.tlbWord 4) 14 = true ∧ mapped.tlbWord 4 &&& 0xFF = 0#32 ∧
    (mapped.tlbWord 4).toNat / 2 ^ 15 = (0x800#32).toNat / 2 ^ 15 ∧ (0x800#32).toNat / 2 ^ 10 % 32 = 2 ∧
    bitOf (mapped.tlbWord 68) 14 = false ∧ allowed (mapped.tlbWord 4) false .load = true ∧
    bitOf (mapped.tlbWord 6) 14 = false ∧ bitOf (mapped.tlbWord 70) 14 = true ∧
    mapped.translate 0x800 false .load = .ok 0x3000 false { mapped with tlbUsage := mapped.tlbUsage.set 2 true } ∧
    mapped.translate 0xC04 false .store = .ok 0x5004 false mapped ∧
    ({ mapped with tlb := mapped.tlb.set 68 0x00004000 } : State).translate 0x800 false .load = .fault .tlbDoubleMatch ∧
    mapped.translate 0x400 false .fetch = .miss { mapped with sr := { mapped.sr with lru := 2 } } := by decide +kernel

theorem witness_AccessErrors :
    failing.regStop (failing.accessProtected 0) (usesLoad 96 (.imm 0x80)) = none ∧ accessOk failing 0 ∧
    failing.cur.derr = some failing.accesses ∧
    failing.locate ⟨0, true, true, false, 96, 0x80, 0⟩ = .found .idmem 0x80 failing ∧ failing.frozen = false ∧
    holed.locate ⟨0, true, true, false, 96, 0x80, 0⟩ = .absent holed ∧ accessOk holed 0 ∧
    holed.regStop (holed.accessProtected 0) (usesLoad 96 (.imm 0x80)) = none ∧
    base.regStop (base.accessProtected 0x80) (usesStore 96 (.imm 0x80)) = none ∧ (0x80#8).getLsbD 7 = true ∧
    bitOf base.sr.cfg 1 = false ∧
    (let s : State := { base with cur := { Input.quiet with derr := some 1 } }
     s.locate ⟨0, true, true, false, 96, 0x80, 0⟩ = .found .idmem 0x80 s ∧ s.cur.derr = some (s.accesses + 1)) := by
  unfold accessOk; decide +kernel

/-- LOADM or STOREM of two words, from register 127, in a state with two words to come. -/
def multipleOk (s : State) (load : Bool) : Bool :=
  decide (s.regStop (s.accessProtected 0) (if load then usesLoad 127 (.imm 0x80) else usesStore 127 (.imm 0x80)) = none) &&
    !s.frozen && !s.hz.multiple && (s.startedSequence 0 127 (.imm 0x80) load).last == 1 &&
    answeredAt (s.startedSequence 0 127 (.imm 0x80) load) s .idmem 0x80 0

theorem witness_AccessErrors_multiple :
    (let s : State := { twoWords with cur := { Input.quiet with derr := some 1 } }
     let q := s.startedSequence 0 127 (.imm 0x80) true
     (multipleOk s true && multipleOk s false) = true ∧ q.Made s .idmem 0x80 0 ∧ q.Fails s 1) ∧
    (let s : State := { twoWords with holes := [⟨.data, 0x84, 0x88⟩] }
     multipleOk s false = true ∧ (s.startedSequence 0 127 (.imm 0x80) false).Fails s 1) ∧
    (let s : State := { mapped with sr := twoWords.sr, sp := 0xFFC }
     let q := s.startedSequence 0 127 (.reg 1) true
     s.regStop (s.accessProtected 0) (usesLoad 127 (.reg 1)) = none ∧ q.last = 1 ∧ q.Made s .idmem 0x53FC 0 ∧
       q.Traps s 11 1) ∧
    (let s : State := { twoWords with cps := 0x62, sr := { twoWords.sr with rbp := 0x0100 } }
     let q := s.startedSequence 0 127 (.imm 0x80) false
     multipleOk s false = true ∧ s.bankProtected (q.reg 1) = true) := by
  refine ⟨⟨by decide +kernel, made_of_answered (by decide +kernel), ⟨by decide +kernel, .inl (by decide +kernel)⟩, ?_,
      { twoWords with cur := { Input.quiet with derr := some 1 } }, .inr ⟨.idmem, 0x84, by decide +kernel, by decide +kernel⟩⟩,
    ⟨by decide +kernel, ⟨by decide +kernel, .inl (by decide +kernel)⟩, ?_,
      { twoWords with holes := [⟨.data, 0x84, 0x88⟩] }, .inl (by decide +kernel)⟩,
    ⟨by decide +kernel, by decide +kernel, made_of_answered (by decide +kernel),
      ⟨by decide +kernel, .inl (by decide +kernel)⟩, .inr ⟨?_,
      { mapped with sp := 0xFFC, sr := { twoWords.sr with lru := 8 } }, by decide +kernel⟩⟩, by decide +kernel⟩
  all_goals unfold Sequence.NoUnit; decide +kernel

theorem witness_MoveFromSpecialCompletes :
    base.regStop (base.user && (decide ((2#8).toNat < 128) || decide (165 ≤ (2#8).toNat))) [⟨.c, 96, .dst .other⟩] = none ∧
    userBase.regStop (userBase.user && (decide ((164#8).toNat < 128) || decide (165 ≤ (164#8).toNat)))
      [⟨.c, 3, .dst .other⟩] = none ∧
    base.frozen = false ∧ base.mm = false ∧ (∃ e ∈ specialTable, (164#8).toNat = e.1) := by
  refine ⟨by decide +kernel, by decide +kernel, by decide +kernel, by decide +kernel, ?_⟩
  simp [specialTable]

theorem witness_MoveToSpecialCompletes :
    (∃ e ∈ specialTable, (0#8).toNat = e.1) ∧ (∃ e ∈ specialTable, (164#8).toNat = e.1) ∧
    base.regStop (base.user && (decide ((0#8).toNat < 128) || decide (165 ≤ (0#8).toNat))) [⟨.b, 97, .src⟩] = none ∧
    userBase.regStop (userBase.user && (decide ((164#8).toNat < 128) || decide (165 ≤ (164#8).toNat))) [] = none := by
  refine ⟨by simp [specialTable], by simp [specialTable], by decide +kernel, by decide +kernel⟩

theorem witness_MoveToStatusCompletes :
    base.regStop (base.user && decide ((2#8).toNat < 128)) [⟨.b, 97, .src⟩] = none ∧
    base.regStop (base.user && decide ((3#8).toNat < 128)) [] = none ∧
    userBase.regStop (userBase.user && decide ((132#8).toNat < 128)) [⟨.b, 97, .src⟩] = none ∧
    bitOf (base.src .b 97) 10 = false := by decide +kernel

theorem witness_TlbMovesComplete : base.user = false ∧ base.regStop false [⟨.a, 97, .src⟩, ⟨.b, 98, .src⟩] = none ∧
    base.regStop false [⟨.a, 97, .src⟩, ⟨.c, 96, .dst .other⟩] = none := by decide +kernel

theorem witness_PrivilegedInUserMode : userBase.user = true ∧ (127#8).toNat < 128 ∧ 165 ≤ (165#8).toNat ∧
    userBase.debugger = false ∧ (0x28#8).getLsbD 7 = false ∧ (0x20#8).getLsbD 5 = true ∧ (0x08#8).getLsbD 3 = true := by
  decide +kernel

theorem witness_ProtectedBanksTrap :
    let s : State := { userBase with spShadow := 127, sr := { userBase.sr with rbp := 0x8001, ipc := 0x10 } }
    s.user = true ∧ s.fieldFault .a 4 = none ∧ 4 ≤ (s.absReg .a 4).toNat ∧
      bitOf s.sr.rbp ((s.absReg .a 4).toNat / 16) = true ∧
      s.spValid = true ∧ s.hz.sp = false ∧ s.absReg .b 128 = 255#8 ∧ bitOf s.sr.rbp (255 / 16) = true ∧
      s.hz.ipc = false ∧ s.absReg .c 0 = 4#8 ∧ s.bankProtected 3 = false ∧ s.bankProtected 16 = false := by decide +kernel

theorem witness_StackPointerShadow : base.absReg .c 1 = 1#8 ∧ base.regStop false (usesRRM .alu 1 97 (.imm 8)) = none ∧
    gives (.add 1 97 (.imm 8)) base (fun t => t.spValid && t.spShadow == 2#7) = true ∧
    gives (.sll 1 97 (.imm 8)) base (fun t => !t.spValid) = true ∧
    base.regStop false (usesRRM .other 1 97 (.imm 8)) = none := by decide +kernel

/-- The outcome of an operation is delivered and all its exceptions are masked. -/
def delivers (s : State) (o : FpOutcome) : Bool := o.result.isSome && o.status.bits &&& ~~~(s.sr.fpe &&& 0x3F) == 0

theorem witness_FloatArithmeticCompletes :
    let s := base2 0x3F800000 0x33800001
    s.regStop false (usesFp .single .single 96 97 98) = none ∧ s.regStop false (usesFp .double .double 96 98 100) = none ∧
    s.regStop false (usesFp .single .double 96 97 98) = none ∧ s.regStop false (usesFp .double .single 96 98 100) = none ∧
    ([fpAdd, fpMul, fpDiv].all fun g =>
      delivers s ((g .single s.fpEnv (s.fpSrc false .single .a 97) (s.fpSrc false .single .b 98)).packed .single) &&
      delivers s ((g .double s.fpEnv (s.fpSrc false .double .a 98) (s.fpSrc false .double .b 100)).packed .double)) = true ∧
    delivers s (fpCompare FpValue.equals FpValue.isSNaN (s.fpSrc false .single .a 97) (s.fpSrc false .single .b 98)) =
      true ∧ s.fastFloat = false := by decide +kernel

theorem witness_FloatConversionsComplete :
    let s := base2 0x3F800000 0
    let m := withAcf 1
    s.regStop false [⟨.a, 97, srcUse .single⟩, ⟨.c, 96, dstUse .single⟩] = none ∧
    delivers s (fpToInteger false s.fpEnv (s.fpSrc false .single .a 97)) = true ∧
    (0x31#8).toNat % 4 = 1 ∧ (0x31#8).toNat / 4 % 4 = 0 ∧ (0x31#8).toNat / 16 % 8 ≤ 4 ∧
    delivers s ((fpConvert .double s.fpEnv (integerValue true (s.src .a 97))).packed .double) = true ∧
    (0x88#8).toNat % 4 = 0 ∧ (0x88#8).toNat / 4 % 4 = 2 ∧
    s.regStop false [⟨.a, 98, srcUse .double⟩, ⟨.c, 96, dstUse .single⟩] = none ∧
    delivers s ((fpConvert .single s.fpEnv (s.fpSrc false .double .a 98)).packed .single) = true ∧
    (0x46#8).toNat % 4 = 2 ∧ (0x46#8).toNat / 4 % 4 = 1 ∧
    delivers s ((fpSqrt .single s.fpEnv (s.fpSrc false .single .a 97)).packed .single) = true ∧
    m.sr.fpe.toNat / 2 ^ 9 % 4 = 1 ∧ m.regStop false [⟨.c, 96, dstUse .single⟩] = none ∧
    delivers m ((fpConvert .single m.fpEnv (unpack .double false (m.getAcc 0))).packed .single) = true := by
  decide +kernel

theorem witness_FloatOperationsAreCorrect :
    (FpValue.fin false 3 (-1)).Is false (3 / 2) ∧ (FpValue.fin true 0 5).Is true 0 ∧ (FpValue.inf true).At ⊥ ∧
    (FpValue.nan true).isNaN = true ∧ Fmt.single.Rounds .zero 1 1 ∧ (2 : ℝ) ^ Fmt.single.minExp ≤ |1| := by
  refine ⟨⟨3, -1, rfl, ?_⟩, ⟨0, 5, rfl, by simp⟩, .inr (.inl ⟨rfl, rfl⟩), rfl,
    ⟨0, by simp, by simp, 2 ^ 23, ?_, by simp⟩, ?_⟩
  · norm_num [signFactor]
  · norm_num [Fmt.precision, zpow_neg]
  · rw [abs_one]; exact zpow_le_one_of_nonpos₀ (by norm_num) (by decide)

theorem witness_FloatExceptionsTrap :
    (let s := { base2 0x7F000000 0x7F000000 with sr := { base.sr with fpe := 0 } }
     s.TrapReady ∧ s.regStop false (usesFp .single .single 96 97 98) = none ∧
     ((fpMul .single s.fpEnv (s.fpSrc false .single .a 97) (s.fpSrc false .single .b 98)).packed .single).status.bits &&&
       ~~~(s.sr.fpe &&& 0x3F) ≠ 0) ∧
    (let s := { base2 0x4F000000 0 with sr := { base.sr with fpe := 0x3B } }
     s.regStop false [⟨.a, 97, srcUse .single⟩, ⟨.c, 96, dstUse .single⟩] = none ∧
     (fpToInteger false s.fpEnv (s.fpSrc false .single .a 97)).result = none ∧
     (fpToInteger false s.fpEnv (s.fpSrc false .single .a 97)).status.bits &&& ~~~(s.sr.fpe &&& 0x3F) = 0) ∧
    (0x31#8).toNat % 4 = 1 ∧ (0x31#8).toNat / 4 % 4 = 0 ∧ (0x31#8).toNat / 16 % 8 = 3 :=
  ⟨⟨⟨by decide +kernel, by decide +kernel, by decide +kernel⟩, by decide +kernel, by decide +kernel⟩,
    ⟨by decide +kernel, by decide +kernel, by decide +kernel⟩, by decide +kernel, by decide +kernel, by decide +kernel⟩

theorem witness_ReservedControlFieldsTrap : base.TrapReady ∧ base.sr.fpe.toNat / 2 ^ 9 % 4 = 0 ∧
    (withAcf 3).sr.fpe.toNat / 2 ^ 9 % 4 = 3 ∧
    base.regStop false [⟨.a, 97, .number⟩, ⟨.b, 98, .number⟩] = none ∧
    base.regStop false [⟨.a, 97, .number⟩, ⟨.c, 96, .number⟩] = none ∧ base.regStop false [⟨.c, 96, .number⟩] = none :=
  ⟨base_ready, by decide +kernel, by decide +kernel, by decide +kernel, by decide +kernel, by decide +kernel⟩

theorem witness_AccumulationCompletes : (withAcf 1).sr.fpe.toNat / 2 ^ 9 % 4 = 1 ∧
    (withAcf 2).sr.fpe.toNat / 2 ^ 9 % 4 = 2 ∧
    (withAcf 1).regStop false [⟨.a, 97, .fpuSrc⟩, ⟨.b, 98, .fpuSrc⟩] = none ∧
    (withAcf 2).regStop false [⟨.a, 98, .doubleSrc⟩, ⟨.b, 100, .doubleSrc⟩] = none ∧
    (withAcf 1).regStop false (usesFp .single .single 96 97 98) = none ∧
    (withAcf 2).regStop false (usesFp .double .double 96 98 100) = none ∧
    (withAcf 2).regStop false [⟨.a, 98, srcUse .double⟩] = none := by decide +kernel

theorem witness_ClassifyCompletes :
    base.regStop false [⟨.a, 97, srcUse .single⟩, ⟨.c, 96, .dst .fpu⟩] = none ∧
    base.regStop false [⟨.a, 98, srcUse .double⟩, ⟨.c, 96, .dst .fpu⟩] = none ∧ (2#8).toNat % 4 = 2 := by decide +kernel

theorem witness_RoundingIsCorrect : 0 < 0x1FFFFFF ∧ (roundTo .single .nearest false 0x1FFFFFF 0).inexact = true := by
  decide +kernel

theorem witness_PatternsRoundTrip :
    (unpack .single false 0xFF800000).isNaN = false ∧ (unpack .single false 0x80000001).isNaN = false ∧
    (unpack .single false 0x7F800001).isNaN = true ∧ (unpack .double false 0x7FF0000000000000).isNaN = false ∧
    (unpack .double false 0x8000000000000000).isNaN = false := by decide +kernel

theorem witness_QuotientAndRootAreFaithful : 0 < 1 ∧ 0 < 3 ∧ (quotient .single 1 3 0 0).1 % 2 = 1 ∧
    (quotient .single 6 3 0 0).1 % 2 = 0 ∧ (squareRoot .single 2 0).1 % 2 = 1 ∧ (squareRoot .single 4 0).1 % 2 = 0 := by
  decide +kernel

theorem witness_OperationCodesDecide : decode 0x14606162 = .ok (.add 96 97 (.reg 98)) ∧
    decode 0 = .error (.illegalOpcode 0) ∧ decode 0xFF000000 = .error (.reservedForEmulation 0xFF 63) := by decide +kernel

theorem witness_UnimplementedCodesTrap : decode 0xCD000000 = .error (.illegalOpcode 0xCD) ∧
    decode 0xBF606162 = .error (.reservedForEmulation 0xBF 28) ∧ base.TrapReady ∧
    base.regStop false [⟨.a, aField 0xBF606162, .number⟩, ⟨.b, bField 0xBF606162, .number⟩,
      ⟨.c, cField 0xBF606162, .number⟩] = none ∧
    (let s : State := { userBase with sr := { userBase.sr with rbp := 0x0040 } }
     s.user = true ∧ s.fieldFault .b (bField 0xBF606162) = none ∧ 4 ≤ (s.absReg .b (bField 0xBF606162)).toNat ∧
       bitOf s.sr.rbp ((s.absReg .b (bField 0xBF606162)).toNat / 16) = true) :=
  ⟨by decide +kernel, by decide +kernel, base_ready, by decide +kernel, by decide +kernel⟩

/-- A frame of the Branch Target Cache that holds `add gr96, gr97, gr98` for a branch to 0x1000, PI = SM = 1. -/
def cached : State :=
  { base2 2 3 with
    pcSeq := false
    btc := { Btc.reset with
      disabled := false
      blocks := Btc.reset.blocks.set 0 ⟨false, btcTag 0x1000, 3, Vector.replicate 4 (some 0x14606162)⟩ } }

theorem witness_StepRunsInstruction_cached :
    let s1 := cached.sample
    s1.fetchPlace = .at .idmem 0x1000 s1 ∧ s1.btcStart.btcWord = some 0x14606162 ∧ s1.asyncDue = none ∧
    (match step cached with | .next t => t.getGR 96 == 5#32 | _ => false) = true := by decide +kernel

/-- The word of `add gr96, gr97, gr98` where `base2` fetches. -/
def placed : State := (base2 2 3).withFetchWord 32 0x14606162

theorem witness_StepRunsInstruction :
    let s1 := placed.sample
    s1.cur.reset = false ∧ s1.warnPending = false ∧ s1.cur.cntl = 3 ∧ placed.cur.cntl = 3 ∧
    placed.opMode = .executing ∧ placed.mm = false ∧ s1.asyncDue = none ∧ placed.wm = false ∧
    s1.fetchPlace = .at .idmem 0x1000 s1 ∧ s1.btcStart.btcWord = none ∧ placed.prefetched = [] ∧ s1.cur.ierr = false ∧
    placed.missing .instr 0x1000 = false ∧
    decode (readWord placed.idmem 0x1000) = .ok (.add 96 97 (.reg 98)) ∧
    s1.encounter placed.sr.iba0 placed.sr.ibc0 = false ∧ s1.encounter placed.sr.iba1 placed.sr.ibc1 = false := by
  decide +kernel

/-- `placed` after an interrupt return that fetched the next instruction before a sequence overwrote its word. -/
def fetchedEarly (x : EarlyFetch) : State := { placed with early := [x], idmem := [] }

theorem witness_StepRunsInstruction_early :
    let s := fetchedEarly (.found .idmem 0x1000 0x14606162)
    let s1 := s.sample
    s1.asyncDue = none ∧ s.wm = false ∧ s1.fetchPlace = .at .idmem 0x1000 s1 ∧ s1.btcStart.btcWord = none ∧
    s.prefetched = [] ∧ s1.cur.ierr = false ∧ s.missing .instr 0x1000 = false ∧
    decode 0x14606162 = .ok (.add 96 97 (.reg 98)) ∧ readWord s.idmem 0x1000 ≠ 0x14606162 := by decide +kernel

theorem witness_StepTakesInterruptsAndTraps_early :
    (let s := fetchedEarly (.trap 10 4)
     s.sample.asyncDue = none ∧
     s.sample.fetchPlace = .trap 10 { s.sample with sr := { s.sample.sr with lru := 8 } }) ∧
    (fetchedEarly (.fault .tlbDoubleMatch)).fetchPlace = .fault .tlbDoubleMatch := by decide +kernel

theorem witness_StepRunsInstruction_monitor :
    let s : State := State.withFetchWord { base with cps := 0x10072 } 32 0x14606162
    let s1 := s.sample
    s1.warnPending = false ∧ s.mm = true ∧ s1.derrEvent = none ∧ s1.fetchPlace = .at .irom 0x1000 s1 ∧
    s1.btcStart.btcWord = none ∧ decode (readWord s.irom 0x1000) = .ok (.add 96 97 (.reg 98)) := by decide +kernel

theorem witness_TrapEntry : base.TrapReady ∧ ({ base with sr := { base.sr with cfg := 0x10 } } : State).TrapReady :=
  ⟨base_ready, by decide +kernel, by decide +kernel, by decide +kernel⟩

theorem witness_UnexecutedTrapEntry : base.TrapReady ∧ base.lastpcKnown = true ∧ bitOf base.cps 10 = false ∧
    base.fzWindow = 0 := ⟨base_ready, by decide +kernel, by decide +kernel, by decide +kernel⟩

theorem witness_MonitorTrapEntry : ({ base with cps := 0x473 } : State).mm = false ∧
    ({ base with cps := 0x473 } : State).da = true := by decide +kernel

theorem witness_WarnIsTaken :
    let s : State := { base with inputs := [{ Input.quiet with warn := true, cntl := 2 }] }
    s.sample.cur.reset = false ∧ s.sample.warnPending = true ∧ s.cur.cntl ^^^ s.sample.cur.cntl ≠ 3 ∧
    s.sample.cur.cntl ≠ 0 := by decide +kernel

theorem witness_StepTakesInterruptsAndTraps_interrupt :
    let s : State := { base with cps := 0x7C, inputs := [{ Input.quiet with intr := 8 }] }
    let s1 := s.sample
    s.Runs ∧ s.mm = false ∧ s.da = false ∧ s.di = false ∧ 3 ≤ s.im ∧ s.derrEvent = none ∧
    bitOf s.sr.chc 10 = false ∧ s1.cur.trap = 0 ∧
    s1.cur.intr.getLsbD 3 = true ∧ (∀ k < 3, s1.cur.intr.getLsbD k = false) ∧ s1.vectorFails 19 = false :=
  ⟨⟨by decide +kernel, by decide +kernel, by decide +kernel, by decide +kernel, by decide +kernel⟩, by decide +kernel⟩

theorem witness_StepTakesInterruptsAndTraps_trace :
    let s : State := { base with cps := 0x1072, inputs := [{ Input.quiet with intr := 8 }] }
    let m : State := { base with cps := 0x10F3 }
    s.Runs ∧ (bitOf s.cps 12 = true ∧ s.da = false ∧ s.sample.cur.trap = 0 ∧ s.im < 3 ∧
      s.derrEvent = none ∧ bitOf s.sr.chc 10 = false ∧ s.sample.vectorFails 15 = false) ∧ m.Runs ∧ bitOf m.cps 12 = true ∧ m.da = true ∧
    m.derrEvent = none ∧ ({ base with cps := 0xF2 } : State).wm = true ∧
    ({ base with cps := 0xF2 } : State).sample.asyncDue = none :=
  ⟨⟨by decide +kernel, by decide +kernel, by decide +kernel, by decide +kernel, by decide +kernel⟩, by decide +kernel,
    ⟨by decide +kernel, by decide +kernel, by decide +kernel, by decide +kernel, by decide +kernel⟩, by decide +kernel⟩

theorem witness_StepTakesInterruptsAndTraps_data :
    (let s := lateDerr 97
     let n : State := { s with derrLeft := 0, cps := 0x73 }
     let m : State := { s with cps := 0x10072 }
     let p := s.withFetchWord 32 0x14606162
     s.Runs ∧ s.mm = false ∧ s.derrEvent = some 7 ∧ s.da = false ∧ s.sample.vectorFails 7 = false ∧
     (match p.sample.upcoming with | some i => p.sample.heldByAccess i | none => false) = true ∧
     n.derrLeft = 0 ∧ n.da = true ∧ m.mm = true ∧ ({ s with cps := 0xF2 } : State).wm = true ∧
     ({ s with inputs := [{ Input.quiet with trap := 2 }] } : State).sample.otherDue = some 21) ∧
    (let s : State := { base with sr := { base.sr with chc := 0x80000400 } }
     bitOf s.sr.chc 10 = true ∧ s.derrEvent = none ∧ s.da = false ∧ s.sample.vectorFails 4 = false) :=
  ⟨⟨⟨by decide +kernel, by decide +kernel, by decide +kernel, by decide +kernel, by decide +kernel⟩, by decide +kernel⟩,
    by decide +kernel⟩

theorem witness_StepTakesInterruptsAndTraps_pins :
    (let s : State := { base with inputs := [{ Input.quiet with trap := 3 }] }
     s.Runs ∧ s.sample.cur.trap.getLsbD 0 = true ∧ s.da = false ∧ s.sample.vectorFails 20 = false) ∧
    (let s : State := { base with inputs := [{ Input.quiet with trap := 2 }] }
     s.Runs ∧ s.sample.cur.trap.getLsbD 0 = false ∧ s.sample.cur.trap.getLsbD 1 = true) ∧
    (let s : State := { base with
       inputs := [{ Input.quiet with intr := 8 }], sr := { base.sr with tmr := 0x03000000 } }
     s.Runs ∧ s.sample.cur.trap = 0 ∧ s.im < 3 ∧ bitOf s.sr.tmr 25 = true ∧ bitOf s.sr.tmr 24 = true ∧
     s.sample.vectorFails 14 = false) :=
  ⟨⟨⟨by decide +kernel, by decide +kernel, by decide +kernel, by decide +kernel, by decide +kernel⟩, by decide +kernel⟩,
    ⟨⟨by decide +kernel, by decide +kernel, by decide +kernel, by decide +kernel, by decide +kernel⟩, by decide +kernel⟩,
    ⟨⟨by decide +kernel, by decide +kernel, by decide +kernel, by decide +kernel, by decide +kernel⟩, by decide +kernel⟩⟩

theorem base_executes : base.Executes :=
  ⟨⟨by decide +kernel, by decide +kernel, by decide +kernel, by decide +kernel, by decide +kernel⟩, by decide +kernel,
    by decide +kernel, by decide +kernel⟩

theorem witness_StepTakesInterruptsAndTraps_fetch :
    base.Executes ∧ ({ base with cps := 0x52 } : State).sample.fetchPlace =
      .trap 10 ({ base with cps := 0x52, sr := { base.sr with lru := 8 } } : State) ∧
    (let s := holed.sample
     s.fetchPlace = .at .idmem 0x1000 s ∧ s.btcStart.btcWord = none ∧ holed.missing FetchSpace.idmem.map 0x1000 = true) ∧
    (let s : State := { base with cps := 0x10072, inputs := [{ Input.quiet with ierr := true }] }
     s.sample.fetchPlace = .at .irom 0x1000 s.sample ∧ s.sample.cur.ierr = true ∧ s.mm = true ∧ s.derrEvent = none) :=
  ⟨base_executes, by decide +kernel, by decide +kernel, by decide +kernel⟩

theorem witness_StepTakesInterruptsAndTraps_breakpoint :
    let s : State := { placed with
      sr := { placed.sr with iba0 := 0x1000, ibc0 := 0xC00, iba1 := 0x1000, ibc1 := 0x1C00 } }
    s.Breaks s.sr.iba0 s.sr.ibc0 ∧ s.Meets s.sr.iba1 s.sr.ibc1 ∧ ¬ s.Breaks s.sr.iba1 s.sr.ibc1 ∧
    (match s.sample.fetch with | .ok _ _ => true | _ => false) = true ∧
    (match step s with
     | .next t => t.pc == 0x200F00#32 && bitOf t.sr.ibc0 12 && !bitOf t.sr.ibc1 12
     | _ => false) = true := by
  unfold State.Breaks State.Meets; decide +kernel

theorem witness_TimerCounts : base.sr.tmc = 0#32 ∧
    2 ≤ ({ base with sr := { base.sr with tmc := 2, tmr := 0x02000000 } } : State).sr.tmc.toNat ∧
    bitOf (0x02000000 : Word) 25 = true := by decide +kernel

theorem witness_ResetInput :
    let s : State := { base with inputs := [{ Input.quiet with reset := true }] }
    s.sample.cur.reset = true ∧ s.sample.cur.cntl = 3 := by decide +kernel

theorem witness_StepKeepsSound : placed.Sound ∧ ∃ t, step placed = .next t := by
  have hi : placed.imem = none := by decide +kernel
  refine ⟨⟨by decide +kernel, by decide +kernel, by decide +kernel, by decide +kernel, by simp [hi],
    by decide +kernel, by decide +kernel, by decide +kernel, ?_, ?_⟩, ?_⟩
  · constructor <;> decide +kernel
  · intro n
    have h : placed.tlb = Vector.replicate 128 0 := by decide +kernel
    by_cases hn : 2 * n + 1 < 128 <;> simp [State.tlbWord, h, Vector.getD, hn]
  · have h : (match step placed with | .next _ => true | _ => false) = true := by decide +kernel
    revert h
    cases step placed <;> simp

theorem witness_UserModeIsConfined :
    let s : State := { userBase with sr := { userBase.sr with rbp := 0x0080 } }
    s.user = true ∧ gives (.add 96 97 (.reg 98)) s (fun t => t.user) = true ∧ 64 ≤ (112#8).toNat ∧
      bitOf s.sr.rbp ((112#8).toNat / 16) = true := by decide +kernel

theorem witness_ReturnUndoesTrap : base.TrapReady ∧ bitOf base.cps 10 = false ∧ base.fzWindow = 0 ∧
    base.npc &&& 3 = 0 ∧ base.cps &&& 0xFFFE4000 = 0 ∧ bitOf base.sr.chc 0 = false ∧
    ∃ t, base.takeInstTrap 0x14 2 .next = .next t :=
  ⟨base_ready, by decide +kernel, by decide +kernel, by decide +kernel, by decide +kernel, by decide +kernel,
    { base with sr := { base.sr with exop := 0x14 } }.ordinaryTrap 2 .next, rfl⟩

end Sys2Proof.Tests
end

namespace Sys2Proof.Machine

/-! ### What a fetch finds and what it changes (20_memory.md R200, R222) -/

theorem State.missing_iff (s : State) (sp : MapSpace) (p : Word) : s.missing sp p = true ↔ s.Absent sp p := by
  simp [State.missing, State.Absent, List.any_eq_true, and_assoc]

/-- A translation that finds a place writes Usage bits only. -/
theorem State.translate_ok {s t : State} {a p : Word} {user io : Bool} {k : AccessKind}
    (h : s.translate a user k = .ok p io t) : ∃ l, t = { s with tlbUsage := l } := by
  have m := State.translate_map (s := s) (t := s) ⟨rfl, rfl, rfl, rfl, rfl, rfl, fun _ _ => rfl, rfl, rfl⟩ a user k
  rw [h] at m
  obtain ⟨-, -, ht, -⟩ := m
  exact ⟨_, ht⟩

/-- The place of the instruction at an address is found without a change of anything but Usage bits. -/
theorem State.placeOf_at {s u : State} {a p : Word} {sp : FetchSpace} (h : s.placeOf a = .at sp p u) :
    ∃ l, u = { s with tlbUsage := l } := by
  unfold State.placeOf at h
  split at h
  · cases h; exact ⟨_, rfl⟩
  · split at h
    · cases h; exact ⟨_, rfl⟩
    · split at h
      case h_1 ht => cases h; exact State.translate_ok ht
      all_goals cases h

theorem State.fetchPlace_at {s u : State} {p : Word} {sp : FetchSpace} (h : s.fetchPlace = .at sp p u) :
    ∃ l, u = { s with tlbUsage := l } := by
  unfold State.fetchPlace at h
  split at h
  · exact State.placeOf_at h
  · cases h; exact ⟨_, rfl⟩
  all_goals cases h

/-- What using the Branch Target Cache changes: its frames, but not whether an INV is pending, and the number of the
next free value. -/
def State.CacheOnly (s t : State) : Prop :=
  ∃ b n, t = { s with btc := b, fresh := n } ∧ b.pendingInv = s.btc.pendingInv

theorem State.CacheOnly.refl (s : State) : s.CacheOnly s := ⟨_, _, rfl, rfl⟩

theorem State.CacheOnly.trans {s t u : State} (h : s.CacheOnly t) (k : t.CacheOnly u) : s.CacheOnly u := by
  obtain ⟨b, n, rfl, hb⟩ := h
  obtain ⟨c, m, rfl, hc⟩ := k
  exact ⟨c, m, rfl, hc.trans hb⟩

theorem State.btcOpen_cacheOnly (s : State) : s.CacheOnly s.btcOpen := by
  unfold State.btcOpen
  cases s.btcLookup <;> exact ⟨_, _, rfl, rfl⟩

theorem State.btcStart_cacheOnly (s : State) : s.CacheOnly s.btcStart := by
  unfold State.btcStart
  split_ifs
  · exact s.btcOpen_cacheOnly
  · split
    · split_ifs
      · exact ⟨_, _, rfl, rfl⟩
      · exact .refl s
    · exact .refl s

theorem State.btcFill_cacheOnly (s : State) (sp : FetchSpace) (p w : Word) : s.CacheOnly (s.btcFill sp p w) := by
  unfold State.btcFill
  split
  · exact ⟨_, _, rfl, rfl⟩
  · exact .refl s

/-- The word of instruction/data memory that the next fetch is for, where no store has overtaken a prefetched one: the
memory's, or the one that an interrupt return has found (48_miscellaneous.md R606). -/
def State.memoryWord (s : State) (p : Word) : Word :=
  match s.early with
  | .found _ _ v :: _ => v
  | _ => readWord s.fetchMemory p

theorem State.memoryFetch_eq {s : State} (h : s.prefetched = []) (p : Word) :
    s.memoryFetch p = (s.memoryWord p, s) := by
  have hs : s.stale (wordBase p) = [] := by simp [State.stale, State.buffered, h]
  unfold State.memoryFetch State.memoryWord
  rcases s.early with _ | ⟨_ | _ | _, es⟩ <;> simp [hs]

/-- A fetch from a place delivers a word that no free choice decides: the Branch Target Cache does, or an access that
IERR does not answer, to an address that exists. -/
inductive State.Delivers (s : State) : FetchSpace → Word → Word → Prop
  | cached {sp : FetchSpace} {p w : Word} : s.btcStart.btcWord = some w → s.Delivers sp p w
  | memory {p : Word} : s.btcStart.btcWord = none → s.cur.ierr = false → ¬ s.Absent .instr p →
      s.Delivers .idmem p (s.memoryWord p)
  | rom {p : Word} : s.btcStart.btcWord = none → s.cur.ierr = false → ¬ s.Absent .irom p →
      s.Delivers .irom p (readWord s.irom p)

/-- An external access, with the cache filled from the word it delivers. -/
theorem State.fetchAt_external {s : State} {sp : FetchSpace} {p w : Word} (hc : s.btcStart.btcWord = none)
    (hi : s.cur.ierr = false) (ha : ¬ s.Absent sp.map p) (hw : s.btcStart.externalFetch sp p = (w, s.btcStart)) :
    s.fetchAt sp p = .ok w (s.btcStart.btcFill sp p w).agePrefetched.ageOldFetch := by
  rw [← State.missing_iff, Bool.not_eq_true] at ha
  simp [State.fetchAt, hc, hi, ha, hw]

/-- The word arrives, and of the state only the cache has changed before the fetch is counted. -/
theorem State.Delivers.fetchAt {s : State} {sp : FetchSpace} {p w : Word} (h : s.Delivers sp p w)
    (hp : s.prefetched = []) :
    ∃ v, s.CacheOnly v ∧ s.fetchAt sp p = .ok w v.agePrefetched.ageOldFetch := by
  obtain ⟨b, n, hs, -⟩ := s.btcStart_cacheOnly
  have filled := fun sp w => s.btcStart_cacheOnly.trans (s.btcStart.btcFill_cacheOnly sp p w)
  cases h with
  | cached hc => exact ⟨_, s.btcStart_cacheOnly, by simp [State.fetchAt, hc]⟩
  | memory hc hi ha =>
    have hm : s.btcStart.memoryFetch p = (s.btcStart.memoryWord p, s.btcStart) :=
      State.memoryFetch_eq (by rw [hs]; exact hp) p
    have hw : s.btcStart.memoryWord p = s.memoryWord p := by rw [hs]; rfl
    exact ⟨_, filled .idmem _, State.fetchAt_external hc hi ha (hw ▸ hm)⟩
  | rom hc hi ha =>
    have hw : s.btcStart.irom = s.irom := by rw [hs]
    exact ⟨_, filled .irom _, State.fetchAt_external hc hi ha (by rw [State.externalFetch, hw])⟩

/-- With nothing among the prefetched words, counting a fetch takes the instruction fetched early, if there is one, and
brings the end of old RE, PI and SM one fetch nearer. -/
theorem State.agePrefetched_ageOldFetch {s : State} (h : s.prefetched = []) :
    s.agePrefetched.ageOldFetch = { s with early := s.early.tail, oldFetch := agedFetch s.oldFetch } := by
  simp [State.agePrefetched, State.ageOldFetch, State.buffered, h]

/-- All that the fetch of a delivered word changes. -/
theorem State.fetch_of_delivers {s u : State} {sp : FetchSpace} {p w : Word} (h : s.fetchPlace = .at sp p u)
    (hp : s.prefetched = []) (hd : u.Delivers sp p w) :
    ∃ b n, b.pendingInv = s.btc.pendingInv ∧ s.fetch = .ok w { s with
      tlbUsage := u.tlbUsage, btc := b, fresh := n, early := s.early.tail, oldFetch := agedFetch s.oldFetch } := by
  obtain ⟨l, rfl⟩ := State.fetchPlace_at h
  obtain ⟨v, ⟨b, n, rfl, hb⟩, hf⟩ := hd.fetchAt hp
  exact ⟨b, n, hb, by rw [State.fetch, h]; exact hf.trans (congrArg _ (State.agePrefetched_ageOldFetch hp))⟩

/-! ### Instruction breakpoints (60_exceptions.md R731) -/

theorem State.encounter_iff (s : State) (iba ibc : Word) : s.encounter iba ibc = true ↔ s.Meets iba ibc := by
  have hf : ∀ w : Word, fieldOf w 0 8 = w &&& 0xFF := fun w => by simp [fieldOf]
  have ha : iba >>> 2 = s.pc >>> 2 ↔ iba.toNat / 4 = s.pc.toNat / 4 := by
    simp [← BitVec.toNat_inj, Nat.shiftRight_eq_div_pow]
  simp [State.encounter, State.Meets, State.pid, hf, ha, and_assoc]

/-- An instruction that meets no unit passes the comparison, which changes nothing. -/
theorem State.breakpoints_of_not_meets {s : State}
    (h : s.mm = true ∨ ¬ s.Meets s.sr.iba0 s.sr.ibc0 ∧ ¬ s.Meets s.sr.iba1 s.sr.ibc1) : s.breakpoints = (false, s) := by
  simp only [← State.encounter_iff, Bool.not_eq_true] at h
  rcases h with hm | ⟨h0, h1⟩
  · simp [State.breakpoints, hm]
  · simp [State.breakpoints, breakUnit, h0, h1]

/-! ### The instruction of a step (00_scope.md R8) -/

/-- A fetched instruction that meets no breakpoint is executed. -/
theorem State.fetchExecute_of_fetch {run : Instr → State → Out} {s t : State} {w : Word} {i : Instr}
    (hf : s.fetch = .ok w t) (hd : decode w = .ok i)
    (hb : t.mm = true ∨ ¬ t.Meets t.sr.iba0 t.sr.ibc0 ∧ ¬ t.Meets t.sr.iba1 t.sr.ibc1) :
    s.fetchExecute run = run i t := by
  simp [State.fetchExecute, hf, State.breakpoints_of_not_meets hb, State.executeWord, hd]

/-- With no reset, WARN or stop a step is the decision before the instruction, then the timer. -/
theorem State.Runs.step_eq {s : State} (h : s.Runs) :
    step s = tickedOut (s.sample.decision (State.fetchExecute exec)) s.sample.cur.cycles := by
  have hc : s.sample.control 3#2 = .run s.sample := by
    have hm : s.sample.opMode = .executing := h.mode
    simp [State.control, h.cntl, hm]
  simp [step, stepWith, h.reset, h.before, h.cntl, h.warn, cntlBroken, hc]

theorem State.derrEvent_of_asyncDue {s : State} (h : s.asyncDue = none) : s.derrEvent = none := by
  cases hd : s.derrEvent with
  | none => rfl
  | some vn => simp [State.asyncDue, State.accessException, hd] at h

/-- Without a WARN, sampling changes the inputs and the count of the accesses of the step only. -/
theorem State.sample_eq {s : State} (h : s.sample.warnPending = false) :
    s.sample = { s with cur := s.sample.cur, inputs := s.inputs.tail, accesses := 0 } := by
  have hw : (s.warnPending || s.nextInput.warn) = false := h
  obtain ⟨hs, hi⟩ := Bool.or_eq_false_iff.1 hw
  simp [State.sample, hs, hi]

/-- Settles O49: the decision before the instruction runs it, and the fetch delivers its word with the stated changes.
-/
theorem stepRunsInstruction : Obligations.StepRunsInstruction := by
  intro s u i sp p w s1 hreset hwarn hcntl hbefore hmode hidle hplace hpre hword hdec hbreak
  have hruns : s.Runs := ⟨hreset, hwarn, hbefore, hcntl, hmode⟩
  have hdelivers : u.Delivers sp p w := by
    obtain ⟨l, rfl⟩ := State.fetchPlace_at hplace
    rcases hword with hc | ⟨hc, hi, ⟨rfl, ha, rfl⟩ | ⟨rfl, ha, rfl⟩⟩
    · exact .cached hc
    · exact .memory hc hi ha
    · exact .rom hc hi ha
  obtain ⟨b, n, hinv, hfetch⟩ := State.fetch_of_delivers hplace hpre hdelivers
  have hderr : s1.derrEvent = none := hidle.elim And.right fun h => State.derrEvent_of_asyncDue h.2.1
  have hdecision := State.decision_run hderr (State.fetchExecute exec) (hidle.imp And.left And.right)
  refine ⟨{ s1 with
    tlbUsage := u.tlbUsage, btc := b, fresh := n, early := s.early.tail, oldFetch := agedFetch s.oldFetch },
    ?_, hinv, ?_⟩
  · rw [hruns.step_eq, hdecision, State.fetchExecute_of_fetch hfetch hdec hbreak]; rfl
  · simp only [show s1 = _ from State.sample_eq hwarn]; rfl

end Sys2Proof.Machine

namespace Sys2Proof.Machine

/-! ### Words as numbers -/

/-- The low bits of a spliced word are those of the low part. -/
theorem getLsbD_splice (hi lo : Word) {n : Nat} (i : Nat) (hi32 : i < 32) :
    (splice hi lo n).getLsbD i = if i < n then lo.getLsbD i else hi.getLsbD i := by
  have hm : (BitVec.ofNat 32 (2 ^ n - 1)).getLsbD i = decide (i < n) := by
    rw [BitVec.getLsbD_ofNat, Nat.testBit_two_pow_sub_one]; simp [hi32]
  rw [splice, BitVec.getLsbD_or, BitVec.getLsbD_and, BitVec.getLsbD_and, BitVec.getLsbD_not, hm]
  by_cases hn : i < n <;> simp [hn, hi32]

/-- Splicing by arithmetic: the high part of one word, the low part of another. -/
theorem splice_eq (hi lo : Word) (n : Nat) :
    splice hi lo n = BitVec.ofNat 32 (hi.toNat / 2 ^ n * 2 ^ n + lo.toNat % 2 ^ n) := by
  apply BitVec.eq_of_getLsbD_eq
  intro i hi32
  rw [getLsbD_splice hi lo i hi32, BitVec.getLsbD_ofNat, Nat.mul_comm,
    Nat.testBit_two_pow_mul_add _ (Nat.mod_lt _ (Nat.two_pow_pos n)), Nat.testBit_mod_two_pow, Nat.testBit_div_two_pow]
  by_cases hn : i < n
  · simp [hn, hi32, BitVec.getLsbD]
  · simp [hn, hi32, BitVec.getLsbD, Nat.sub_add_cancel (Nat.not_lt.1 hn)]

theorem shiftRight_eq_iff (x y : Word) (n : Nat) : x >>> n = y >>> n ↔ x.toNat / 2 ^ n = y.toNat / 2 ^ n := by
  rw [← BitVec.toNat_inj, BitVec.toNat_ushiftRight, BitVec.toNat_ushiftRight, Nat.shiftRight_eq_div_pow,
    Nat.shiftRight_eq_div_pow]

theorem fieldOf_ne_zero_iff (w : Word) {lo len : Nat} (h : len ≤ 32) :
    fieldOf w lo len ≠ 0 ↔ w.toNat / 2 ^ lo % 2 ^ len ≠ 0 := by
  rw [Ne, ← BitVec.toNat_inj, fieldOf_toNat w lo len h]; rfl

theorem fieldOf_low_byte (w : Word) : fieldOf w 0 8 = w &&& 0xFF := by simp [fieldOf]

/-! ### Translation (20_memory.md R176 to R181) -/

theorem regionSize_eq (rmc : Word) : regionSize rmc = rmc.toNat / 2 ^ 17 % 16 := fieldOf_toNat rmc 17 4 (by decide)

theorem State.pageSize_eq (s : State) : s.pageSize = s.sr.mmu.toNat / 256 % 4 := fieldOf_toNat s.sr.mmu 8 2 (by decide)

theorem State.processNumber_eq (s : State) (user : Bool) :
    s.processNumber user = if user then s.sr.mmu &&& 0xFF else 0#32 := by
  simp [State.processNumber, State.pid, fieldOf_low_byte]

theorem tlbLine_eq (p : Nat) (vaddr : Word) : tlbLine p vaddr = vaddr.toNat / 2 ^ (10 + p) % 32 :=
  fieldOf_toNat vaddr (10 + p) 5 (by decide)

theorem regionUnused_iff (rma rmc : Word) : regionUnused rma rmc = true ↔ RegionBroken rma rmc := by
  have hg : regionSize rmc ≤ 32 := by rw [regionSize_eq]; omega
  have h0 := fieldOf_ne_zero_iff rma (lo := 0) hg
  have h1 := fieldOf_ne_zero_iff rma (lo := 16) hg
  rw [pow_zero, Nat.div_one] at h0
  simp only [regionUnused, RegionBroken, Bool.and_eq_true, Bool.or_eq_true, bne_iff_ne, ← regionSize_eq, ← h0, ← h1]

theorem regionValid_iff (rma rmc vaddr pn : Word) : regionValid rma rmc vaddr pn = true ↔ RegionHolds rma rmc vaddr pn := by
  simp only [regionValid, RegionHolds, Bool.and_eq_true, beq_iff_eq, shiftRight_eq_iff, fieldOf_low_byte, regionSize_eq,
    and_assoc]

theorem entryValid_iff (p : Nat) (w0 vaddr pn : Word) : entryValid p w0 vaddr pn = true ↔
    bitOf w0 14 = true ∧ w0 &&& 0xFF = pn ∧ w0.toNat / 2 ^ (15 + p) = vaddr.toNat / 2 ^ (15 + p) := by
  simp only [entryValid, Bool.and_eq_true, beq_iff_eq, shiftRight_eq_iff, fieldOf_low_byte, and_assoc]
  rw [eq_comm (a := vaddr.toNat / _), and_comm (a := _ / _ = _)]

theorem allowed_iff (w : Word) (user : Bool) (k : AccessKind) : allowed w user k = true ↔ Permits w user k := by
  cases k <;> cases user <;> simp [allowed, Permits]

theorem regionAddress_eq (rma rmc vaddr : Word) : regionAddress rma rmc vaddr =
    BitVec.ofNat 32 (rma.toNat % 2 ^ 16 * 2 ^ 16 / 2 ^ (16 + rmc.toNat / 2 ^ 17 % 16) * 2 ^ (16 + rmc.toNat / 2 ^ 17 % 16) +
      vaddr.toNat % 2 ^ (16 + rmc.toNat / 2 ^ 17 % 16)) := by
  have hs : (rma <<< 16).toNat = rma.toNat % 2 ^ 16 * 2 ^ 16 := by
    rw [BitVec.toNat_shiftLeft, Nat.shiftLeft_eq]; omega
  rw [regionAddress, splice_eq, hs, regionSize_eq]

/-- A violation writes LRU only, in its bits 6 to 1. -/
theorem State.violationLru_eq (s : State) : ∃ l : Word, l &&& 0xFFFFFF81 = 0 ∧
    s.violationLru = { s with sr := { s.sr with lru := l }, fresh := s.fresh + 1 } :=
  ⟨Config.freeWord s.fresh &&& 0x7E, by rw [BitVec.and_assoc]; exact BitVec.and_zero, rfl⟩

/-- What protection makes of a valid translation (R180). -/
theorem State.protect_iff (s : State) (w : Word) (user : Bool) (k : AccessKind) (p : Word) (io : Bool) :
    (Permits w user k → s.protect w user k p io = .ok p io s) ∧
    (¬ Permits w user k → ∃ l : Word, l &&& 0xFFFFFF81 = 0 ∧
      s.protect w user k p io = .violation { s with sr := { s.sr with lru := l }, fresh := s.fresh + 1 }) := by
  rw [← allowed_iff]
  refine ⟨fun h => by rw [State.protect, if_pos h], fun h => ?_⟩
  obtain ⟨l, hl, hv⟩ := s.violationLru_eq
  exact ⟨l, hl, by rw [State.protect, if_neg h, hv]⟩

/-! ### A translation keeps the page offset -/

/-- The low ten bits of a spliced address are those of the address. -/
theorem splice_offset (hi lo : Word) {n : Nat} (h10 : 10 ≤ n) : splice hi lo n &&& 0x3FF = lo &&& 0x3FF := by
  apply BitVec.eq_of_getLsbD_eq
  intro i hi32
  rw [BitVec.getLsbD_and, BitVec.getLsbD_and, getLsbD_splice hi lo i hi32]
  by_cases hn : i < n
  · rw [if_pos hn]
  · have hm : (0x3FF : Word).getLsbD i = false := by
      have : (0x3FF : Word) = BitVec.ofNat 32 (2 ^ 10 - 1) := rfl
      rw [this, BitVec.getLsbD_ofNat, Nat.testBit_two_pow_sub_one]; simp; omega
    rw [hm, Bool.and_false, Bool.and_false]

/-- What a translation may do to the address and to the state, by its outcome (R177, R178, R180, R181). -/
def State.KeepsOffset (s : State) (vaddr : Word) : Translated → Prop
  | .ok p _ t => p &&& 0x3FF = vaddr &&& 0x3FF ∧ t = { s with tlbUsage := t.tlbUsage }
  | .miss t => t = { s with sr := { s.sr with lru := t.sr.lru } }
  | .violation t =>
    t = { s with sr := { s.sr with lru := t.sr.lru }, tlbUsage := t.tlbUsage, fresh := s.fresh + 1 }
  | .fault f => f = .regionUnusedBits ∨ f = .tlbDoubleMatch

/-- Protection keeps the address of a valid translation, which has written Usage bits only. -/
theorem State.protect_keepsOffset {s u : State} {vaddr p : Word} (hu : u = { s with tlbUsage := u.tlbUsage })
    (hp : p &&& 0x3FF = vaddr &&& 0x3FF) (w : Word) (user : Bool) (k : AccessKind) (io : Bool) :
    s.KeepsOffset vaddr (u.protect w user k p io) := by
  unfold State.protect
  split_ifs
  · exact ⟨hp, hu⟩
  · rw [hu]; rfl

theorem State.tlbTranslate_keepsOffset (s : State) (vaddr : Word) (user : Bool) (k : AccessKind) :
    s.KeepsOffset vaddr (s.tlbTranslate vaddr user k) := by
  unfold State.tlbTranslate
  dsimp only
  split
  · exact Or.inr rfl
  · split
    · exact State.protect_keepsOffset rfl (splice_offset _ _ (n := 10 + s.pageSize) (by omega)) ..
    · exact rfl

theorem State.regionAddress_keepsOffset (s : State) (rma rmc vaddr : Word) (user : Bool) (k : AccessKind) (io : Bool) :
    s.KeepsOffset vaddr (s.protect rmc user k (regionAddress rma rmc vaddr) io) :=
  State.protect_keepsOffset rfl (splice_offset _ _ (n := 16 + regionSize rmc) (by omega)) ..

theorem State.translate_keepsOffset (s : State) (vaddr : Word) (user : Bool) (k : AccessKind) :
    s.KeepsOffset vaddr (s.translate vaddr user k) := by
  unfold State.translate
  dsimp only
  split_ifs
  · exact Or.inl rfl
  · exact s.regionAddress_keepsOffset ..
  · exact Or.inl rfl
  · exact s.regionAddress_keepsOffset ..
  · exact s.tlbTranslate_keepsOffset ..

/-- Settles O25: the address of a valid translation is spliced above bit 9 at the lowest, and each outcome writes what
R181 names. -/
theorem translationKeepsOffset : Obligations.TranslationKeepsOffset := by
  intro vaddr user k s
  have h := s.translate_keepsOffset vaddr user k
  generalize s.translate vaddr user k = r at h ⊢
  cases r <;> exact h

/-! ### Region Mapping Units, then the TLB -/

/-- LRU after a miss by arithmetic. -/
theorem State.missLru_eq (s : State) (line : Nat) (h : line < 32) : s.missLru line = { s with sr := { s.sr with
    lru := (if s.tlbUsage.getD line false then 64 else 0) + BitVec.ofNat 32 (2 * line) } } := by
  have hl : ∀ b : Bool, (boolBit b <<< 6) ||| (BitVec.ofNat 32 line <<< 1) =
      (if b then 64 else 0) + BitVec.ofNat 32 (2 * line) := by
    intro b
    interval_cases line <;> cases b <;> rfl
  simp only [State.missLru, hl]

/-- The translation that a TLB entry gives, whose hit leaves `u` as the Usage bit of its line. -/
def State.throughEntry (s : State) (vaddr : Word) (user : Bool) (k : AccessKind) (n line : Nat) (u : Bool) : Translated :=
  ({ s with tlbUsage := s.tlbUsage.setIfInBounds line u } : State).protect (s.tlbWord n) user k
    (BitVec.ofNat 32 ((s.tlbWord (n + 1)).toNat / 2 ^ (10 + s.pageSize) * 2 ^ (10 + s.pageSize) +
      vaddr.toNat % 2 ^ (10 + s.pageSize))) (bitOf (s.tlbWord (n + 1)) 0)

/-- The TLB by which of the two entries of a line are valid (R178, R181). -/
theorem State.tlbTranslate_eq (s : State) (vaddr : Word) (user : Bool) (k : AccessKind) :
    let line := tlbLine s.pageSize vaddr
    let valid (n : Nat) : Bool := entryValid s.pageSize (s.tlbWord n) vaddr (s.processNumber user)
    s.tlbTranslate vaddr user k =
      match valid (2 * line), valid (64 + 2 * line) with
      | true, true => .fault .tlbDoubleMatch
      | true, false => s.throughEntry vaddr user k (2 * line) line true
      | false, true => s.throughEntry vaddr user k (64 + 2 * line) line false
      | false, false => .miss (s.missLru line) := by
  intro line valid
  have ha : ∀ w : Word, splice w vaddr (10 + s.pageSize) = _ := fun w => splice_eq w vaddr _
  unfold State.tlbTranslate State.throughEntry
  dsimp only
  rw [show entryValid s.pageSize (s.tlbWord (2 * tlbLine s.pageSize vaddr)) vaddr (s.processNumber user) =
      valid (2 * line) from rfl,
    show entryValid s.pageSize (s.tlbWord (64 + 2 * tlbLine s.pageSize vaddr)) vaddr (s.processNumber user) =
      valid (64 + 2 * line) from rfl]
  cases valid (2 * line) <;> cases valid (64 + 2 * line) <;> simp [ha, State.useSet, line]

/-- Settles O26: each unit in turn is broken, holds the address or passes it on, and the TLB answers by its entries. -/
theorem addressesAreTranslated : Obligations.AddressesAreTranslated := by
  intro vaddr user k s r pn answers region ps line matched m0 m1 page tlb next
  have hps : s.pageSize = ps := s.pageSize_eq
  have hpn : s.processNumber user = pn := s.processNumber_eq user
  have hline : tlbLine s.pageSize vaddr = line := by rw [tlbLine_eq, hps]
  have hvalid : ∀ n, entryValid s.pageSize (s.tlbWord n) vaddr pn = true ↔ matched n := fun n => by
    rw [entryValid_iff, hps]
  have hregion : ∀ rma rmc : Word, r = s.protect rmc user k (regionAddress rma rmc vaddr) (bitOf rmc 16) →
      region rma rmc := by
    intro rma rmc hr
    simp only [region, answers, hr, ← regionAddress_eq]
    exact s.protect_iff ..
  have hpage : ∀ n u, r = s.throughEntry vaddr user k n line u → page n u := by
    intro n u hr
    simp only [page, answers, hr, State.throughEntry, hps]
    exact State.protect_iff ..
  have hnext : ∀ (rma rmc : Word) (t : Translated) (rest : Prop), (r = t → rest) →
      r = (if regionUnused rma rmc then .fault .regionUnusedBits
        else if regionValid rma rmc vaddr pn then s.protect rmc user k (regionAddress rma rmc vaddr) (bitOf rmc 16)
        else t) → next rma rmc rest := by
    intro rma rmc t rest ht hr
    refine ⟨fun hb => ?_, fun hb => ⟨fun hv => hregion rma rmc ?_, fun hv => ht ?_⟩⟩
    · rw [hr, if_pos ((regionUnused_iff ..).2 hb)]
    all_goals rw [hr, if_neg (mt (regionUnused_iff ..).1 hb)]
    · rw [if_pos ((regionValid_iff ..).2 hv)]
    · rw [if_neg (mt (regionValid_iff ..).1 hv)]
  have htlb : r = s.tlbTranslate vaddr user k → tlb := by
    intro hr
    have hl : line < 32 := Nat.mod_lt _ (by decide)
    have he := s.tlbTranslate_eq vaddr user k
    simp only [hline, hpn] at he
    rw [← hr] at he
    refine ⟨fun h0 h1 => ?_, fun h0 h1 => hpage _ _ ?_, fun h0 h1 => hpage _ _ ?_, fun h0 h1 => ?_⟩
    all_goals
      simp only [← hvalid, Bool.not_eq_true] at h0 h1
      rw [he, h0, h1]
    rw [State.missLru_eq s line hl]
  refine hnext _ _ _ _ (hnext _ _ _ _ htlb) ?_
  rw [← hpn]
  rfl

end Sys2Proof.Machine

namespace Sys2Proof.Machine

/-! ### Where an access goes (20_memory.md R152, R162, R175, R176) -/

theorem ctlOPT_eq (c : Byte) : ctlOPT c = (c &&& 7).toNat := by
  rw [ctlOPT, BitVec.extractLsb'_toNat, BitVec.toNat_and]
  exact (Nat.and_two_pow_sub_one_eq_mod c.toNat 3).symm

theorem ctlOPT_iff (c : Byte) (k : Byte) : ctlOPT c = k.toNat ↔ c &&& 7 = k := by
  rw [ctlOPT_eq, BitVec.toNat_inj]

theorem addrByte_eq (a : Word) : addrByte a = a.toNat % 4 := by
  rw [addrByte, fieldOf_toNat a 0 2 (by decide), pow_zero, Nat.div_one]; rfl

theorem addrHalf_eq (a : Word) : addrHalf a = a.toNat / 2 % 2 := fieldOf_toNat a 1 1 (by decide)

theorem bitOf_zero (a : Word) : bitOf a 0 = decide (a.toNat % 2 ≠ 0) := by
  rw [bitOf, BitVec.getLsbD, Nat.testBit_zero]
  exact decide_eq_decide.2 (by omega)

theorem State.dataTranslated_iff (s : State) (c : Byte) : s.dataTranslated c = true ↔
    bitOf s.cps 6 = false ∧ s.mm = false ∧ c.getLsbD 5 = false := by
  simp [State.dataTranslated, State.ePD, ctlPA, and_assoc]

theorem State.unaligned_iff (s : State) (c : Byte) (a : Word) : s.unaligned c a = true ↔
    bitOf s.cps 11 = true ∧ (c &&& 7 = 0 ∧ a.toNat % 4 ≠ 0 ∨ c &&& 7 = 2 ∧ a.toNat % 2 ≠ 0) := by
  have h0 : ctlOPT c = 0 ↔ c &&& 7 = 0 := ctlOPT_iff c 0
  have h2 : ctlOPT c = 2 ↔ c &&& 7 = 2 := ctlOPT_iff c 2
  simp only [State.unaligned, State.tu, addrByte_eq, bitOf_zero, Bool.and_eq_true, Bool.or_eq_true, decide_eq_true_eq,
    bne_iff_ne, h0, h2]

/-- The place of an access depends on the platform's memory map (log entry 47). -/
theorem State.place_goes (s : State) (sp : Space) (p : Word) : s.Goes (s.place sp p) sp sp.map p := by
  unfold State.Goes State.place
  rw [← State.missing_iff]
  exact ⟨fun h => if_pos h, fun h => if_neg h⟩

/-- An access to memory, at an address `p` that is found for the address `a`. -/
def State.memoryPlace (s : State) (c : Byte) (a p : Word) : Located :=
  if s.unaligned c a then .trap 1 s else s.place (memSpace c) p

theorem State.memoryPlace_aligned {s : State} {c : Byte} {a : Word} (p : Word) (h : ¬ s.unaligned c a = true) :
    if c &&& 7 = 4 then s.Goes (s.memoryPlace c a p) .irom .irom p else s.Goes (s.memoryPlace c a p) .idmem .data p := by
  have h4 : ctlOPT c = 4 ↔ c &&& 7 = 4 := ctlOPT_iff c 4
  rw [State.memoryPlace, if_neg h, memSpace]
  split_ifs with h1 h2
  · exact s.place_goes .irom p
  · exact absurd (h4.2 h1) h2
  · exact absurd (h4.1 ‹_›) h1
  · exact s.place_goes .idmem p

/-- What becomes of a translated access. -/
def State.afterTranslation (s : State) (x : Xfer) : Translated → Located
  | .ok p io t => if io then t.place .io p else t.memoryPlace x.ctl x.addr p
  | .miss t => .trap (if s.user then 9 else 11) t
  | .violation t => .trap 13 t
  | .fault f => .fault f

theorem State.locate_coprocessor {s : State} {x : Xfer} (h : ctlCE x.ctl = true) : s.locate x = s.place .cop x.addr := by
  rw [State.locate, if_pos h]

theorem State.locate_untranslated {s : State} {x : Xfer} (h : ctlCE x.ctl = false) (ht : ¬ s.dataTranslated x.ctl = true) :
    s.locate x = if ctlAS x.ctl then s.place .io x.addr else s.memoryPlace x.ctl x.addr x.addr := by
  rw [State.locate, if_neg (by simp [h]), if_neg ht]; rfl

theorem State.locate_hazard {s : State} {x : Xfer} (h : ctlCE x.ctl = false) (ht : s.dataTranslated x.ctl = true)
    (hp : s.hz.ps = true) : s.locate x = .fault .hazardPageSize := by
  rw [State.locate, if_neg (by simp [h]), if_pos ht, if_pos hp]

theorem State.locate_translated {s : State} {x : Xfer} (h : ctlCE x.ctl = false) (ht : s.dataTranslated x.ctl = true)
    (hp : s.hz.ps = false) :
    s.locate x = s.afterTranslation x (s.translate x.addr (s.dataUser x.ctl) x.kind) := by
  rw [State.locate, if_neg (by simp [h]), if_pos ht, if_neg (by simp [hp])]
  cases s.translate x.addr (s.dataUser x.ctl) x.kind <;> rfl

/-- Settles O24: each case of `State.locate` in the words of the rules. -/
theorem accessesAreLocated : Obligations.AccessesAreLocated := by
  intro x s r opt translated unaligned user kind memory
  have htr : s.dataTranslated x.ctl = true ↔ translated := s.dataTranslated_iff x.ctl
  have hmem : ∀ (t : State) (p : Word), t.cps = s.cps → r = t.memoryPlace x.ctl x.addr p → memory t p := by
    intro t p hc hr
    have hu : t.unaligned x.ctl x.addr = true ↔ unaligned := by rw [State.unaligned_iff, hc]
    simp only [memory, ← hu, hr]
    exact ⟨fun h => if_pos h, fun h => State.memoryPlace_aligned p h⟩
  refine ⟨fun hce => ?_, fun hce ht => ?_, fun hce ht hp => State.locate_hazard hce (htr.2 ht) hp, fun hce ht hp => ?_⟩
  · exact (congrArg (s.Goes · .cop .cop x.addr) (State.locate_coprocessor hce)).mpr (s.place_goes .cop x.addr)
  · have hr : r = if x.ctl.getLsbD 6 then s.place .io x.addr else s.memoryPlace x.ctl x.addr x.addr :=
      State.locate_untranslated hce (mt htr.1 ht)
    split_ifs at hr ⊢
    · rw [hr]; exact s.place_goes .io x.addr
    · exact hmem s x.addr rfl hr
  · have hr : r = s.afterTranslation x (s.translate x.addr user kind) := State.locate_translated hce (htr.2 ht) hp
    have hk := s.translate_keepsOffset x.addr user kind
    generalize s.translate x.addr user kind = y at hr hk ⊢
    cases y with
    | ok p io t =>
      cases io
      · exact hmem t p (by rw [hk.2]) hr
      · exact (congrArg (t.Goes · .io .io p) hr).mpr (t.place_goes .io p)
    | _ => exact hr

end Sys2Proof.Machine

namespace Sys2Proof.Machine

/-! ### Lanes (20_memory.md R160, R161, R166, R167) -/

theorem laneByte_eq (w : Word) (k : Nat) : laneByte w k = BitVec.ofNat 8 (w.toNat / 2 ^ (8 * k)) := by
  rw [laneByte, ← BitVec.toNat_inj, BitVec.extractLsb'_toNat, BitVec.toNat_ofNat, Nat.shiftRight_eq_div_pow]

theorem laneHalf_eq (w : Word) (k : Nat) : laneHalf w k = BitVec.ofNat 16 (w.toNat / 2 ^ (16 * k)) := by
  rw [laneHalf, ← BitVec.toNat_inj, BitVec.extractLsb'_toNat, BitVec.toNat_ofNat, Nat.shiftRight_eq_div_pow]

/-- The aligned word of an address by arithmetic. -/
theorem wordBase_eq (a : Word) : wordBase a = a.toNat - a.toNat % 4 := by
  have h : alignWord a + (a &&& 3) = a := by
    have h0 : alignWord a &&& (a &&& 3) = 0 := by
      rw [alignWord, BitVec.and_assoc, ← BitVec.and_assoc 0xFFFFFFFC a 3, BitVec.and_comm 0xFFFFFFFC a, BitVec.and_assoc]
      simp
    rw [BitVec.add_eq_or_of_and_eq_zero _ _ h0, alignWord, ← BitVec.and_or_distrib_left]
    exact BitVec.and_allOnes
  have h3 : (a &&& 3).toNat = a.toNat % 4 := by
    rw [BitVec.toNat_and]; exact Nat.and_two_pow_sub_one_eq_mod a.toNat 2
  have hs := congrArg BitVec.toNat h
  rw [BitVec.toNat_add, h3] at hs
  have hb := wordBase_le a
  have hm := wordBase_mod a
  unfold wordBase at *
  omega

/-- The place of an access that takes the lanes which OPT names, if CFG.DW is 1 and it is no coprocessor transfer. -/
theorem narrow_iff (s : State) {c : Byte} (k : Byte) (h : ctlCE c = false) :
    (s.dw && decide (ctlOPT c = k.toNat)) = (bitOf s.sr.cfg 5 && c &&& 7 == k && !c.getLsbD 7) := by
  have hce : c.getLsbD 7 = false := h
  have hk : decide (ctlOPT c = k.toNat) = (c &&& 7 == k) := decide_eq_decide.2 (ctlOPT_iff c k)
  rw [hce, hk, Bool.not_false, Bool.and_true]; rfl

/-- R166 by arithmetic. -/
theorem State.loadValue_eq (s : State) (c : Byte) (addr w : Word) : s.loadValue c addr w = s.lanesRead c addr w := by
  unfold State.loadValue State.lanesRead
  cases hce : ctlCE c
  case true => simp only [show c.getLsbD 7 = true from hce, Bool.not_true, Bool.and_false, Bool.false_eq_true, if_true, if_false]
  have h1 : (s.dw && decide (ctlOPT c = 1)) = _ := narrow_iff s 1 hce
  have h2 : (s.dw && decide (ctlOPT c = 2)) = _ := narrow_iff s 2 hce
  dsimp only
  rw [h1, h2, laneByte_eq, laneHalf_eq, addrByte_eq, addrHalf_eq]
  have hb : s.byteLane (addr.toNat % 4) = if !bitOf s.sr.cfg 2 then 3 - addr.toNat % 4 else addr.toNat % 4 := by
    unfold State.byteLane State.bo; cases bitOf s.sr.cfg 2 <;> rfl
  have hh : s.halfLane (addr.toNat / 2 % 2) =
      if !bitOf s.sr.cfg 2 then 1 - addr.toNat / 2 % 2 else addr.toNat / 2 % 2 := by
    unfold State.halfLane State.bo; cases bitOf s.sr.cfg 2 <;> rfl
  rw [hb, hh]
  rfl

/-! ### Storing -/

/-- What an address reads after the bytes from `lo` up have been replaced in a memory. -/
def replaced (m : Memory) (lo : Nat) (v : List Byte) (a : Nat) : Byte :=
  if lo ≤ a ∧ a < lo + v.length then v.getD (a - lo) 0 else readByte m a

theorem replaced_nil (m : Memory) (lo a : Nat) : replaced m lo [] a = readByte m a := by
  rw [replaced, if_neg (by simp)]

theorem replaced_cons (m : Memory) (lo : Nat) (b : Byte) (v : List Byte) (a : Nat) :
    replaced m lo (b :: v) a = if a = lo then b else replaced m (lo + 1) v a := by
  have hlen : (b :: v).length = v.length + 1 := rfl
  unfold replaced
  by_cases h : a = lo
  · rw [if_pos h, if_pos (by omega), h, Nat.sub_self]; rfl
  · rw [if_neg h]
    by_cases hr : lo + 1 ≤ a ∧ a < lo + 1 + v.length
    · rw [if_pos (by omega), if_pos hr, show a - lo = a - (lo + 1) + 1 by omega]; rfl
    · rw [if_neg (by omega), if_neg hr]

theorem readByte_writeLane (m : Memory) (p : Word) {k : Nat} (v : Byte) (hk : k ≤ 3) (a : Nat) :
    readByte (writeLane m p k v) a = replaced m (wordBase p + (3 - k)) [v] a := by
  rw [writeLane, readByte_writeByte, replaced_cons, replaced_nil, Nat.add_sub_assoc hk]

theorem readByte_writeHalf (m : Memory) (p : Word) {k : Nat} (v : BitVec 16) (hk : k ≤ 1) (a : Nat) :
    readByte (writeHalf m p k v) a = replaced m (wordBase p + 2 * (1 - k)) [hi8 v, lo8 v] a := by
  have hhi : wordBase p + (3 - (2 * k + 1)) = wordBase p + 2 * (1 - k) := by omega
  have hlo : wordBase p + (3 - 2 * k) = wordBase p + 2 * (1 - k) + 1 := by omega
  rw [writeHalf, readByte_writeLane _ _ _ (by omega), replaced_cons, replaced_nil, readByte_writeLane _ _ _ (by omega)]
  simp only [replaced_cons, replaced_nil, hhi, hlo]
  split_ifs <;> first | rfl | omega

theorem readByte_writeWord_replaced (m : Memory) (p w : Word) (a : Nat) :
    readByte (writeWord m p w) a = replaced m (wordBase p) [opField w, cField w, aField w, bField w] a := by
  rw [readByte_writeWord]
  simp only [replaced_cons, replaced_nil]
  split_ifs <;> first | rfl | omega

/-- One byte of a word by arithmetic, 0 the least significant. -/
theorem extractByte_eq (w : Word) (n : Nat) : w.extractLsb' (8 * n) 8 = BitVec.ofNat 8 (w.toNat / 2 ^ (8 * n)) :=
  laneByte_eq w n

theorem hi8_low (w : Word) : hi8 (w.extractLsb' 0 16) = w.extractLsb' (8 * 1) 8 := by
  rw [hi8, BitVec.extractLsb'_extractLsb'_of_le (by decide)]

theorem lo8_low (w : Word) : lo8 (w.extractLsb' 0 16) = w.extractLsb' (8 * 0) 8 := by
  rw [lo8, BitVec.extractLsb'_extractLsb'_of_le (by decide)]

/-- The lowest address and the bytes of a store of `v` to `p`: the word, or with CFG.DW = 1 the byte or half-word that
the address selects (R160, R161, R167). -/
def State.storedBytes (s : State) (c : Byte) (p v : Word) : Nat × List Byte :=
  let big := !bitOf s.sr.cfg 2
  let sub (opt : Byte) : Bool := bitOf s.sr.cfg 5 && c &&& 7 == opt && !c.getLsbD 7
  let pk := if big then p.toNat % 4 else 3 - p.toNat % 4
  let ph := if big then p.toNat / 2 % 2 else 1 - p.toNat / 2 % 2
  let base := p.toNat - p.toNat % 4
  let byte (n : Nat) : Byte := BitVec.ofNat 8 (v.toNat / 2 ^ (8 * n))
  if sub 1 then (base + pk, [byte 0])
  else if sub 2 then (base + 2 * ph, [byte 1, byte 0])
  else (base, [byte 3, byte 2, byte 1, byte 0])

theorem State.lanesStored_iff (s t : State) (c : Byte) (p v : Word) :
    s.LanesStored t .idmem c p v ↔ s.Stored t (s.storedBytes c p v).1 (s.storedBytes c p v).2 := by
  unfold State.LanesStored State.storedBytes
  dsimp only
  rw [if_pos rfl]
  by_cases h1 : (bitOf s.sr.cfg 5 && c &&& 7 == 1 && !c.getLsbD 7) = true
  · simp only [if_pos h1]
  · by_cases h2 : (bitOf s.sr.cfg 5 && c &&& 7 == 2 && !c.getLsbD 7) = true
    · simp only [if_neg h1, if_pos h2]
    · simp only [if_neg h1, if_neg h2]

/-- R167 by arithmetic: what an address reads after a store. -/
theorem State.readByte_storeMemory (s : State) (m : Memory) {c : Byte} (p v : Word) (h : ctlCE c = false) (a : Nat) :
    readByte (s.storeMemory m c p v) a = replaced m (s.storedBytes c p v).1 (s.storedBytes c p v).2 a := by
  have h1 : (s.dw && decide (ctlOPT c = 1)) = _ := narrow_iff s 1 h
  have h2 : (s.dw && decide (ctlOPT c = 2)) = _ := narrow_iff s 2 h
  have hk : 3 - s.byteLane (addrByte p) = (if !bitOf s.sr.cfg 2 then p.toNat % 4 else 3 - p.toNat % 4) ∧
      s.byteLane (addrByte p) ≤ 3 := by
    rw [addrByte_eq]; unfold State.byteLane State.bo; cases bitOf s.sr.cfg 2 <;> simp <;> omega
  have hh : 1 - s.halfLane (addrHalf p) = (if !bitOf s.sr.cfg 2 then p.toNat / 2 % 2 else 1 - p.toNat / 2 % 2) ∧
      s.halfLane (addrHalf p) ≤ 1 := by
    rw [addrHalf_eq]; unfold State.halfLane State.bo; cases bitOf s.sr.cfg 2 <;> simp <;> omega
  unfold State.storeMemory State.storedBytes
  dsimp only
  rw [h1, h2, ← hk.1, ← hh.1, ← wordBase_eq]
  split
  · exact (readByte_writeLane m p _ hk.2 a).trans (congrArg (replaced m _ [·] a) (extractByte_eq v 0))
  · split
    · rw [readByte_writeHalf _ _ _ hh.2, hi8_low, lo8_low, extractByte_eq, extractByte_eq]
    · rw [readByte_writeWord_replaced, ← extractByte_eq, ← extractByte_eq, ← extractByte_eq, ← extractByte_eq]; rfl

/-- R167: what a store leaves in the memories. -/
theorem State.writeSpace_stored (s : State) {sp : Space} {c : Byte} (p v : Word)
    (h : sp = .idmem → ctlCE c = false) : s.LanesStored (s.writeSpace sp c p v) sp c p v := by
  cases sp with
  | idmem =>
    have hm : (s.writeSpace .idmem c p v).idmem = s.storeMemory s.idmem c p v := by
      unfold State.writeSpace State.overtake; dsimp only; split_ifs <;> rfl
    refine (s.lanesStored_iff _ c p v).2 fun a => ⟨?_, by simp [State.writeSpace], by simp [State.writeSpace]⟩
    rw [hm, s.readByte_storeMemory s.idmem p v (h rfl) a]; rfl
  | _ => exact fun a => ⟨rfl, rfl, rfl⟩

end Sys2Proof.Machine

namespace Sys2Proof.Machine

/-! ### The access itself (20_memory.md R170 (6), (7)) -/

@[simp] theorem State.derrReply_getGR (s : State) (x : Xfer) (n : Byte) : (s.derrReply x).getGR n = s.getGR n :=
  State.getGR_congr (by simp) (by simp) (by simp) (by simp) n
@[simp] theorem State.afterAccess_getGR (s : State) (x : Xfer) (n : Byte) : (s.afterAccess x).getGR n = s.getGR n :=
  State.getGR_congr (by simp) (by simp) (by simp) (by simp) n
@[simp] theorem State.endChannel_getGR (s : State) (n : Byte) : s.endChannel.getGR n = s.getGR n :=
  State.getGR_congr (by simp) (by simp) (by simp) (by simp) n
@[simp] theorem State.startChannel_getGR (s : State) (x : Xfer) (m : Bool) (n : Byte) :
    (s.startChannel x m).getGR n = s.getGR n := State.getGR_congr (by simp) (by simp) (by simp) (by simp) n

/-- Whether the registers are frozen depends on two bits of CPS. -/
theorem State.frozen_congr {s t : State} (h : ∀ k, k ≠ 15 → bitOf t.cps k = bitOf s.cps k) : t.frozen = s.frozen := by
  simp [State.frozen, State.mm, h]

/-- The program mode depends on two bits of CPS. -/
theorem State.user_congr {s t : State} (h : ∀ k, k ≠ 15 → bitOf t.cps k = bitOf s.cps k) : t.user = s.user := by
  simp [State.user, State.eSM, State.mm, h]

/-- CPS after an access: CA after a coprocessor transfer with SA (44_data_movement.md R439). -/
def State.cpsAfter (s : State) (c : Byte) (load : Bool) : Word :=
  if c.getLsbD 7 && c.getLsbD 5 then putBit s.cps 15 (!load) else s.cps

theorem State.bitOf_cpsAfter (s : State) (c : Byte) (load : Bool) {k : Nat} (h : k ≠ 15) :
    bitOf (s.cpsAfter c load) k = bitOf s.cps k := by
  unfold State.cpsAfter
  split
  · rw [bitOf_putBit _ _ _ _ (by decide), if_neg h]
  · rfl

/-- The Byte Pointer is bits 6-5 of ALU. -/
theorem putField_bytePointer (w : Word) {v : Word} (h : v &&& 3 = v) :
    putField w 5 2 v = (w &&& 0xFFFFFF9F) ||| (v <<< 5) := by
  have hm : (v <<< 5) &&& 0x60 = v <<< 5 := by
    rw [← h, BitVec.shiftLeft_and_distrib, BitVec.and_assoc]; rfl
  exact congrArg ((w &&& 0xFFFFFF9F) ||| ·) hm

/-- A value of the Byte Pointer has two bits (R165). -/
theorem bytePointer_and (dw bo : Bool) (a : Word) :
    (if dw then (if bo then 0 else 3) else a &&& 3) &&& 3 = (if dw then (if bo then 0 else 3) else a &&& 3 : Word) := by
  cases dw
  · simp [BitVec.and_assoc]
  · cases bo <;> simp

/-- R165, R168: ALU after an access. -/
theorem State.afterAccess_alu (s : State) (x : Xfer) : (s.afterAccess x).alu = s.aluAfter x.ctl x.addr s.frozen := by
  have hf : fieldOf x.addr 0 2 = x.addr &&& 3 := by simp [fieldOf]
  have hc : (!x.ctl.getLsbD 7 && x.ctl.getLsbD 4 && !s.frozen) = !(ctlCE x.ctl || !ctlSB x.ctl || s.frozen) := by
    unfold ctlCE ctlSB; cases x.ctl.getLsbD 7 <;> cases x.ctl.getLsbD 4 <;> rfl
  rw [State.afterAccess, State.setCoprocessorActive_alu, State.setBytePointer, State.aluAfter, hc, hf]
  cases ctlCE x.ctl || !ctlSB x.ctl || s.frozen
  · exact putField_bytePointer s.alu (bytePointer_and s.dw s.bo x.addr)
  · rfl

/-- R439: CPS after an access. -/
theorem State.afterAccess_cps (s : State) (x : Xfer) : (s.afterAccess x).cps = s.cpsAfter x.ctl x.load := by
  have hp : (s.setBytePointer x.ctl x.addr).cps = s.cps := by simp
  unfold State.afterAccess State.setCoprocessorActive State.cpsAfter ctlCE ctlPA
  split_ifs
  · exact congrArg (putBit · 15 _) hp
  · exact hp

/-- The parts of the state that reading or writing a place and writing a register leave as they are. -/
structure State.DataOnly (s t : State) : Prop where
  pc : t.pc = s.pc
  npc : t.npc = s.npc
  cps : t.cps = s.cps
  alu : t.alu = s.alu
  sr : t.sr = s.sr
  acc : t.acc = s.acc
  tlb : t.tlb = s.tlb
  tlbUsage : t.tlbUsage = s.tlbUsage
  hz : t.hz = s.hz
  holes : t.holes = s.holes
  cur : t.cur = s.cur

theorem State.DataOnly.trans {s t u : State} (h : s.DataOnly t) (k : t.DataOnly u) : s.DataOnly u :=
  ⟨k.pc.trans h.pc, k.npc.trans h.npc, k.cps.trans h.cps, k.alu.trans h.alu, k.sr.trans h.sr, k.acc.trans h.acc,
    k.tlb.trans h.tlb, k.tlbUsage.trans h.tlbUsage, k.hz.trans h.hz, k.holes.trans h.holes, k.cur.trans h.cur⟩

theorem State.bumpAccess_dataOnly (s : State) : s.DataOnly s.bumpAccess := by constructor <;> rfl

theorem State.putGR_dataOnly (s : State) (c : WriteClass) (n : Byte) (v : Word) : s.DataOnly (s.putGR c n v) := by
  constructor <;> simp

theorem State.writeSpace_dataOnly (s : State) (sp : Space) (c : Byte) (p v : Word) :
    s.DataOnly (s.writeSpace sp c p v) := by
  cases sp <;> constructor <;> simp [State.writeSpace]

/-- What an access that completes leaves, but for the registers and the memories. -/
structure State.Accessed (s t : State) (x : Xfer) : Prop where
  pc : t.pc = s.pc
  npc : t.npc = s.npc
  cps : t.cps = s.cpsAfter x.ctl x.load
  alu : t.alu = s.aluAfter x.ctl x.addr s.frozen
  sr : t.sr = s.sr
  acc : t.acc = s.acc
  tlb : t.tlb = s.tlb
  tlbUsage : t.tlbUsage = s.tlbUsage
  hz : t.hz = s.hz
  holes : t.holes = s.holes
  cur : t.cur = s.cur
  accesses : x.set = false → t.accesses = s.accesses + 1

theorem State.aluAfter_congr {s t : State} (h : t.alu = s.alu) (hc : t.sr.cfg = s.sr.cfg) (c : Byte) (a : Word) (b : Bool) :
    t.aluAfter c a b = s.aluAfter c a b := by
  simp only [State.aluAfter, h, hc]

theorem State.DataOnly.accessed {s t : State} {x : Xfer} (h : s.DataOnly t)
    (ha : x.set = false → t.accesses = s.accesses + 1) : s.Accessed (t.afterAccess x) x where
  pc := (State.afterAccess_pc t x).trans h.pc
  npc := (State.afterAccess_npc t x).trans h.npc
  cps := (State.afterAccess_cps t x).trans (by simp only [State.cpsAfter, h.cps])
  alu := by
    rw [State.afterAccess_alu, State.frozen_congr (s := s) (t := t) fun k _ => by rw [h.cps]]
    exact State.aluAfter_congr h.alu (by rw [h.sr]) ..
  sr := (State.afterAccess_sr t x).trans h.sr
  acc := (State.afterAccess_acc t x).trans h.acc
  tlb := (State.afterAccess_tlb t x).trans h.tlb
  tlbUsage := (State.afterAccess_tlbUsage t x).trans h.tlbUsage
  hz := (State.afterAccess_hz t x).trans h.hz
  holes := (State.afterAccess_holes t x).trans h.holes
  cur := (State.afterAccess_cur t x).trans h.cur
  accesses := fun hs => (State.afterAccess_accesses t x).trans (ha hs)

theorem State.Accessed.frozen {s t : State} {x : Xfer} (h : s.Accessed t x) : t.frozen = s.frozen :=
  State.frozen_congr fun k hk => by rw [h.cps, s.bitOf_cpsAfter _ _ hk]

theorem State.Answers.congr {s t : State} {sp : Space} {p w : Word} (h : t.Answers sp p w) (hm : s.SameMemory t) :
    s.Answers sp p w := by
  have hd : readWord t.idmem p = readWord s.idmem p := by simp only [readWord, (hm _).1]
  have hr : readWord t.irom p = readWord s.irom p := by simp only [readWord, (hm _).2.1]
  exact ⟨fun e => hd ▸ h.1 e, fun e => hr ▸ h.2 e⟩

theorem State.SameMemory.refl (s : State) : s.SameMemory s := fun _ => ⟨rfl, rfl, rfl⟩

theorem State.SameMemory.of_eq {s t : State} (h1 : t.idmem = s.idmem) (h2 : t.irom = s.irom) (h3 : t.imem = s.imem) :
    s.SameMemory t := fun a => by rw [h1, h2]; exact ⟨rfl, rfl, h3⟩

theorem State.SameMemory.trans {s t u : State} (h : s.SameMemory t) (k : t.SameMemory u) : s.SameMemory u := fun a =>
  ⟨(k a).1.trans (h a).1, (k a).2.1.trans (h a).2.1, (k a).2.2.trans (h a).2.2⟩

theorem State.SameMemory.symm {s t : State} (h : s.SameMemory t) : t.SameMemory s := fun a =>
  ⟨(h a).1.symm, (h a).2.1.symm, (h a).2.2.symm⟩

/-- What a store leaves, seen from states with the same memories and the same CFG. -/
theorem State.LanesStored.congr {s t s' t' : State} {sp : Space} {c : Byte} {p v : Word} (h : s.LanesStored t sp c p v)
    (hs : s'.SameMemory s) (ht : t.SameMemory t') (hc : s'.sr.cfg = s.sr.cfg) : s'.LanesStored t' sp c p v := by
  have stored : ∀ {lo : Nat} {bs : List Byte}, s.Stored t lo bs → s'.Stored t' lo bs := by
    intro lo bs k a
    obtain ⟨k1, k2, k3⟩ := k a
    exact ⟨by rw [(ht a).1, k1, (hs a).1], by rw [(ht a).2.1, k2, (hs a).2.1], by rw [(ht a).2.2, k3, (hs a).2.2]⟩
  cases sp with
  | idmem =>
    have hb : s'.storedBytes c p v = s.storedBytes c p v := by simp only [State.storedBytes, hc]
    rw [State.lanesStored_iff] at h ⊢
    rw [hb]; exact stored h
  | _ => exact (hs.trans h).trans ht

/-- Coprocessor transfers and no others go to the coprocessor. -/
theorem State.locate_found_memory {s u : State} {x : Xfer} {p : Word} (h : s.locate x = .found .idmem p u) :
    ctlCE x.ctl = false := by
  cases hc : ctlCE x.ctl with
  | false => rfl
  | true =>
    rw [State.locate_coprocessor hc, State.place] at h
    split_ifs at h
    cases h

/-- The state once a load has read its place and written its register. -/
def State.afterLoad (s : State) (x : Xfer) (sp : Space) (p : Word) : State :=
  (s.bumpAccess.readSpace sp p).2.putGR .load x.reg (s.loadValue x.ctl x.addr (s.bumpAccess.readSpace sp p).1)

/-- What reading the place and writing the register leaves. -/
theorem State.afterLoad_spec (s : State) {x : Xfer} (sp : Space) (p : Word) (hreg : x.reg = 1#8 ∨ 64 ≤ x.reg.toNat) :
    s.DataOnly (s.afterLoad x sp p) ∧ (s.afterLoad x sp p).accesses = s.accesses + 1 ∧
      s.SameMemory (s.afterLoad x sp p) ∧ s.RegsExcept (s.afterLoad x sp p) [x.reg] ∧
      ∃ w, s.Answers sp p w ∧ (s.afterLoad x sp p).getGR x.reg = s.lanesRead x.ctl x.addr w := by
  obtain ⟨w, n, hr, hw⟩ := s.bumpAccess.readSpace_answers sp p
  have hput := fun m => State.getGR_putGR ({ s.bumpAccess with fresh := n }) .load x.reg m
    (s.loadValue x.ctl x.addr w) (hreg.imp_right .inr)
  simp only [State.afterLoad, hr]
  refine ⟨?_, by simp [State.bumpAccess], .of_eq (by simp) (by simp) (by simp), fun m hm => ?_, w, hw, ?_⟩
  · exact s.bumpAccess_dataOnly.trans (State.DataOnly.trans (by constructor <;> rfl) (State.putGR_dataOnly _ ..))
  · rw [hput, if_neg (by simpa using hm)]; rfl
  · rw [hput, if_pos rfl, State.loadValue_eq]

theorem State.derrNext_false {s : State} (h : s.cur.derr ≠ some s.accesses) : s.derrNext = false := by
  simpa [State.derrNext] using h

theorem State.derrNext_true {s : State} (h : s.cur.derr = some s.accesses) : s.derrNext = true := by
  simpa [State.derrNext] using h

/-- A load answered without DERR, but for the write of a LOADSET (R433). -/
theorem State.performAt_afterLoad {s : State} {x : Xfer} {sp : Space} {p : Word} (hd : s.cur.derr ≠ some s.accesses)
    (hl : x.load = true) : s.performAt x sp p =
      if x.set then (s.afterLoad x sp p).setHalf x sp p else .done ((s.afterLoad x sp p).afterAccess x) := by
  rw [State.performAt, State.derrNext_false hd, if_neg (by decide), if_pos hl]; rfl

/-- A load answered without DERR writes its register; a LOADSET also stores ones, if that is not answered with DERR
either. -/
theorem State.performAt_loads {s : State} {x : Xfer} {sp : Space} {p : Word} (hd : s.cur.derr ≠ some s.accesses)
    (hl : x.load = true) (hset : x.set = true → s.cur.derr ≠ some (s.accesses + 1))
    (hsp : sp = .idmem → ctlCE x.ctl = false) (hreg : x.reg = 1#8 ∨ 64 ≤ x.reg.toNat) :
    ∃ t w, s.performAt x sp p = .done t ∧ s.Accessed t x ∧ s.Answers sp p w ∧ s.RegsExcept t [x.reg] ∧
      t.getGR x.reg = s.lanesRead x.ctl x.addr w ∧
      if x.set then s.LanesStored t sp x.ctl p 0xFFFFFFFF else s.SameMemory t := by
  obtain ⟨hdata, hacc, hmem, hregs, w, hw, hv⟩ := s.afterLoad_spec sp p hreg
  rw [State.performAt_afterLoad hd hl]
  generalize s.afterLoad x sp p = v at hdata hacc hmem hregs hv ⊢
  cases hs : x.set with
  | false =>
    exact ⟨_, w, rfl, hdata.accessed fun _ => hacc, hw, fun m hm => (v.afterAccess_getGR x m).trans (hregs m hm),
      (v.afterAccess_getGR x _).trans hv, hmem.trans (.of_eq (by simp) (by simp) (by simp))⟩
  | true =>
    have hd' : v.derrNext = false := State.derrNext_false (by rw [hdata.cur, hacc]; exact hset hs)
    have hst := v.bumpAccess.writeSpace_stored (sp := sp) (c := x.ctl) p 0xFFFFFFFF hsp
    have hgr : ∀ m, ((v.bumpAccess.writeSpace sp x.ctl p 0xFFFFFFFF).afterAccess x).getGR m = v.getGR m := by
      intro m; rw [State.afterAccess_getGR]
      cases sp <;> exact State.getGR_congr (by simp [State.writeSpace]) (by simp [State.writeSpace])
        (by simp [State.writeSpace]) (by simp [State.writeSpace]) m
    refine ⟨_, w, by rw [if_pos rfl, State.setHalf, hd', if_neg (by decide)], State.DataOnly.accessed ?_ (by simp [hs]), hw,
      fun m hm => (hgr m).trans (hregs m hm), (hgr _).trans hv, ?_⟩
    · exact hdata.trans (v.bumpAccess_dataOnly.trans (State.writeSpace_dataOnly ..))
    · exact hst.congr hmem (.of_eq (by simp) (by simp) (by simp)) (by rw [State.bumpAccess_sr, hdata.sr])

end Sys2Proof.Machine

namespace Sys2Proof.Machine

/-- A store answered without DERR replaces its bytes. -/
theorem State.performAt_stores {s : State} {x : Xfer} {sp : Space} {p : Word} (hd : s.cur.derr ≠ some s.accesses)
    (hl : x.load = false) (hsp : sp = .idmem → ctlCE x.ctl = false) :
    ∃ t, s.performAt x sp p = .done t ∧ s.Accessed t x ∧ s.RegsExcept t [] ∧ s.LanesStored t sp x.ctl p x.data := by
  refine ⟨_, State.performAt_store (State.derrNext_false hd) hl, State.DataOnly.accessed ?_ fun _ => ?_, fun m _ => ?_, ?_⟩
  · exact s.bumpAccess_dataOnly.trans (State.writeSpace_dataOnly ..)
  · cases sp <;> simp [State.writeSpace, State.bumpAccess]
  · rw [State.afterAccess_getGR]
    cases sp <;> exact State.getGR_congr (by simp [State.writeSpace]) (by simp [State.writeSpace])
      (by simp [State.writeSpace]) (by simp [State.writeSpace]) m
  · exact (s.bumpAccess.writeSpace_stored p x.data hsp).congr (.of_eq rfl rfl rfl) (.of_eq (by simp) (by simp) (by simp)) rfl

/-! ### An access answered with DERR (60_exceptions.md R660, R690) -/

theorem State.derrReply_sr (s : State) (x : Xfer) :
    (s.derrReply x).sr = if s.frozen then s.sr else { s.sr with chc := s.sr.chc ||| 0x400 } := by
  unfold State.derrReply; cases s.frozen <;> rfl

theorem State.derrReply_derrEvent (s : State) (x : Xfer) :
    (s.derrReply x).derrEvent = some (if x.ctl.getLsbD 7 then 4 else 7) := by
  unfold State.derrReply; cases s.frozen <;> rfl

theorem State.derrReply_derrLeft (s : State) (x : Xfer) : (s.derrReply x).derrLeft ≤ 8 := by
  have h : (s.derrReply x).derrLeft = Config.freeChoice s.fresh % (Config.derrTrapDelayMax + 1) := by
    unfold State.derrReply; cases s.frozen <;> rfl
  rw [h]
  exact Nat.le_of_lt_succ (Nat.mod_lt _ (by decide))

theorem State.derrReply_derrLoad (s : State) (x : Xfer) :
    (s.derrReply x).derrLoad = if x.load then some x.reg else none := by
  unfold State.derrReply; cases s.frozen <;> rfl

theorem State.performAt_fails {s : State} {x : Xfer} {sp : Space} {p : Word} (hd : s.cur.derr = some s.accesses) :
    s.performAt x sp p = .derr (s.bumpAccess.derrReply x) := by
  rw [State.performAt, if_pos (State.derrNext_true hd)]

/-! ### Making an access in a state with the same map -/

theorem State.noUnit_false {s t : State} {x : Xfer} (hp : ctlCE x.ctl = true → s.cp = true)
    (hc : t.sr.cfg = s.sr.cfg) : (ctlCE x.ctl && !t.cp) = false := by
  rw [State.cp, hc]
  cases h : ctlCE x.ctl
  · rfl
  · exact congrArg Bool.not (hp h)

section
variable {s t u : State} {x y : Xfer} {sp : Space} {p : Word} {vn : Byte}
  (hp : ctlCE y.ctl = true → s.cp = true) (m : s.SameMap t) (hc : t.sr.cfg = s.sr.cfg)
  (h1 : y.ctl = x.ctl) (h2 : y.addr = x.addr) (h3 : y.kind = x.kind)
include hp m hc h1 h2 h3

theorem State.access_of_found (hl : s.locate x = .found sp p u) :
    ∃ l, t.access y = ({ t with tlbUsage := l } : State).performAt y sp p ∧ (t.tlbUsage = s.tlbUsage → l = u.tlbUsage) := by
  obtain ⟨w, hw, he, hu⟩ := State.locate_found hl m h1 h2 h3
  refine ⟨w.tlbUsage, ?_, hu⟩
  rw [State.access, State.noUnit_false hp hc, if_neg (by decide), hw, ← he]

theorem State.access_of_absent (hl : s.locate x = .absent u) :
    ∃ l, t.access y = .derr (({ t with tlbUsage := l } : State).bumpAccess.derrReply y) := by
  obtain ⟨w, hw, he, -⟩ := State.locate_absent hl m h1 h2 h3
  refine ⟨w.tlbUsage, ?_⟩
  rw [State.access, State.noUnit_false hp hc, if_neg (by decide), hw, ← he]

theorem State.access_of_trap (hl : s.locate x = .trap vn u) :
    ∃ w, t.access y = .trap vn w ∧ t.locate y = .trap vn w ∧ t.LruOnly w := by
  obtain ⟨w, hw, hlru⟩ := State.locate_trap hl m h1 h2 h3
  refine ⟨w, ?_, hw, hlru⟩
  rw [State.access, State.noUnit_false hp hc, if_neg (by decide), hw]

/-- An access that the platform answers with DERR, as it does at an address that does not exist (R660; log entry 47). -/
theorem State.access_fails (h : (∃ sp p, s.locate x = .found sp p u) ∧ t.cur.derr = some t.accesses ∨ s.locate x = .absent u) :
    ∃ l, t.access y = .derr (({ t with tlbUsage := l } : State).bumpAccess.derrReply y) := by
  rcases h with ⟨⟨sp, p, hl⟩, hd⟩ | hl
  · obtain ⟨l, ha, -⟩ := State.access_of_found hp m hc h1 h2 h3 hl
    exact ⟨l, ha.trans (State.performAt_fails hd)⟩
  · exact State.access_of_absent hp m hc h1 h2 h3 hl

end

/-- A coprocessor transfer without a coprocessor traps (R439). -/
theorem State.access_noUnit {s : State} {x : Xfer} (h : ctlCE x.ctl = true) (hp : s.cp = false) :
    s.access x = .trap 3 s := by
  rw [State.access, h, hp, if_pos (by decide)]

/-! ### The Usage bits that an access which traps has written -/

/-- The Usage bits in the state of a translation. -/
def Translated.usage : Translated → Option (Vector Bool 32)
  | .ok _ _ s => some s.tlbUsage
  | .miss s => some s.tlbUsage
  | .violation s => some s.tlbUsage
  | .fault _ => none

/-- The Usage bits in the state of an access that has, or has not, a place. -/
def Located.usage : Located → Option (Vector Bool 32)
  | .found _ _ s => some s.tlbUsage
  | .absent s => some s.tlbUsage
  | .trap _ s => some s.tlbUsage
  | .fault _ => none

theorem State.protect_usage (s : State) (w : Word) (user : Bool) (k : AccessKind) (p : Word) (io : Bool) :
    (s.protect w user k p io).usage = some s.tlbUsage := by
  unfold State.protect; split_ifs <;> rfl

theorem State.place_usage (s : State) (sp : Space) (p : Word) : (s.place sp p).usage = some s.tlbUsage := by
  unfold State.place; split_ifs <;> rfl

theorem State.memoryPlace_usage (s : State) (c : Byte) (a p : Word) : (s.memoryPlace c a p).usage = some s.tlbUsage := by
  unfold State.memoryPlace
  split_ifs
  · rfl
  · exact s.place_usage ..

theorem State.afterTranslation_usage (s : State) (x : Xfer) (r : Translated) :
    (s.afterTranslation x r).usage = r.usage := by
  cases r with
  | ok p io t =>
    cases io
    · exact t.memoryPlace_usage ..
    · exact t.place_usage ..
  | _ => rfl

/-- A translation writes the same Usage bits in every state with the same map and the same Usage bits. -/
theorem State.translate_usage {s t : State} (m : s.SameMap t) (hu : t.tlbUsage = s.tlbUsage) (v : Word) (user : Bool)
    (k : AccessKind) : (t.translate v user k).usage = (s.translate v user k).usage := by
  have hw : ∀ n, t.tlbWord n = s.tlbWord n := fun n => by simp [State.tlbWord, m.tlb]
  have hp : t.pageSize = s.pageSize := by simp [State.pageSize, m.mmu]
  have hn : t.processNumber user = s.processNumber user := by simp [State.processNumber, State.pid, m.mmu]
  have hset : ∀ l b, (t.useSet l b).tlbUsage = (s.useSet l b).tlbUsage := fun l b => by simp [State.useSet, hu]
  unfold State.translate State.tlbTranslate
  simp only [m.rma0, m.rmc0, m.rma1, m.rmc1, hw, hp, hn]
  split_ifs
  · rfl
  · rw [State.protect_usage, State.protect_usage, hu]
  · rfl
  · rw [State.protect_usage, State.protect_usage, hu]
  · rfl
  · rw [State.protect_usage, State.protect_usage, hset]
  · rw [State.protect_usage, State.protect_usage, hset]
  · exact congrArg some hu

/-- So does finding the place of an access. -/
theorem State.locate_usage {s t : State} {x y : Xfer} (m : s.SameMap t) (hu : t.tlbUsage = s.tlbUsage)
    (h1 : y.ctl = x.ctl) (h2 : y.addr = x.addr) (h3 : y.kind = x.kind) : (t.locate y).usage = (s.locate x).usage := by
  have htr : t.dataTranslated y.ctl = s.dataTranslated x.ctl := by
    simp [State.dataTranslated, State.ePD, State.mm, m.cps, h1]
  have hus : t.dataUser y.ctl = s.dataUser x.ctl := by
    simp [State.dataUser, State.user, State.eSM, State.mm, m.cps, h1]
  cases hce : ctlCE x.ctl with
  | true =>
    rw [State.locate_coprocessor hce, State.locate_coprocessor (h1 ▸ hce), State.place_usage, State.place_usage, hu]
  | false =>
    by_cases ht : s.dataTranslated x.ctl = true
    · cases hps : s.hz.ps with
      | true => rw [State.locate_hazard hce ht hps, State.locate_hazard (h1 ▸ hce) (htr ▸ ht) (m.ps ▸ hps)]
      | false =>
        rw [State.locate_translated hce ht hps, State.locate_translated (h1 ▸ hce) (htr ▸ ht) (m.ps ▸ hps),
          State.afterTranslation_usage, State.afterTranslation_usage, h2, h3, hus, State.translate_usage m hu]
    · rw [State.locate_untranslated hce ht, State.locate_untranslated (h1 ▸ hce) (htr ▸ ht), h1, h2]
      split_ifs <;> simp only [State.place_usage, State.memoryPlace_usage, hu]

end Sys2Proof.Machine

namespace Sys2Proof.Machine

/-! ### Bits of words -/

theorem bitOf_or (a b : Word) (i : Nat) : bitOf (a ||| b) i = (bitOf a i || bitOf b i) := BitVec.getLsbD_or

theorem bitOf_and (a b : Word) (i : Nat) : bitOf (a &&& b) i = (bitOf a i && bitOf b i) := BitVec.getLsbD_and

/-- Two words with the same bits are equal. -/
theorem eq_of_bitOf {a b : Word} (h : ∀ i < 32, bitOf a i = bitOf b i) : a = b := BitVec.eq_of_getLsbD_eq h

/-- A byte placed in a word. -/
theorem bitOf_byte_shiftLeft (b : Byte) (n i : Nat) (hi : i < 32) :
    bitOf (b.setWidth 32 <<< n) i = (decide (n ≤ i ∧ i < n + 8) && b.getLsbD (i - n)) := by
  unfold bitOf
  rw [BitVec.getLsbD_shiftLeft, BitVec.getLsbD_setWidth]
  by_cases h : n ≤ i ∧ i < n + 8
  · simp [h, hi, show ¬ i < n by omega, show i - n < 32 by omega]
  · by_cases hn : i < n
    · simp [hn, h]
    · simp [BitVec.getLsbD_of_ge b (i - n) (by omega), h]

/-! ### Channel registers (20_memory.md R171) -/

theorem or_fourth_last (a b c d e f g h : Word) :
    a ||| b ||| c ||| d ||| e ||| f ||| g ||| h = a ||| b ||| c ||| e ||| f ||| g ||| h ||| d := by
  ac_rfl

/-- CHC when an access starts. -/
theorem startChc_eq (s : State) (x : Xfer) (ml : Bool) : startChc s.sr.chc x ml =
    s.channelWord x.ctl x.load x.set x.lock true x.reg ||| ((if ml then 0x4000 else 0 : Nat) : Word) := by
  have hl : boolBit x.load <<< 15 = ((if x.load then 0x8000 else 0 : Nat) : Word) := by cases x.load <;> rfl
  have hm : boolBit ml <<< 14 = ((if ml then 0x4000 else 0 : Nat) : Word) := by cases ml <;> rfl
  have hs : boolBit x.set <<< 13 = ((if x.set then 0x2000 else 0 : Nat) : Word) := by cases x.set <;> rfl
  have hk : boolBit x.lock <<< 12 = ((if x.lock then 0x1000 else 0 : Nat) : Word) := by cases x.lock <;> rfl
  rw [startChc, State.channelWord, hl, hm, hs, hk, if_pos rfl, or_fourth_last]

/-- The bits of CHC of an access: the control byte, the fields kept, LS, ST, LA, TR and CV. -/
theorem State.bitOf_channelWord (s : State) (c : Byte) (load set lock cv : Bool) (reg : Byte) {i : Nat} (hi : i < 32) :
    bitOf (s.channelWord c load set lock cv reg) i =
      (decide (24 ≤ i) && c.getLsbD (i - 24) || bitOf s.sr.chc i && (decide (16 ≤ i ∧ i < 24) || decide (i = 10)) ||
        load && decide (i = 15) || set && decide (i = 13) || lock && decide (i = 12) ||
        decide (2 ≤ i ∧ i < 10) && reg.getLsbD (i - 2) || cv && decide (i = 0)) := by
  have hmask : ∀ i < 32, bitOf ((0x00FF0400 : Nat) : Word) i = (decide (16 ≤ i ∧ i < 24) || decide (i = 10)) := by
    decide
  have hload : ∀ b : Bool, ∀ i < 32, bitOf ((if b then 0x8000 else 0 : Nat) : Word) i = (b && decide (i = 15)) := by
    decide
  have hset : ∀ b : Bool, ∀ i < 32, bitOf ((if b then 0x2000 else 0 : Nat) : Word) i = (b && decide (i = 13)) := by
    decide
  have hlock : ∀ b : Bool, ∀ i < 32, bitOf ((if b then 0x1000 else 0 : Nat) : Word) i = (b && decide (i = 12)) := by
    decide
  have hcv : ∀ b : Bool, ∀ i < 32, bitOf (if b then 1 else 0 : Word) i = (b && decide (i = 0)) := by
    decide
  have hctl : decide (24 ≤ i ∧ i < 24 + 8) = decide (24 ≤ i) := by simp; omega
  simp only [State.channelWord, bitOf_or, bitOf_and, hmask i hi, hload load i hi, hset set i hi,
    hlock lock i hi, hcv cv i hi, bitOf_byte_shiftLeft _ _ _ hi, hctl]

/-- CHC once the access is complete: CV is its bit 0. -/
theorem State.channelWord_complete (s : State) (c : Byte) (load set lock : Bool) (reg : Byte) :
    putBit (s.channelWord c load set lock true reg) 0 false = s.channelWord c load set lock false reg :=
  eq_of_bitOf fun i hi => by
    rw [bitOf_putBit _ _ _ _ (by decide), s.bitOf_channelWord _ _ _ _ _ _ hi, s.bitOf_channelWord _ _ _ _ _ _ hi]
    by_cases h0 : i = 0
    · simp [h0]
    · simp [h0]

theorem State.startChannel_sr_single (s : State) (x : Xfer) : (s.startChannel x false).sr = if s.frozen then s.sr else
    { s.sr with
      cha := x.addr
      chd := if x.load then Config.freeWord s.fresh else x.data
      chc := s.channelWord x.ctl x.load x.set x.lock true x.reg } := by
  have h : startChc s.sr.chc x false = s.channelWord x.ctl x.load x.set x.lock true x.reg :=
    (startChc_eq s x false).trans BitVec.or_zero
  rw [State.startChannel_special, h]

theorem State.endChannel_sr (s : State) :
    s.endChannel.sr = if s.frozen then s.sr else { s.sr with chc := putBit s.sr.chc 0 false } := by
  unfold State.endChannel; split_ifs <;> rfl

/-- The channel registers tell an access that is complete (R171). -/
theorem State.channelTells_of {s t : State} {x : Xfer} (hf : t.frozen = s.frozen)
    (h : t.sr = (s.startChannel x false).sr) :
    s.ChannelTells t.endChannel x.ctl x.load x.set x.lock x.reg x.addr ∧
      (s.frozen = false → x.load = false → t.endChannel.sr.chd = x.data) := by
  unfold State.ChannelTells State.SameSpecialButChannel
  rw [t.endChannel_sr, hf, h, s.startChannel_sr_single]
  cases s.frozen
  · exact ⟨⟨rfl, rfl, s.channelWord_complete ..⟩, fun _ hl => by rw [hl]; rfl⟩
  · exact ⟨⟨rfl, rfl⟩, by simp⟩

/-- They tell one that has not been performed, or that has been answered with DERR. -/
theorem State.channelWaits_of {s t : State} {x : Xfer} (h : ∃ l, t.sr = { (s.startChannel x false).sr with lru := l }) :
    s.ChannelWaits t x.ctl x.load x.set x.lock x.reg x.addr x.data := by
  obtain ⟨l, h⟩ := h
  unfold State.ChannelWaits
  rw [h, s.startChannel_sr_single]
  cases s.frozen
  · exact ⟨rfl, rfl, rfl, fun hl => by rw [hl]; rfl⟩
  · exact ⟨rfl, rfl, rfl, rfl⟩

/-! ### The single accesses (R170) -/

/-- CPS of a completed instruction that has left its bits alone but for CA. -/
theorem State.tracedCps_of_bits {s t : State} (h : ∀ k, k ≠ 15 → bitOf t.cps k = bitOf s.cps k) :
    t.tracedCps = s.withTrace t.cps := by
  simp [State.tracedCps, State.withTrace, State.te, State.mm, State.tp, h]

theorem exec_load (ctl ra : Byte) (b : Opnd) (s : State) : exec (.load ctl ra b) s = finish (Instr.load ctl ra b).opcode
    (s.guarded (s.accessProtected ctl) (usesLoad ra b) (s.single (s.loadXfer ctl ra b false false))) := rfl

theorem exec_loadl (ctl ra : Byte) (b : Opnd) (s : State) : exec (.loadl ctl ra b) s =
    finish (Instr.loadl ctl ra b).opcode
      (s.guarded (s.accessProtected ctl) (usesLoad ra b) (s.single (s.loadXfer ctl ra b false true))) := rfl

theorem exec_loadset (ctl ra : Byte) (b : Opnd) (s : State) : exec (.loadset ctl ra b) s =
    finish (Instr.loadset ctl ra b).opcode
      (s.guarded (s.accessProtected ctl) (usesLoad ra b) (s.single (s.loadXfer ctl ra b true false))) := rfl

theorem exec_store (ctl ra : Byte) (b : Opnd) (s : State) : exec (.store ctl ra b) s =
    finish (Instr.store ctl ra b).opcode
      (s.guarded (s.accessProtected ctl) (usesStore ra b) (s.single (s.storeXfer ctl ra b false))) := rfl

theorem exec_storel (ctl ra : Byte) (b : Opnd) (s : State) : exec (.storel ctl ra b) s =
    finish (Instr.storel ctl ra b).opcode
      (s.guarded (s.accessProtected ctl) (usesStore ra b) (s.single (s.storeXfer ctl ra b true))) := rfl

/-- The register of a load that nothing stops. -/
theorem State.loadRegister_of_regStop {s : State} {prot : Bool} {ra : Byte} {b : Opnd}
    (h : s.regStop prot (usesLoad ra b) = none) : s.absReg .a ra = 1#8 ∨ 64 ≤ (s.absReg .a ra).toNat := by
  have hm : (⟨.a, ra, .dst .load⟩ : RegUse) ∈ usesLoad ra b := by simp [usesLoad]
  obtain ⟨-, hu⟩ := (State.regStop_none h).2 _ hm
  have hd : s.dstFault .load (s.absReg .a ra) = none := by
    unfold State.useFault at hu
    split at hu
    · cases hu
    · exact hu
  rcases numberFault_none (State.dst_of_regStop h hm) with hn | hn | hn | hn
  · exact .inl hn
  · rw [hn] at hd; cases hd
  · rw [hn] at hd; cases hd
  · exact .inr hn

/-- A single access behind its checks. -/
theorem exec_single {i : Instr} {us : List RegUse} {s : State} {x : Xfer}
    (he : exec i s = finish i.opcode (s.guarded (s.accessProtected x.ctl) us (s.single x)))
    (hreg : s.regStop (s.accessProtected x.ctl) us = none) (hml : (bitOf s.sr.chc 14 && !s.frozen) = false) :
    exec i s = finish i.opcode ((s.startChannel x false).access x).toDone := by
  have hml' : (s.ml && !s.frozen) = false := hml
  rw [he, State.guarded_none _ hreg, State.single, hml', if_neg Bool.false_ne_true]

/-- The state in which a single access is made: the channel registers tell it, and its translation has left `l` as the
Usage bits. -/
def State.opened (s : State) (x : Xfer) (l : Vector Bool 32) : State := { s.startChannel x false with tlbUsage := l }

theorem State.startChannel_cfg (s : State) (x : Xfer) (m : Bool) : (s.startChannel x m).sr.cfg = s.sr.cfg := by
  rw [s.startChannel_special]; split_ifs <;> rfl

@[simp] theorem State.opened_cps (s : State) (x : Xfer) (l : Vector Bool 32) : (s.opened x l).cps = s.cps :=
  State.startChannel_cps s x false
@[simp] theorem State.opened_cur (s : State) (x : Xfer) (l : Vector Bool 32) : (s.opened x l).cur = s.cur :=
  State.startChannel_cur s x false
@[simp] theorem State.opened_accesses (s : State) (x : Xfer) (l : Vector Bool 32) :
    (s.opened x l).accesses = s.accesses := State.startChannel_accesses s x false
@[simp] theorem State.opened_cfg (s : State) (x : Xfer) (l : Vector Bool 32) : (s.opened x l).sr.cfg = s.sr.cfg :=
  State.startChannel_cfg s x false
@[simp] theorem State.opened_getGR (s : State) (x : Xfer) (l : Vector Bool 32) (n : Byte) :
    (s.opened x l).getGR n = s.getGR n := State.startChannel_getGR s x false n
theorem State.opened_memory (s : State) (x : Xfer) (l : Vector Bool 32) : s.SameMemory (s.opened x l) :=
  .of_eq (State.startChannel_idmem s x false) (State.startChannel_irom s x false) (State.startChannel_imem s x false)
theorem State.opened_frozen (s : State) (x : Xfer) (l : Vector Bool 32) : (s.opened x l).frozen = s.frozen :=
  State.frozen_congr fun k _ => by rw [State.opened_cps]

/-- The end of an instruction leaves the memories. -/
theorem State.advance_endChannel_memory (s : State) : s.SameMemory (Done.seq s.endChannel).advance :=
  .of_eq (by simp) (by simp) (by simp)

/-- What a completed single access leaves as every one does. -/
theorem State.Accessed.accessDone {s t : State} {x : Xfer} {l : Vector Bool 32} (h : (s.opened x l).Accessed t x) :
    s.AccessDone (Done.seq t.endChannel).advance x.ctl x.load x.addr ∧
      s.ChannelTells (Done.seq t.endChannel).advance x.ctl x.load x.set x.lock x.reg x.addr ∧
      (s.frozen = false → x.load = false → (Done.seq t.endChannel).advance.sr.chd = x.data) ∧
      (Done.seq t.endChannel).advance.tlbUsage = l := by
  have hbits : ∀ k, k ≠ 15 → bitOf t.cps k = bitOf s.cps k := fun k hk => by
    rw [h.cps, State.bitOf_cpsAfter _ _ _ hk, State.opened_cps]
  have hfrozen := s.opened_frozen x l
  obtain ⟨htells, hchd⟩ := State.channelTells_of (h.frozen.trans hfrozen) h.sr
  refine ⟨⟨⟨?_, ?_⟩, ?_, ?_, ?_, ?_⟩, htells, hchd, ?_⟩
  · simp [h.npc, State.opened]
  · simp [h.npc, State.opened]
  · rw [Done.advance_seq_cps, State.tracedCps_of_bits (by simpa using hbits), State.endChannel_cps, h.cps,
      State.cpsAfter, State.opened_cps]
  · rw [Done.advance_seq_alu, State.endChannel_alu, h.alu, hfrozen]
    exact State.aluAfter_congr (State.startChannel_alu s x false) (s.opened_cfg x l) ..
  · simp [h.acc, State.opened]
  · simp [h.tlb, State.opened]
  · simp [h.tlbUsage, State.opened]

section
variable {i : Instr} {us : List RegUse} {s u : State} {x : Xfer} {sp : Space} {p : Word}
  (he : exec i s = finish i.opcode (s.guarded (s.accessProtected x.ctl) us (s.single x)))
  (hreg : s.regStop (s.accessProtected x.ctl) us = none) (hml : (bitOf s.sr.chc 14 && !s.frozen) = false)
  (hcp : x.ctl.getLsbD 7 = true → bitOf s.sr.cfg 1 = true)
include he hreg hml hcp

/-- A single access that is found is made in the opened state. -/
theorem exec_single_found (hl : s.locate x = .found sp p u) :
    exec i s = finish i.opcode ((s.opened x u.tlbUsage).performAt x sp p).toDone := by
  rw [exec_single he hreg hml,
    State.access_found hl hcp (s.startChannel_map x false) (s.startChannel_cfg x false)
      (State.startChannel_tlbUsage s x false)]
  rfl

/-- A single load that is found completes with its value. -/
theorem exec_load_found (hl : s.locate x = .found sp p u) (hload : x.load = true)
    (hr : x.reg = 1#8 ∨ 64 ≤ x.reg.toNat) (hd : s.cur.derr ≠ some s.accesses)
    (hset : x.set = true → s.cur.derr ≠ some (s.accesses + 1)) :
    ∃ t w, exec i s = .next t ∧ s.Answers sp p w ∧ t.getGR x.reg = s.lanesRead x.ctl x.addr w ∧
      s.RegsExcept t [x.reg] ∧ s.AccessDone t x.ctl true x.addr ∧
      s.ChannelTells t x.ctl true x.set x.lock x.reg x.addr ∧ t.tlbUsage = u.tlbUsage ∧
      if x.set then s.LanesStored t sp x.ctl p 0xFFFFFFFF else s.SameMemory t := by
  have hmem := s.opened_memory x u.tlbUsage
  have hsp : sp = .idmem → ctlCE x.ctl = false := by rintro rfl; exact State.locate_found_memory hl
  obtain ⟨t, w, hp, hacc, hw, hregs, hv, hm⟩ := State.performAt_loads (s := s.opened x u.tlbUsage) (sp := sp) (p := p)
    (by simpa using hd) hload (by simpa using hset) hsp hr
  obtain ⟨hdone, htells, -, husage⟩ := hacc.accessDone
  rw [hload] at hdone htells
  refine ⟨_, w, by rw [exec_single_found he hreg hml hcp hl, hp]; rfl, hw.congr hmem, ?_, fun n hn => ?_, hdone, htells,
    husage, ?_⟩
  · rw [Done.advance_seq_getGR, State.endChannel_getGR, hv]
    simp only [State.lanesRead, State.opened_cfg]
  · rw [Done.advance_seq_getGR, State.endChannel_getGR, hregs n hn, State.opened_getGR]
  · split_ifs at hm ⊢
    · exact hm.congr hmem t.advance_endChannel_memory (s.opened_cfg ..).symm
    · exact (hmem.trans hm).trans t.advance_endChannel_memory

/-- A single store that is found completes with its bytes stored. -/
theorem exec_store_found (hl : s.locate x = .found sp p u) (hload : x.load = false) (hd : s.cur.derr ≠ some s.accesses) :
    ∃ t, exec i s = .next t ∧ s.RegsExcept t [] ∧ s.AccessDone t x.ctl false x.addr ∧
      s.ChannelTells t x.ctl false x.set x.lock x.reg x.addr ∧ (s.frozen = false → t.sr.chd = x.data) ∧
      t.tlbUsage = u.tlbUsage ∧ s.LanesStored t sp x.ctl p x.data := by
  have hsp : sp = .idmem → ctlCE x.ctl = false := by rintro rfl; exact State.locate_found_memory hl
  obtain ⟨t, hp, hacc, hregs, hm⟩ := State.performAt_stores (s := s.opened x u.tlbUsage) (sp := sp) (p := p)
    (by simpa using hd) hload hsp
  obtain ⟨hdone, htells, hchd, husage⟩ := hacc.accessDone
  rw [hload] at hdone htells
  refine ⟨_, by rw [exec_single_found he hreg hml hcp hl, hp]; rfl, fun n hn => ?_, hdone, htells,
    fun hf => hchd hf hload, husage, hm.congr (s.opened_memory x _) t.advance_endChannel_memory (s.opened_cfg ..).symm⟩
  rw [Done.advance_seq_getGR, State.endChannel_getGR, hregs n hn, State.opened_getGR]

/-- A single access that traps tells it in the channel registers and changes nothing else but LRU and the Usage bits. -/
theorem exec_single_trap {vn : Byte} (hl : s.locate x = .trap vn u) :
    ∃ w, exec i s = w.takeInstTrap i.opcode vn .next ∧ s.RegsExcept w [] ∧ s.SameMemory w ∧ w.alu = s.alu ∧
      w.cps = s.cps ∧ w.pc = s.pc ∧ w.npc = s.npc ∧ w.acc = s.acc ∧ w.tlb = s.tlb ∧ w.tlbUsage = u.tlbUsage ∧
      s.ChannelWaits w x.ctl x.load x.set x.lock x.reg x.addr x.data := by
  have m := s.startChannel_map x false
  obtain ⟨w, ha, hw, hlru⟩ := State.access_of_trap hcp m (s.startChannel_cfg x false) rfl rfl rfl hl
  have husage : w.tlbUsage = u.tlbUsage := by
    have h := State.locate_usage (y := x) m (State.startChannel_tlbUsage s x false) rfl rfl rfl
    rw [hl, hw] at h
    exact Option.some.inj h
  refine ⟨w, by rw [exec_single he hreg hml, ha]; rfl, fun n _ => ?_, .of_eq ?_ ?_ ?_, ?_, ?_, ?_, ?_, ?_, ?_, husage,
    State.channelWaits_of ⟨w.sr.lru, congrArg State.sr hlru⟩⟩
  · rw [← s.startChannel_getGR x false n]
    exact State.getGR_congr (congrArg State.sp hlru) (congrArg State.cca hlru) (congrArg State.globals hlru)
      (congrArg State.locals hlru) n
  · exact (congrArg State.idmem hlru).trans (State.startChannel_idmem s x false)
  · exact (congrArg State.irom hlru).trans (State.startChannel_irom s x false)
  · exact (congrArg State.imem hlru).trans (State.startChannel_imem s x false)
  · exact (congrArg State.alu hlru).trans (State.startChannel_alu s x false)
  · exact (congrArg State.cps hlru).trans (State.startChannel_cps s x false)
  · exact (congrArg State.pc hlru).trans (State.startChannel_pc s x false)
  · exact (congrArg State.npc hlru).trans (State.startChannel_npc s x false)
  · exact (congrArg State.acc hlru).trans (State.startChannel_acc s x false)
  · exact (congrArg State.tlb hlru).trans (State.startChannel_tlb s x false)

end

/-- Settles O19: the three loads are single accesses that are found. -/
theorem loadsComplete : Obligations.LoadsComplete := by
  intro ctl ra b s u sp p addr reg big sub k h pk ph value base ones hreg hml hcp hd done
  have hr := State.loadRegister_of_regStop hreg
  refine ⟨fun hl => ?_, fun hl => ?_, fun hd' hl => ?_⟩
  · exact exec_load_found (x := s.loadXfer ctl ra b false false) (exec_load ctl ra b s) hreg hml hcp hl rfl hr hd nofun
  · exact exec_load_found (x := s.loadXfer ctl ra b false true) (exec_loadl ctl ra b s) hreg hml hcp hl rfl hr hd nofun
  · exact exec_load_found (x := s.loadXfer ctl ra b true false) (exec_loadset ctl ra b s) hreg hml hcp hl rfl hr hd fun _ => hd'

/-- Settles O20: the two stores are single accesses that are found. -/
theorem storesComplete : Obligations.StoresComplete := by
  intro ctl ra b s u sp p addr v reg big sub pk ph base byte hreg hml hcp hd done
  refine ⟨fun hl => ?_, fun hl => ?_⟩
  · exact exec_store_found (x := s.storeXfer ctl ra b false) (exec_store ctl ra b s) hreg hml hcp hl rfl hd
  · exact exec_store_found (x := s.storeXfer ctl ra b true) (exec_storel ctl ra b s) hreg hml hcp hl rfl hd

/-- Settles O23: the five forms are single accesses that trap. -/
theorem refusedAccessTraps : Obligations.RefusedAccessTraps := by
  intro ctl ra b vn s u addr reg v hml hcp traps
  exact ⟨fun hreg hl => exec_single_trap (x := s.loadXfer ctl ra b false false) (exec_load ctl ra b s) hreg hml hcp hl,
    fun hreg hl => exec_single_trap (x := s.loadXfer ctl ra b false true) (exec_loadl ctl ra b s) hreg hml hcp hl,
    fun hreg hl => exec_single_trap (x := s.loadXfer ctl ra b true false) (exec_loadset ctl ra b s) hreg hml hcp hl,
    fun hreg hl => exec_single_trap (x := s.storeXfer ctl ra b false) (exec_store ctl ra b s) hreg hml hcp hl,
    fun hreg hl => exec_single_trap (x := s.storeXfer ctl ra b true) (exec_storel ctl ra b s) hreg hml hcp hl⟩

end Sys2Proof.Machine

namespace Sys2Proof.Machine

/-! ### Single accesses answered with DERR (60_exceptions.md R660, R690) -/

/-- The exception is due, by vector 7 or for a coprocessor 4, within eight more instructions. -/
def State.ErrorDue (t : State) (c : Byte) : Prop := t.derrEvent = some (if c.getLsbD 7 then 4 else 7) ∧ t.derrLeft ≤ 8

/-- The channel registers tell an access answered with DERR (R171, R660), unless frozen. -/
def State.ChannelFails (s t : State) (x : Xfer) : Prop :=
  s.SameSpecialButChannel t ∧
    if s.frozen then t.sr = s.sr
    else t.sr.cha = x.addr ∧ t.sr.chc = s.channelWord x.ctl x.load x.set x.lock true x.reg ||| 0x400 ∧
      (x.load = false → t.sr.chd = x.data)

theorem State.channelFails_of {s t : State} {x : Xfer} (hf : t.frozen = s.frozen) (h : t.sr = (s.startChannel x false).sr) :
    s.ChannelFails (t.derrReply x) x := by
  unfold State.ChannelFails State.SameSpecialButChannel
  rw [t.derrReply_sr, hf, h, s.startChannel_sr_single]
  cases s.frozen
  · exact ⟨rfl, rfl, rfl, fun hl => by rw [hl]; rfl⟩
  · exact ⟨rfl, rfl⟩

/-- What DERR leaves in a state that differs from the opened one by data: the instruction completes with its flags, and
the exception is due. -/
theorem State.DataOnly.fails {s t : State} {x : Xfer} {l : Vector Bool 32} (h : (s.opened x l).DataOnly t) :
    let w := (Done.seq (t.derrReply x)).advance
    s.FallsThrough w ∧ w.alu = s.alu ∧ w.ErrorDue x.ctl ∧ w.derrLoad = (if x.load then some x.reg else none) ∧
      s.ChannelFails w x := by
  have hcps : t.cps = s.cps := h.cps.trans (s.opened_cps x l)
  have hf : t.frozen = s.frozen := State.frozen_congr fun k _ => by rw [hcps]
  refine ⟨⟨?_, ?_, ?_⟩, ?_, ⟨t.derrReply_derrEvent x, t.derrReply_derrLeft x⟩, t.derrReply_derrLoad x,
    State.channelFails_of hf h.sr⟩
  · simp [h.npc, State.opened]
  · simp [h.npc, State.opened]
  · rw [Done.advance_seq_cps, State.tracedCps_of (State.derrReply_cps t x), State.withTrace, State.withTrace, hcps,
      State.te, State.te, State.mm, State.mm, State.tp, State.tp, hcps]
  · simp [h.alu, State.opened]

section
variable {i : Instr} {us : List RegUse} {s u : State} {x : Xfer} {sp : Space} {p : Word}
  (he : exec i s = finish i.opcode (s.guarded (s.accessProtected x.ctl) us (s.single x)))
  (hreg : s.regStop (s.accessProtected x.ctl) us = none) (hml : (bitOf s.sr.chc 14 && !s.frozen) = false)
include he hreg hml

/-- A single access answered with DERR completes without its result. -/
theorem exec_single_fails (hcp : x.ctl.getLsbD 7 = true → bitOf s.sr.cfg 1 = true)
    (hl : s.locate x = .found sp p u ∧ s.cur.derr = some s.accesses ∨ s.locate x = .absent u) :
    Completes i s fun t => s.RegsExcept t [] ∧ s.SameMemory t ∧ t.alu = s.alu ∧ t.ErrorDue x.ctl ∧
      s.ChannelFails t x := by
  have hc : (s.startChannel x false).cur = s.cur := State.startChannel_cur s x false
  have ha : (s.startChannel x false).accesses = s.accesses := State.startChannel_accesses s x false
  obtain ⟨l, hacc⟩ := State.access_fails (u := u) hcp (s.startChannel_map x false) (s.startChannel_cfg x false) rfl rfl rfl
    (hl.imp_left fun h => ⟨⟨sp, p, h.1⟩, by rw [hc, ha]; exact h.2⟩)
  obtain ⟨hfall, halu, hdue, -, htells⟩ := State.DataOnly.fails (s.opened x l).bumpAccess_dataOnly
  refine ⟨_, by rw [exec_single he hreg hml, hacc]; rfl, hfall, fun n _ => ?_, .of_eq ?_ ?_ ?_, halu, hdue, htells⟩
  · exact ((s.opened x l).bumpAccess.derrReply_getGR x n).trans (s.opened_getGR x l n)
  · simp [State.opened]
  · simp [State.opened]
  · simp [State.opened]

/-- A coprocessor transfer without a coprocessor takes trap 3 (44_data_movement.md R439). -/
theorem exec_single_noUnit (hce : x.ctl.getLsbD 7 = true) (hcp : bitOf s.sr.cfg 1 = false) :
    ∃ w, exec i s = w.takeInstTrap i.opcode 3 .next ∧ s.SameGeneral w ∧ w.alu = s.alu ∧ w.cps = s.cps ∧
      w.pc = s.pc ∧ w.npc = s.npc := by
  have hcp' : (s.startChannel x false).cp = false := by rw [State.cp, s.startChannel_cfg]; exact hcp
  refine ⟨s.startChannel x false, by rw [exec_single he hreg hml, State.access_noUnit hce hcp']; rfl,
    State.sameGeneral_of ?_ ?_ ?_ ?_ ?_ ?_ ?_ ?_ ?_ ?_, ?_, ?_, ?_, ?_⟩ <;> simp

/-- How a single access ends that the platform does not answer. -/
theorem exec_single_errors :
    ((x.ctl.getLsbD 7 = true → bitOf s.sr.cfg 1 = true) →
      s.locate x = .found sp p u ∧ s.cur.derr = some s.accesses ∨ s.locate x = .absent u →
      Completes i s fun t => s.RegsExcept t [] ∧ s.SameMemory t ∧ t.alu = s.alu ∧ t.ErrorDue x.ctl ∧ s.ChannelFails t x) ∧
    (x.ctl.getLsbD 7 = true → bitOf s.sr.cfg 1 = false →
      ∃ w, exec i s = w.takeInstTrap i.opcode 3 .next ∧ s.SameGeneral w ∧ w.alu = s.alu ∧ w.cps = s.cps ∧
        w.pc = s.pc ∧ w.npc = s.npc) :=
  ⟨exec_single_fails he hreg hml, exec_single_noUnit he hreg hml⟩

/-- DERR on the write of a LOADSET finds its register written (R433; log entry 55). -/
theorem exec_loadset_fails (hcp : x.ctl.getLsbD 7 = true → bitOf s.sr.cfg 1 = true) (hl : s.locate x = .found sp p u)
    (hload : x.load = true) (hset : x.set = true) (hr : x.reg = 1#8 ∨ 64 ≤ x.reg.toNat)
    (hd : s.cur.derr = some (s.accesses + 1)) :
    Completes i s fun t => s.RegsExcept t [x.reg] ∧
      (∃ w, s.Answers sp p w ∧ t.getGR x.reg = s.lanesRead x.ctl x.addr w) ∧ s.SameMemory t ∧ t.alu = s.alu ∧
      t.ErrorDue x.ctl ∧ t.derrLoad = some x.reg ∧ s.ChannelFails t x := by
  obtain ⟨hdata, hacc, hmem, hregs, w, hw, hv⟩ := (s.opened x u.tlbUsage).afterLoad_spec sp p hr
  have hperf : (s.opened x u.tlbUsage).performAt x sp p =
      .derr (((s.opened x u.tlbUsage).afterLoad x sp p).bumpAccess.derrReply x) := by
    have hd1 : (s.opened x u.tlbUsage).cur.derr ≠ some (s.opened x u.tlbUsage).accesses := by simp [hd]
    have hd2 : ((s.opened x u.tlbUsage).afterLoad x sp p).derrNext = true :=
      State.derrNext_true (by rw [hdata.cur, hacc]; simpa using hd)
    rw [State.performAt_afterLoad hd1 hload, if_pos hset, State.setHalf, if_pos hd2]
  generalize (s.opened x u.tlbUsage).afterLoad x sp p = v at hdata hmem hregs hv hperf
  obtain ⟨hfall, halu, hdue, hdl, htells⟩ := (hdata.trans v.bumpAccess_dataOnly).fails
  have hgr : ∀ n, (Done.seq (v.bumpAccess.derrReply x)).advance.getGR n = v.getGR n := fun n =>
    v.bumpAccess.derrReply_getGR x n
  refine ⟨_, by rw [exec_single_found he hreg hml hcp hl, hperf]; rfl, hfall, fun n hn => ?_,
    ⟨w, hw.congr (s.opened_memory x _), ?_⟩, ((s.opened_memory x _).trans hmem).trans (.of_eq ?_ ?_ ?_), halu, hdue,
    by rw [hdl, if_pos hload], htells⟩
  · rw [hgr, hregs n hn, State.opened_getGR]
  · rw [hgr, hv]; simp only [State.lanesRead, State.opened_cfg]
  all_goals simp

end

end Sys2Proof.Machine

namespace Sys2Proof.Machine

/-! ### CHC of a sequence (44_data_movement.md R438) -/

/-- The bits of CHC when `j` transfers have been made. -/
theorem Sequence.bitOf_channel (q : Sequence) (j : Nat) {i : Nat} (hi : i < 32) : bitOf (q.channel j) i =
    if 2 ≤ i ∧ i < 10 then (q.reg j).getLsbD (i - 2)
    else if 16 ≤ i ∧ i < 24 then (q.last - j).testBit (i - 16) else bitOf q.chc i := by
  have hmask : bitOf ((0xFF00FC03 : Nat) : Word) i = !(decide (2 ≤ i ∧ i < 10) || decide (16 ≤ i ∧ i < 24)) := by
    revert i; decide
  have hcount : bitOf (BitVec.ofNat 32 (q.last - j) <<< 16) i =
      (decide (16 ≤ i ∧ i < 24) && (q.last - j).testBit (i - 16)) := by
    unfold bitOf
    rw [BitVec.getLsbD_shiftLeft, BitVec.getLsbD_ofNat]
    by_cases h : 16 ≤ i ∧ i < 24
    · simp [h, hi, show ¬ i < 16 by omega, show i - 16 < 32 by omega]
    · by_cases hn : i < 16
      · simp [hn, h]
      · have hlt : q.last - j < 2 ^ (i - 16) := by
          have hp := Nat.pow_le_pow_right (by decide : 0 < 2) (show 8 ≤ i - 16 by omega)
          have hl : q.last < 2 ^ 8 := Nat.mod_lt _ (by decide)
          omega
        simp [Nat.testBit_lt_two_pow hlt, h]
  unfold Sequence.channel
  rw [bitOf_or, bitOf_or, bitOf_and, hmask, hcount, bitOf_byte_shiftLeft _ _ _ hi]
  by_cases h2 : 2 ≤ i ∧ i < 10
  · have h16 : ¬ (16 ≤ i ∧ i < 24) := by omega
    simp [h2, h16]
  · by_cases h16 : 16 ≤ i ∧ i < 24 <;> simp [h2, h16]

/-- A sequence whose CHC, when it starts, tells its other fields. -/
structure Sequence.Told (q : Sequence) : Prop where
  ctl : q.chc.extractLsb' 24 8 = q.ctl
  load : bitOf q.chc 15 = q.load
  first : q.chc.extractLsb' 2 8 = q.first

theorem extractLsb'_eq_of_bitOf {w : Word} {b : Byte} {lo : Nat} (h : ∀ k < 8, bitOf w (lo + k) = b.getLsbD k) :
    w.extractLsb' lo 8 = b := by
  apply BitVec.eq_of_getLsbD_eq
  intro k hk
  rw [BitVec.getLsbD_extractLsb', ← h k hk]
  simp [hk, bitOf]

theorem bitOf_of_extractLsb' {w : Word} {b : Byte} {lo : Nat} (h : w.extractLsb' lo 8 = b) {k : Nat} (hk : k < 8) :
    bitOf w (lo + k) = b.getLsbD k := by
  rw [← h, BitVec.getLsbD_extractLsb']
  simp [hk, bitOf]

theorem State.startedSequence_told (s : State) (ctl ra : Byte) (b : Opnd) (load : Bool) :
    (s.startedSequence ctl ra b load).Told := by
  have hml : ∀ i < 32, bitOf (0x4000 : Word) i = decide (i = 14) := by decide
  have hbits : ∀ i, i < 32 → bitOf (s.startedSequence ctl ra b load).chc i = _ := fun i hi =>
    (bitOf_or _ _ i).trans (congrArg₂ _ (s.bitOf_channelWord ctl load false false true (s.absReg .a ra) hi) (hml i hi))
  refine ⟨extractLsb'_eq_of_bitOf fun k hk => ?_, ?_, extractLsb'_eq_of_bitOf fun k hk => ?_⟩
  · rw [hbits _ (by omega)]
    simp [State.startedSequence, show ¬ 24 + k = 10 by omega, show ¬ 24 + k = 15 by omega, show ¬ 24 + k < 10 by omega,
      show ¬ 24 + k = 14 by omega]
  · rw [hbits _ (by omega)]; simp [State.startedSequence]
  · rw [hbits _ (by omega)]
    simp [State.startedSequence, show ¬ 24 ≤ 2 + k by omega, show ¬ 16 ≤ 2 + k by omega, show ¬ 2 + k = 10 by omega,
      show ¬ 2 + k = 15 by omega, show 2 + k < 10 by omega, show ¬ 2 + k = 14 by omega]

theorem Sequence.last_lt (q : Sequence) : q.last < 2 ^ 8 := Nat.mod_lt _ (by decide)

theorem Sequence.last_testBit (q : Sequence) {k : Nat} (hk : k < 8) : q.last.testBit k = bitOf q.chc (16 + k) := by
  rw [Sequence.last, Nat.testBit_mod_two_pow, Nat.testBit_div_two_pow, Nat.add_comm]
  simp [hk, bitOf, BitVec.getLsbD]

/-- At its start CHC describes the first transfer. -/
theorem Sequence.Told.channel_zero {q : Sequence} (h : q.Told) : q.channel 0 = q.chc := by
  apply eq_of_bitOf
  intro i hi
  rw [q.bitOf_channel 0 hi]
  split_ifs with h2 h16
  · rw [show q.reg 0 = q.first from rfl, ← bitOf_of_extractLsb' h.first (k := i - 2) (by omega)]
    congr 1; omega
  · rw [Nat.sub_zero, q.last_testBit (by omega)]
    congr 1; omega
  · rfl

section
variable {q : Sequence} {t : State} {j : Nat} (hc : t.sr.chc = q.channel j)
include hc

/-- CHC.TR is the register of the transfer described. -/
theorem Sequence.targetRegister_eq : t.targetRegister = q.reg j := by
  refine extractLsb'_eq_of_bitOf fun k hk => ?_
  rw [hc, q.bitOf_channel j (by omega), if_pos (by omega), Nat.add_sub_cancel_left]

/-- CHC.CR is the number of the transfers that follow. -/
theorem Sequence.countRemaining_eq : t.countRemaining = q.last - j := by
  have hlt : q.last - j < 2 ^ 8 := by have := q.last_lt; omega
  rw [State.countRemaining, fieldOf_toNat _ _ _ (by decide)]
  refine Nat.eq_of_testBit_eq fun k => ?_
  rw [Nat.testBit_mod_two_pow, Nat.testBit_div_two_pow]
  by_cases hk : k < 8
  · have hb := q.bitOf_channel j (show k + 16 < 32 by omega)
    rw [if_neg (by omega), if_pos (by omega), Nat.add_sub_cancel, ← hc] at hb
    rw [decide_eq_true hk, Bool.true_and, ← hb]; rfl
  · rw [decide_eq_false hk, Bool.false_and, Nat.testBit_lt_two_pow]
    exact hlt.trans_le (Nat.pow_le_pow_right (by decide) (by omega))

/-- The channel registers tell the transfer. -/
theorem Sequence.Told.transfer_eq (hq : q.Told) (ha : t.sr.cha = q.address j) :
    t.transfer = { q.xfer j with data := t.getGR (q.reg j) } := by
  have hctl : t.sr.chc.extractLsb' 24 8 = q.ctl := by
    refine extractLsb'_eq_of_bitOf fun k hk => ?_
    rw [hc, q.bitOf_channel j (by omega), if_neg (by omega), if_neg (by omega), bitOf_of_extractLsb' hq.ctl hk]
  have hload : bitOf t.sr.chc 15 = q.load := by
    rw [hc, q.bitOf_channel j (by decide), if_neg (by decide), if_neg (by decide), hq.load]
  simp only [State.transfer, Sequence.targetRegister_eq hc, hctl, hload, ha, Sequence.xfer]

/-- After a transfer that others follow the channel registers describe the next one. -/
theorem Sequence.nextTransfer_sr (ha : t.sr.cha = q.address j) (hj : j < q.last) :
    t.nextTransfer.sr = { t.sr with cha := q.address (j + 1), chc := q.channel (j + 1) } := by
  have hcha : t.sr.cha + 4 = q.address (j + 1) := by
    rw [ha, Sequence.address, Sequence.address, BitVec.add_assoc]
    congr 1
    apply BitVec.eq_of_toNat_eq
    simp; omega
  have hcount : fieldOf t.sr.chc 16 8 - 1 = BitVec.ofNat 32 (q.last - (j + 1)) := by
    have h : (fieldOf t.sr.chc 16 8).toNat = q.last - j := Sequence.countRemaining_eq hc
    have hlt := q.last_lt
    apply BitVec.eq_of_toNat_eq
    rw [BitVec.toNat_sub, h]
    simp; omega
  have hchc : putField (putField t.sr.chc 16 8 (fieldOf t.sr.chc 16 8 - 1)) 2 8
      ((nextRegister t.targetRegister).setWidth 32) = q.channel (j + 1) := by
    apply eq_of_bitOf
    intro i hi
    rw [bitOf_putField _ _ _ _ _ (by decide), bitOf_putField _ _ _ _ _ (by decide), q.bitOf_channel (j + 1) hi, hcount,
      Sequence.targetRegister_eq hc, hc, q.bitOf_channel j hi]
    by_cases h2 : 2 ≤ i ∧ i < 10
    · simp [h2, bitOf, Sequence.reg, sequenceRegister]; omega
    · by_cases h16 : 16 ≤ i ∧ i < 24
      · simp [h2, h16, bitOf, BitVec.getLsbD_ofNat]; omega
      · simp [h2, h16]
  rw [State.nextTransfer, hcha, hchc]

end

end Sys2Proof.Machine

namespace Sys2Proof.Machine

/-! ### What the transfers of a sequence leave (44_data_movement.md R438) -/

/-- The channel registers, LRU and what is no part of the instruction set's state may differ. -/
structure State.ChannelOnly (s t : State) : Prop where
  regs : ∀ n, t.getGR n = s.getGR n
  memory : s.SameMemory t
  pc : t.pc = s.pc
  npc : t.npc = s.npc
  cps : t.cps = s.cps
  alu : t.alu = s.alu
  units : t.acc = s.acc ∧ t.tlb = s.tlb
  hz : t.hz = s.hz
  holes : t.holes = s.holes
  cur : t.cur = s.cur
  special : { t.sr with cha := s.sr.cha, chd := s.sr.chd, chc := s.sr.chc, lru := s.sr.lru } = s.sr

theorem State.startChannel_channelOnly (s : State) (x : Xfer) (m : Bool) : s.ChannelOnly (s.startChannel x m) where
  regs := s.startChannel_getGR x m
  memory := .of_eq (by simp) (by simp) (by simp)
  pc := by simp
  npc := by simp
  cps := by simp
  alu := by simp
  units := by simp
  hz := by simp
  holes := by simp
  cur := by simp
  special := by rw [s.startChannel_special]; split_ifs <;> rfl

theorem State.transferData_channelOnly (s : State) (x : Xfer) : s.ChannelOnly (s.transferData x) := by
  unfold State.transferData
  split <;> exact ⟨fun _ => rfl, .refl s, rfl, rfl, rfl, rfl, ⟨rfl, rfl⟩, rfl, rfl, rfl, rfl⟩

theorem State.tlbUsage_channelOnly (s : State) (l : Vector Bool 32) : s.ChannelOnly { s with tlbUsage := l } :=
  ⟨fun _ => rfl, .refl s, rfl, rfl, rfl, rfl, ⟨rfl, rfl⟩, rfl, rfl, rfl, rfl⟩

theorem State.nextTransfer_channelOnly (s : State) : s.ChannelOnly s.nextTransfer :=
  ⟨fun _ => rfl, .refl s, rfl, rfl, rfl, rfl, ⟨rfl, rfl⟩, rfl, rfl, rfl, rfl⟩

theorem State.bumpAccess_channelOnly (s : State) : s.ChannelOnly s.bumpAccess :=
  ⟨fun _ => rfl, .refl s, rfl, rfl, rfl, rfl, ⟨rfl, rfl⟩, rfl, rfl, rfl, rfl⟩

theorem State.LruOnly.channelOnly {s t : State} (h : s.LruOnly t) : s.ChannelOnly t := by
  rw [State.LruOnly] at h
  rw [h]
  exact ⟨fun _ => rfl, .refl s, rfl, rfl, rfl, rfl, ⟨rfl, rfl⟩, rfl, rfl, rfl, rfl⟩

theorem State.derrReply_channelOnly (s : State) (x : Xfer) : s.ChannelOnly (s.derrReply x) where
  regs := s.derrReply_getGR x
  memory := .of_eq (by simp) (by simp) (by simp)
  pc := by simp
  npc := by simp
  cps := by simp
  alu := by simp
  units := by simp
  hz := by simp
  holes := by simp
  cur := by simp
  special := by rw [s.derrReply_sr]; split_ifs <;> rfl

/-- CPS after the transfers of a sequence differs in CA only. -/
theorem Sequence.bitOf_status (q : Sequence) (c : Word) (m : Nat) {k : Nat} (h : k ≠ 15) :
    bitOf (q.status c m) k = bitOf c k := by
  unfold Sequence.status
  split
  · rw [bitOf_putBit _ _ _ _ (by decide), if_neg h]
  · rfl

theorem putBit_putBit (w : Word) (k : Nat) (a b : Bool) (hk : k < 32) : putBit (putBit w k a) k b = putBit w k b :=
  eq_of_bitOf fun i _ => by
    simp only [bitOf_putBit _ _ _ _ hk]
    split_ifs <;> rfl

/-- CPS after one more transfer. -/
theorem Sequence.status_succ (q : Sequence) {s t : State} {m : Nat} (h : t.cps = q.status s.cps m) :
    t.cpsAfter q.ctl q.load = q.status s.cps (m + 1) := by
  unfold State.cpsAfter Sequence.status at *
  rw [h]
  cases q.ctl.getLsbD 7 && q.ctl.getLsbD 5
  · rfl
  · simp only [Bool.true_and, decide_eq_true_eq, Nat.succ_pos, decide_true, if_true]
    split_ifs
    · exact putBit_putBit _ _ _ _ (by decide)
    · rfl

/-- The addresses of a sequence differ by words. -/
theorem Sequence.address_low (q : Sequence) (m : Nat) : q.address m &&& 3 = q.addr &&& 3 := by
  have hmod : ∀ w : Word, (w &&& 3).toNat = w.toNat % 4 := fun w => by
    rw [BitVec.toNat_and]; exact Nat.and_two_pow_sub_one_eq_mod w.toNat 2
  apply BitVec.eq_of_toNat_eq
  rw [hmod, hmod, Sequence.address]
  simp

/-- The Byte Pointer that an access at the same place in its word sets again. -/
theorem State.aluAfter_again {s t : State} {c : Byte} {a a' : Word} (h : t.alu = s.aluAfter c a false)
    (hc : t.sr.cfg = s.sr.cfg) (ha : a' &&& 3 = a &&& 3) : t.aluAfter c a' false = s.aluAfter c a false := by
  have habs : ∀ w v : Word, v &&& 3 = v → (w &&& 0xFFFFFF9F ||| v <<< 5) &&& 0xFFFFFF9F ||| v <<< 5 =
      w &&& 0xFFFFFF9F ||| v <<< 5 := by
    intro w v hv
    have hz : v <<< 5 &&& ((0xFFFFFF9F : Nat) : Word) = 0#32 := by
      rw [← hv, BitVec.shiftLeft_and_distrib, BitVec.and_assoc]
      exact BitVec.and_zero
    rw [BitVec.and_or_distrib_right, BitVec.and_assoc, BitVec.and_self, hz, BitVec.or_zero]
  unfold State.aluAfter at *
  rw [h, hc, ha]
  have hv := bytePointer_and (bitOf s.sr.cfg 5) (bitOf s.sr.cfg 2) a
  generalize (if bitOf s.sr.cfg 5 then (if bitOf s.sr.cfg 2 then 0 else 3) else a &&& 3 : Word) = v at hv ⊢
  split_ifs
  · exact habs s.alu v hv
  · rfl

/-- `m` transfers of a sequence are made, in an instruction that has not ended. -/
structure Sequence.Past (q : Sequence) (s t : State) (sp : Nat → Space) (p : Nat → Word) (m : Nat) : Prop where
  leaves : q.Leaves s t sp p m
  cps : t.cps = q.status s.cps m
  pc : t.pc = s.pc
  npc : t.npc = s.npc
  hz : t.hz = s.hz
  holes : t.holes = s.holes
  cur : t.cur = s.cur

section
variable {q : Sequence} {s t t' : State} {sp : Nat → Space} {p : Nat → Word} {m : Nat}

theorem Sequence.leaves_zero (q : Sequence) (s : State) (sp : Nat → Space) (p : Nat → Word) : q.Leaves s s sp p 0 where
  others := fun _ _ => rfl
  loaded := fun _ _ hj => absurd hj (Nat.not_lt_zero _)
  memory := fun _ => .refl s
  stored := fun _ => ⟨fun _ => s, rfl, .refl s, fun _ hj => absurd hj (Nat.not_lt_zero _)⟩
  alu := rfl
  units := ⟨rfl, rfl⟩
  special := rfl

theorem Sequence.Leaves.congr (h : q.Leaves s t sp p m) (hr : ∀ n, t'.getGR n = t.getGR n) (hm : t.SameMemory t')
    (ha : t'.alu = t.alu) (hu : t'.acc = t.acc ∧ t'.tlb = t.tlb)
    (hs : { t'.sr with cha := t.sr.cha, chd := t.sr.chd, chc := t.sr.chc, lru := t.sr.lru } = t.sr) :
    q.Leaves s t' sp p m where
  others := fun n hn => (hr n).trans (h.others n hn)
  loaded := fun hl j hj hk => by
    obtain ⟨w, hw, hv⟩ := h.loaded hl j hj hk
    exact ⟨w, hw, (hr _).trans hv⟩
  memory := fun hl => (h.memory hl).trans hm
  stored := fun hl => by
    obtain ⟨f, h0, hf, hj⟩ := h.stored hl
    exact ⟨f, h0, hf.trans hm, hj⟩
  alu := ha.trans h.alu
  units := ⟨hu.1.trans h.units.1, hu.2.trans h.units.2⟩
  special := (congrArg (fun r : SpecialRegs =>
    { r with cha := s.sr.cha, chd := s.sr.chd, chc := s.sr.chc, lru := s.sr.lru }) hs).trans h.special

theorem Sequence.past_zero (q : Sequence) (s : State) (sp : Nat → Space) (p : Nat → Word) : q.Past s s sp p 0 :=
  ⟨q.leaves_zero s sp p, by simp [Sequence.status], rfl, rfl, rfl, rfl, rfl⟩

theorem Sequence.Past.congr (h : q.Past s t sp p m) (k : t.ChannelOnly t') : q.Past s t' sp p m :=
  ⟨h.leaves.congr k.regs k.memory k.alu k.units k.special, k.cps.trans h.cps, k.pc.trans h.pc, k.npc.trans h.npc,
    k.hz.trans h.hz, k.holes.trans h.holes, k.cur.trans h.cur⟩

theorem Sequence.Leaves.cfg (h : q.Leaves s t sp p m) : t.sr.cfg = s.sr.cfg := (congrArg SpecialRegs.cfg h.special :)

theorem Sequence.Past.bits (h : q.Past s t sp p m) (k : Nat) (hk : k ≠ 15) : bitOf t.cps k = bitOf s.cps k := by
  rw [h.cps, q.bitOf_status _ _ hk]

/-- The transfers before do not change where a transfer goes. -/
theorem Sequence.Past.map (h : q.Past s t sp p m) : s.SameMap t :=
  have hs := h.leaves.special
  ⟨(congrArg SpecialRegs.rma0 hs :), (congrArg SpecialRegs.rmc0 hs :), (congrArg SpecialRegs.rma1 hs :),
    (congrArg SpecialRegs.rmc1 hs :), (congrArg SpecialRegs.mmu hs :), h.leaves.units.2, h.bits, congrArg Hazards.ps h.hz, h.holes⟩

theorem Sequence.Past.bankProtected (h : q.Past s t sp p m) (n : Byte) : t.bankProtected n = s.bankProtected n := by
  have hu : t.user = s.user := State.user_congr h.bits
  have hr : t.sr.rbp = s.sr.rbp := (congrArg SpecialRegs.rbp h.leaves.special :)
  rw [State.bankProtected, State.bankProtected, hu, hr]

/-- The value that a transfer of a store stores is the register's at the start. -/
theorem Sequence.Leaves.source (h : q.Leaves s t sp p m) (hl : q.load = false) (n : Byte) : t.getGR n = s.getGR n :=
  h.others n fun h => absurd (hl.symm.trans h) Bool.false_ne_true

/-- ALU.BP after one more transfer. -/
theorem Sequence.Leaves.alu_succ (h : q.Leaves s t sp p m) :
    t.aluAfter q.ctl (q.address m) false = s.aluAfter q.ctl q.addr false := by
  have ha := h.alu
  split_ifs at ha with hm
  · rw [hm, show q.address 0 = q.addr by simp [Sequence.address]]
    exact State.aluAfter_congr ha h.cfg ..
  · exact State.aluAfter_again ha h.cfg (q.address_low m)

/-- What a transfer that completes leaves as it was. -/
theorem Sequence.Past.after (h : q.Past s t sp p m) {x : Xfer} (hx : x.ctl = q.ctl) (hl : x.load = q.load)
    (k : t.Accessed t' x) (hleaves : q.Leaves s t' sp p (m + 1)) : q.Past s t' sp p (m + 1) :=
  ⟨hleaves, by rw [k.cps, hx, hl, q.status_succ h.cps], k.pc.trans h.pc, k.npc.trans h.npc, k.hz.trans h.hz,
    k.holes.trans h.holes, k.cur.trans h.cur⟩

/-- A load's transfer adds its register. -/
theorem Sequence.Leaves.load_succ (h : q.Leaves s t sp p m) (hl : q.load = true) {w : Word}
    (hw : t.Answers (sp m) (p m) w) (hr : t.RegsExcept t' [q.reg m])
    (hv : t'.getGR (q.reg m) = t.lanesRead q.ctl (q.address m) w) (hm : t.SameMemory t')
    (ha : t'.alu = t.aluAfter q.ctl (q.address m) false) (hu : t'.acc = t.acc ∧ t'.tlb = t.tlb) (hs : t'.sr = t.sr) :
    q.Leaves s t' sp p (m + 1) where
  others := fun n hn => by
    have hne : n ≠ q.reg m := (hn hl m m.lt_succ_self).symm
    exact (hr n (by simpa using hne)).trans (h.others n fun hl j hj => hn hl j (hj.trans m.lt_succ_self))
  loaded := fun _ j hj hlast => by
    rcases Nat.lt_succ_iff_lt_or_eq.mp hj with hj | rfl
    · obtain ⟨v, hv, he⟩ := h.loaded hl j hj fun k hk => hlast k (hk.trans m.lt_succ_self)
      have hne : q.reg j ≠ q.reg m := (hlast m m.lt_succ_self hj).symm
      exact ⟨v, hv, (hr _ (by simpa using hne)).trans he⟩
    · exact ⟨w, hw.congr (h.memory hl), by rw [hv]; simp only [State.lanesRead, h.cfg]⟩
  memory := fun _ => (h.memory hl).trans hm
  stored := fun hf => absurd (hl.symm.trans hf) (by decide)
  alu := by rw [ha, h.alu_succ, if_neg m.succ_ne_zero]
  units := ⟨hu.1.trans h.units.1, hu.2.trans h.units.2⟩
  special := by rw [hs]; exact h.special

/-- A store's transfer stores the register's value. -/
theorem Sequence.Leaves.store_succ (h : q.Leaves s t sp p m) (hl : q.load = false) (hr : t.RegsExcept t' [])
    (hm : t.LanesStored t' (sp m) q.ctl (p m) (s.getGR (q.reg m)))
    (ha : t'.alu = t.aluAfter q.ctl (q.address m) false) (hu : t'.acc = t.acc ∧ t'.tlb = t.tlb) (hs : t'.sr = t.sr) :
    q.Leaves s t' sp p (m + 1) where
  others := fun n _ => (hr n (by simp)).trans (h.source hl n)
  loaded := fun hf => absurd (hl.symm.trans hf) (by decide)
  memory := fun hf => absurd (hl.symm.trans hf) (by decide)
  stored := fun _ => by
    obtain ⟨f, h0, hf, hj⟩ := h.stored hl
    have hcfg : (f m).sr.cfg = s.sr.cfg := by
      cases m with
      | zero => rw [h0]
      | succ j => exact (hj j j.lt_succ_self).1
    refine ⟨Function.update f (m + 1) t', ?_, ?_, fun j hjm => ?_⟩
    · rw [Function.update_of_ne m.succ_ne_zero.symm, h0]
    · rw [Function.update_self]; exact .refl t'
    · rw [Function.update_of_ne (by omega : j ≠ m + 1)]
      rcases Nat.lt_succ_iff_lt_or_eq.mp hjm with hjm | rfl
      · rw [Function.update_of_ne (by omega : j + 1 ≠ m + 1)]
        exact hj j hjm
      · rw [Function.update_self, hs]
        exact ⟨h.cfg, hm.congr hf (.refl t') (hcfg.trans h.cfg.symm)⟩
  alu := by rw [ha, h.alu_succ, if_neg m.succ_ne_zero]
  units := ⟨hu.1.trans h.units.1, hu.2.trans h.units.2⟩
  special := by rw [hs]; exact h.special

end

end Sys2Proof.Machine

namespace Sys2Proof.Machine

/-! ### A sequence up to a transfer (44_data_movement.md R438) -/

/-- A sequence has made `m` transfers, none of them answered with DERR, and its channel registers describe the next. -/
structure Sequence.Reached (q : Sequence) (s t : State) (sp : Nat → Space) (p : Nat → Word) (m : Nat) : Prop where
  past : q.Past s t sp p m
  cha : t.sr.cha = q.address m
  chc : t.sr.chc = q.channel m
  lru : t.sr.lru = s.sr.lru
  accesses : t.accesses = s.accesses + m

/-- The check of the register of transfer `m`. -/
def transferCheck (m : Nat) : Bool → Byte → Option Fault := if m = 0 then startFault else sequenceFault

theorem Sequence.Usable.check {q : Sequence} {s : State} {m : Nat} (h : q.Usable s m) :
    transferCheck m q.load (q.reg m) = none := by
  obtain ⟨-, h | ⟨hl, rfl, hr⟩⟩ := h
  · unfold transferCheck
    split_ifs
    · unfold startFault; split_ifs
      · rfl
      · exact h
    · exact h
  · rw [transferCheck, if_pos rfl, startFault, hl, hr]; decide

/-- The registers that a sequence of loads may use. -/
theorem Sequence.Usable.loadRegister {q : Sequence} {s : State} {m : Nat} (h : q.Usable s m) (hl : q.load = true) :
    q.reg m = 1#8 ∨ 64 ≤ (q.reg m).toNat := by
  obtain ⟨-, h | ⟨hf, -⟩⟩ := h
  · unfold sequenceFault at h
    split at h
    · cases h
    · next hn =>
      split_ifs at h with h23
      have hne : q.reg m ≠ 3 ∧ q.reg m ≠ 2 := by simpa using h23
      rcases numberFault_none hn with h1 | h2 | h3 | h64
      · exact .inl h1
      · exact absurd h2 hne.2
      · exact absurd h3 hne.1
      · exact .inr h64
  · exact absurd (hl.symm.trans hf) (by decide)

theorem Sequence.unit_of_not_noUnit {q : Sequence} {s : State} (h : ¬ q.NoUnit s) : ctlCE q.ctl = true → s.cp = true :=
  fun hc => by
    by_contra hp
    exact h ⟨hc, Bool.not_eq_true _ ▸ hp⟩

/-- `x` is transfer `m` of a sequence, with the data of a store. -/
structure Sequence.Transfer (q : Sequence) (s : State) (m : Nat) (x : Xfer) : Prop where
  ctl : x.ctl = q.ctl
  load : x.load = q.load
  set : x.set = false
  reg : x.reg = q.reg m
  addr : x.addr = q.address m
  data : q.load = false → x.data = s.getGR (q.reg m)

theorem Sequence.Transfer.kind {q : Sequence} {s : State} {m : Nat} {x : Xfer} (h : q.Transfer s m x) :
    x.kind = (q.xfer m).kind := by
  rw [Xfer.kind, h.set, h.load]; rfl

section
variable {q : Sequence} {s t : State} {sp : Nat → Space} {p : Nat → Word} {m : Nat}

/-- A transfer that is found is made in a state that differs by its Usage bits. -/
theorem Sequence.Past.access_found {u : State} {x : Xfer} (h : q.Past s t sp p m) (hx : q.Transfer s m x)
    (hunit : ¬ q.NoUnit s) (hl : s.locate (q.xfer m) = .found (sp m) (p m) u) :
    ∃ w, t.access x = w.performAt x (sp m) (p m) ∧ q.Past s w sp p m ∧ w.sr = t.sr ∧ w.accesses = t.accesses := by
  obtain ⟨l, hacc, -⟩ := State.access_of_found (y := x) (by rw [hx.ctl]; exact Sequence.unit_of_not_noUnit hunit)
    h.map h.leaves.cfg hx.ctl hx.addr hx.kind hl
  exact ⟨_, hacc, h.congr (t.tlbUsage_channelOnly l), rfl, rfl⟩

/-- A transfer that is found and answered is made. -/
theorem Sequence.Reached.access_made {x : Xfer} (h : q.Reached s t sp p m) (hx : q.Transfer s m x) (hf : s.frozen = false)
    (hm : q.Made s (sp m) (p m) m) : ∃ t', t.access x = .done t' ∧ q.Past s t' sp p (m + 1) ∧ t'.sr = t.sr ∧
      t'.accesses = s.accesses + (m + 1) := by
  obtain ⟨husable, hunit, ⟨u, hl⟩, hd⟩ := hm
  obtain ⟨w, hacc, hpast, hsr, ha⟩ := h.past.access_found hx hunit hl
  have hderr : w.cur.derr ≠ some w.accesses := by rw [hpast.cur, ha, h.accesses]; exact hd
  have hfrozen : w.frozen = false := (State.frozen_congr hpast.bits).trans hf
  have hsp : sp m = .idmem → ctlCE x.ctl = false := fun e => by
    rw [e] at hl; rw [hx.ctl]; exact State.locate_found_memory (x := q.xfer m) hl
  have halu : ∀ {t' : State}, w.Accessed t' x → t'.alu = w.aluAfter q.ctl (q.address m) false := fun hall => by
    rw [hall.alu, hfrozen, hx.ctl, hx.addr]
  rw [hacc]
  cases hload : q.load with
  | true =>
    obtain ⟨t', a, hdone, hall, hw, hregs, hv, hmem⟩ := State.performAt_loads hderr (hx.load.trans hload)
      (fun e => absurd (hx.set.symm.trans e) (by decide)) hsp (hx.reg ▸ husable.loadRegister hload)
    rw [hx.reg] at hregs hv
    rw [hx.ctl, hx.addr] at hv
    rw [hx.set] at hmem
    exact ⟨t', hdone, hpast.after hx.ctl hx.load hall
      (hpast.leaves.load_succ hload hw hregs hv hmem (halu hall) ⟨hall.acc, hall.tlb⟩ hall.sr),
      hall.sr.trans hsr, by rw [hall.accesses hx.set, ha, h.accesses, Nat.add_assoc]⟩
  | false =>
    obtain ⟨t', hdone, hall, hregs, hst⟩ := State.performAt_stores hderr (hx.load.trans hload) hsp
    rw [hx.ctl, hx.data hload] at hst
    exact ⟨t', hdone, hpast.after hx.ctl hx.load hall
      (hpast.leaves.store_succ hload hregs hst (halu hall) ⟨hall.acc, hall.tlb⟩ hall.sr),
      hall.sr.trans hsr, by rw [hall.accesses hx.set, ha, h.accesses, Nat.add_assoc]⟩

variable (hq : q.Told) (h : q.Reached s t sp p m)
include hq h

/-- The channel registers tell the transfer. -/
theorem Sequence.Reached.transfer : q.Transfer s m t.transfer := by
  rw [hq.transfer_eq h.chc h.cha]
  exact ⟨rfl, rfl, rfl, rfl, rfl, fun hl => h.past.leaves.source hl _⟩

/-- CHD is ready for the transfer. -/
theorem Sequence.Reached.transferData : q.Reached s (t.transferData t.transfer) sp p m ∧
    (q.load = false → (t.transferData t.transfer).sr.chd = s.getGR (q.reg m)) := by
  refine ⟨⟨h.past.congr (t.transferData_channelOnly _), ?_, ?_, ?_, ?_⟩, fun hl => ?_⟩
  · rw [← h.cha]; unfold State.transferData; split <;> rfl
  · rw [← h.chc]; unfold State.transferData; split <;> rfl
  · rw [← h.lru]; unfold State.transferData; split <;> rfl
  · rw [← h.accesses]; unfold State.transferData; split <;> rfl
  · have hx := h.transfer hq
    rw [State.transferData, if_neg (by simp [hx.load, hl])]
    exact hx.data hl

/-- A transfer that others follow. -/
theorem Sequence.Reached.next (hf : s.frozen = false) (hm : q.Made s (sp m) (p m) m) (hlast : m < q.last) (n : Nat) :
    ∃ t', q.Reached s t' sp p (m + 1) ∧
      transferLoop (n + 1) (transferCheck m) t = transferLoop n (transferCheck (m + 1)) t' := by
  have hx := h.transfer hq
  obtain ⟨hready, -⟩ := h.transferData hq
  obtain ⟨t', hdone, hpast, hsr, ha⟩ := hready.access_made hx hf hm
  have hcha : t'.sr.cha = q.address m := by rw [hsr]; exact hready.cha
  have hchc : t'.sr.chc = q.channel m := by rw [hsr]; exact hready.chc
  have hnext := Sequence.nextTransfer_sr hchc hcha hlast
  refine ⟨t'.nextTransfer, ⟨hpast.congr t'.nextTransfer_channelOnly, by rw [hnext], by rw [hnext], ?_, ha⟩, ?_⟩
  · rw [hnext]; exact (congrArg SpecialRegs.lru hsr).trans hready.lru
  · rw [show transferCheck (m + 1) = sequenceFault from if_neg m.succ_ne_zero]
    refine transferLoop_next ?_ ?_ hdone ?_
    · rw [Sequence.targetRegister_eq h.chc, h.past.bankProtected]; exact hm.1.1
    · rw [hx.load, hx.reg]; exact hm.1.check
    · rw [Sequence.countRemaining_eq hchc]; omega

end

/-- The transfers before transfer `m` are made one after another. -/
theorem Sequence.reach {q : Sequence} {s t : State} {sp : Nat → Space} {p : Nat → Word} (hq : q.Told)
    (h : q.Reached s t sp p 0) (hf : s.frozen = false) {m : Nat} (hlast : m ≤ q.last)
    (hm : ∀ j < m, q.Made s (sp j) (p j) j) : ∃ t', q.Reached s t' sp p m ∧
      transferLoop (q.last + 1) startFault t = transferLoop (q.last - m + 1) (transferCheck m) t' := by
  induction m with
  | zero => exact ⟨t, h, rfl⟩
  | succ m ih =>
    obtain ⟨t₁, h₁, e₁⟩ := ih (by omega) fun j hj => hm j (hj.trans m.lt_succ_self)
    obtain ⟨t₂, h₂, e₂⟩ := h₁.next hq hf (hm m m.lt_succ_self) hlast (q.last - m)
    exact ⟨t₂, h₂, by rw [e₁, e₂, show q.last - (m + 1) + 1 = q.last - m by omega]⟩

end Sys2Proof.Machine

namespace Sys2Proof.Machine

/-! ### The vectors of the traps of an access -/

/-- Not a trap of the vector of a Protection Violation, 5. -/
def Located.NotProtection : Located → Prop
  | .trap vn _ => vn ≠ 5
  | _ => True

theorem State.place_notProtection (s : State) (sp : Space) (p : Word) : (s.place sp p).NotProtection := by
  unfold State.place
  split <;> exact trivial

theorem State.memoryPlace_notProtection (s : State) (c : Byte) (a p : Word) : (s.memoryPlace c a p).NotProtection := by
  unfold State.memoryPlace
  split
  · exact show (1#8) ≠ 5 by decide
  · exact s.place_notProtection (memSpace c) p

theorem State.afterTranslation_notProtection (s : State) (x : Xfer) (r : Translated) :
    (s.afterTranslation x r).NotProtection := by
  have hmiss : (if s.user then 9#8 else 11) ≠ 5 := by split <;> decide
  cases r with
  | ok p io t =>
    cases io
    · exact t.memoryPlace_notProtection x.ctl x.addr p
    · exact t.place_notProtection .io p
  | miss t => exact hmiss
  | violation t => exact show (13#8) ≠ 5 by decide
  | fault f => exact trivial

/-- Finding the place of an access gives no Protection Violation. -/
theorem State.locate_notProtection (s : State) (x : Xfer) : (s.locate x).NotProtection := by
  cases hce : ctlCE x.ctl with
  | true => rw [State.locate_coprocessor hce]; exact s.place_notProtection .cop x.addr
  | false =>
    by_cases ht : s.dataTranslated x.ctl = true
    · cases hps : s.hz.ps with
      | true => rw [State.locate_hazard hce ht hps]; exact trivial
      | false => rw [State.locate_translated hce ht hps]; exact s.afterTranslation_notProtection x _
    · rw [State.locate_untranslated hce ht]
      split
      · exact s.place_notProtection .io x.addr
      · exact s.memoryPlace_notProtection x.ctl x.addr x.addr

/-! ### How a sequence ends early (R438) -/

section
variable {q : Sequence} {s t : State} {sp : Nat → Space} {p : Nat → Word} {m n : Nat} (hq : q.Told)
  (h : q.Reached s t sp p m)
include h

theorem Sequence.Reached.stands : q.StandsAt s t sp p m := ⟨h.past.leaves, h.cha, h.chc⟩

/-- A protected register stops a sequence. -/
theorem Sequence.Reached.protected (hb : s.bankProtected (q.reg m) = true) :
    transferLoop (n + 1) (transferCheck m) t = .trap 5 t :=
  transferLoop_protected (by rw [Sequence.targetRegister_eq h.chc, h.past.bankProtected]; exact hb)

include hq

/-- A transfer that is not made ends a sequence. -/
theorem Sequence.Reached.ends (hu : q.Usable s m) (hne : ∀ t', (t.transferData t.transfer).access t.transfer ≠ .done t') :
    transferLoop (n + 1) (transferCheck m) t = (t.transferData t.transfer).access t.transfer := by
  have hx := h.transfer hq
  refine transferLoop_ends ?_ ?_ hne
  · rw [Sequence.targetRegister_eq h.chc, h.past.bankProtected]; exact hu.1
  · rw [hx.load, hx.reg]; exact hu.check

/-- What a transfer that traps leaves. -/
theorem Sequence.Reached.traps {vn : Byte} (ht : q.Traps s vn m) :
    vn ≠ 5 ∧ ∃ w, transferLoop (n + 1) (transferCheck m) t = .trap vn w ∧ q.Past s w sp p m ∧ q.StandsAt s w sp p m ∧
      (q.load = false → w.sr.chd = s.getGR (q.reg m)) := by
  have hx := h.transfer hq
  obtain ⟨hready, hchd⟩ := h.transferData hq
  obtain ⟨hu, ⟨⟨hce, hcp⟩, rfl⟩ | ⟨hunit, u, hl⟩⟩ := ht
  · have hacc : (t.transferData t.transfer).access t.transfer = .trap 3 (t.transferData t.transfer) := by
      refine State.access_noUnit ?_ ?_
      · rw [hx.ctl]; exact hce
      · rw [State.cp, hready.past.leaves.cfg]; exact hcp
    exact ⟨by decide, _, (h.ends hq hu fun t' e => by cases hacc.symm.trans e).trans hacc, hready.past, hready.stands, hchd⟩
  · obtain ⟨w, hacc, -, hlru⟩ := State.access_of_trap (y := t.transfer)
      (by rw [hx.ctl]; exact Sequence.unit_of_not_noUnit hunit) hready.past.map hready.past.leaves.cfg hx.ctl hx.addr
      hx.kind hl
    have hpast := hready.past.congr hlru.channelOnly
    have hsr : w.sr = { (t.transferData t.transfer).sr with lru := w.sr.lru } := congrArg State.sr hlru
    refine ⟨by have h5 := s.locate_notProtection (q.xfer m); rw [hl] at h5; exact h5, w, (h.ends hq hu fun t' e => by cases hacc.symm.trans e).trans hacc, hpast,
      ⟨hpast.leaves, ?_, ?_⟩, fun hf => ?_⟩
    · rw [hsr]; exact hready.cha
    · rw [hsr]; exact hready.chc
    · rw [hsr]; exact hchd hf

/-- What a transfer answered with DERR leaves. -/
theorem Sequence.Reached.fails (hf : s.frozen = false) (ht : q.Fails s m) :
    ∃ w, transferLoop (n + 1) (transferCheck m) t = .derr w ∧ q.Past s w sp p m ∧ w.sr.cha = q.address m ∧
      w.sr.chc = q.channel m ||| 0x400 ∧ (q.load = false → w.sr.chd = s.getGR (q.reg m)) ∧ w.sr.lru = s.sr.lru ∧
      w.derrEvent = some (if q.ctl.getLsbD 7 then 4 else 7) := by
  have hx := h.transfer hq
  obtain ⟨hready, hchd⟩ := h.transferData hq
  obtain ⟨hu, hunit, u, hl⟩ := ht
  have hl' : (∃ sp p, s.locate (q.xfer m) = .found sp p u) ∧
      (t.transferData t.transfer).cur.derr = some (t.transferData t.transfer).accesses ∨
      s.locate (q.xfer m) = .absent u := by
    rw [hready.past.cur, hready.accesses]
    rcases hl with hl | ⟨sp, p, hl, hd⟩
    · exact .inr hl
    · exact .inl ⟨⟨sp, p, hl⟩, hd⟩
  obtain ⟨l, hacc⟩ := State.access_fails (y := t.transfer) (by rw [hx.ctl]; exact Sequence.unit_of_not_noUnit hunit)
    hready.past.map hready.past.leaves.cfg hx.ctl hx.addr hx.kind hl'
  have hends := (h.ends (n := n) hq hu fun t' e => by cases hacc.symm.trans e).trans hacc
  generalize hv : ({ t.transferData t.transfer with tlbUsage := l } : State).bumpAccess = v at hends
  have hpast : q.Past s v sp p m := by
    rw [← hv]; exact (hready.past.congr (State.tlbUsage_channelOnly _ l)).congr (State.bumpAccess_channelOnly _)
  have hsr : v.sr = (t.transferData t.transfer).sr := by rw [← hv]; rfl
  have hreply : (v.derrReply t.transfer).sr = { (t.transferData t.transfer).sr with
      chc := (t.transferData t.transfer).sr.chc ||| 0x400 } := by
    rw [v.derrReply_sr, if_neg (by rw [State.frozen_congr hpast.bits, hf]; decide), hsr]
  refine ⟨_, hends, hpast.congr (v.derrReply_channelOnly _), ?_, ?_, fun hl => ?_, ?_, ?_⟩
  · rw [hreply]; exact hready.cha
  · rw [hreply]; exact congrArg (· ||| 0x400) hready.chc
  · rw [hreply]; exact hchd hl
  · rw [hreply]; exact hready.lru
  · rw [v.derrReply_derrEvent, hx.ctl]

end

end Sys2Proof.Machine

namespace Sys2Proof.Machine

/-! ### LOADM and STOREM that end early (R438) -/

theorem exec_loadm (ctl ra : Byte) (b : Opnd) (s : State) : exec (.loadm ctl ra b) s =
    finish (Instr.loadm ctl ra b).opcode
      (s.guarded (s.accessProtected ctl) (usesLoad ra b) (s.multiple (s.loadXfer ctl ra b false false))) := rfl

theorem exec_storem (ctl ra : Byte) (b : Opnd) (s : State) : exec (.storem ctl ra b) s =
    finish (Instr.storem ctl ra b).opcode
      (s.guarded (s.accessProtected ctl) (usesStore ra b) (s.multiple (s.storeXfer ctl ra b false))) := rfl

theorem State.multipleFault_none {s : State} {c : Byte} (hf : s.frozen = false) (hm : s.hz.multiple = false)
    (hc : c.getLsbD 7 = false → c &&& 7 ≠ 1 ∧ c &&& 7 ≠ 2) : s.multipleFault c = none := by
  have h1 : ctlOPT c = 1 ↔ c &&& 7 = 1 := ctlOPT_iff c 1
  have h2 : ctlOPT c = 2 ↔ c &&& 7 = 2 := ctlOPT_iff c 2
  have hnarrow : (!ctlCE c && (ctlOPT c = 1 || ctlOPT c = 2)) = false := by
    cases hce : c.getLsbD 7 with
    | true => simp [ctlCE, hce]
    | false => simpa [h1, h2] using fun _ => hc hce
  rw [State.multipleFault, hf, hm, hnarrow]; rfl

/-- The channel registers when a sequence starts. -/
theorem State.startedSequence_reached {s : State} {ctl ra : Byte} {b : Opnd} {load : Bool} {x : Xfer}
    (hx : (s.startedSequence ctl ra b load).Transfer s 0 x) (hlock : x.lock = false) (hf : s.frozen = false)
    (sp : Nat → Space) (p : Nat → Word) :
    (s.startedSequence ctl ra b load).Reached s (s.startChannel x true) sp p 0 := by
  have hsr := s.startChannel_special x true
  rw [if_neg (by simp [hf])] at hsr
  refine ⟨(Sequence.past_zero _ s sp p).congr (s.startChannel_channelOnly x true), ?_, ?_, ?_, by simp⟩
  · rw [hsr]; exact hx.addr
  · rw [hsr, (s.startedSequence_told ctl ra b load).channel_zero]
    show startChc s.sr.chc x true = _
    rw [startChc_eq, hx.ctl, hx.load, hx.set, hx.reg, hlock]; rfl
  · rw [hsr]

section
variable {i : Instr} {us : List RegUse} {s : State} {ctl ra : Byte} {b : Opnd} {load : Bool} {x : Xfer}
  {sp : Nat → Space} {p : Nat → Word} {m : Nat}
  (he : exec i s = finish i.opcode (s.guarded (s.accessProtected ctl) us (s.multiple x)))
  (hx : (s.startedSequence ctl ra b load).Transfer s 0 x) (hlock : x.lock = false)
  (hreg : s.regStop (s.accessProtected ctl) us = none) (hf : s.frozen = false) (hmul : s.hz.multiple = false)
  (hctl : ctl.getLsbD 7 = false → ctl &&& 7 ≠ 1 ∧ ctl &&& 7 ≠ 2)
  (hlast : m ≤ (s.startedSequence ctl ra b load).last)
  (hm : ∀ j < m, (s.startedSequence ctl ra b load).Made s (sp j) (p j) j)
include he hx hlock hreg hf hmul hctl hlast hm

/-- A sequence makes its transfers up to one, and ends as its rest does. -/
theorem exec_sequence : ∃ t n, (s.startedSequence ctl ra b load).Reached s t sp p m ∧
    exec i s = finish i.opcode (transferLoop (n + 1) (transferCheck m) t).toDoneMultiple := by
  have hstart := s.startedSequence_reached hx hlock hf sp p
  obtain ⟨t, ht, hloop⟩ := Sequence.reach (s.startedSequence_told ctl ra b load) hstart hf hlast hm
  have hnone : s.multipleFault x.ctl = none := by rw [hx.ctl]; exact State.multipleFault_none hf hmul hctl
  refine ⟨t, (s.startedSequence ctl ra b load).last - m, ht, ?_⟩
  rw [he, State.guarded_none _ hreg, State.multiple, hnone, State.runSequence, Sequence.countRemaining_eq hstart.chc,
    ← hloop]
  rfl

/-- How a sequence ends early. -/
theorem exec_sequence_ends :
    let q := s.startedSequence ctl ra b load
    let stops (vn : Byte) (k : TrapKind) : Prop :=
      ∃ w, exec i s = w.takeInstTrap i.opcode vn k ∧ w.pc = s.pc ∧ w.npc = s.npc ∧ w.cps = q.status s.cps m ∧
        q.StandsAt s w sp p m ∧ (vn ≠ 5 → q.load = false → w.sr.chd = s.getGR (q.reg m))
    (q.Fails s m → ∃ t, exec i s = .next t ∧ t.pc = s.npc ∧ t.npc = s.npc + 4 ∧
      t.cps = s.withTrace (q.status s.cps m) ∧ q.FailedAt s t sp p m) ∧
    (∀ vn, q.Traps s vn m → stops vn .next) ∧ (s.bankProtected (q.reg m) = true → stops 5 .curr) := by
  intro q stops
  obtain ⟨t, n, ht, hexec⟩ := exec_sequence he hx hlock hreg hf hmul hctl hlast hm
  have hq : q.Told := s.startedSequence_told ctl ra b load
  refine ⟨fun hfail => ?_, fun vn htrap => ?_, fun hb => ?_⟩
  · obtain ⟨w, hend, hpast, hcha, hchc, hchd, hlru, hevent⟩ := ht.fails (n := n) hq hf hfail
    rw [hend] at hexec
    refine ⟨_, hexec, ?_, ?_, ?_, ⟨hpast.leaves.congr ?_ ?_ ?_ ?_ ?_, hcha, hchc, hchd, hlru, hevent, rfl⟩⟩
    · exact hpast.npc
    · exact congrArg (· + 4) hpast.npc
    · exact (State.tracedCps_of_bits hpast.bits).trans (congrArg s.withTrace hpast.cps)
    · exact fun k => rfl
    · exact .of_eq rfl rfl rfl
    · rfl
    · exact ⟨rfl, rfl⟩
    · rfl
  · obtain ⟨hne, w, hend, hpast, hstands, hchd⟩ := ht.traps (n := n) hq htrap
    rw [hend, AccessEnd.toDoneMultiple, if_neg hne] at hexec
    exact ⟨w, hexec, hpast.pc, hpast.npc, hpast.cps, hstands, fun _ => hchd⟩
  · rw [ht.protected hb] at hexec
    exact ⟨t, hexec, ht.past.pc, ht.past.npc, ht.past.cps, ht.stands, fun h5 => absurd rfl h5⟩

end

/-- Settles O27: the single accesses answered with DERR or without a coprocessor, the write of a LOADSET, and the
sequences by the transfers they have made. -/
theorem accessErrors : Obligations.AccessErrors := by
  intro ctl ra b s u sp p addr reg v due tells ends sequence
  refine ⟨fun hml => ⟨fun hreg => ?_, fun hreg => ?_, fun hreg => ?_, fun hreg => ?_, fun hreg => ?_,
    fun hreg hcp hl hd => ?_⟩, ?_, ?_⟩
  · exact exec_single_errors (x := s.loadXfer ctl ra b false false) (exec_load ctl ra b s) hreg hml
  · exact exec_single_errors (x := s.loadXfer ctl ra b false true) (exec_loadl ctl ra b s) hreg hml
  · exact exec_single_errors (x := s.loadXfer ctl ra b true false) (exec_loadset ctl ra b s) hreg hml
  · exact exec_single_errors (x := s.storeXfer ctl ra b false) (exec_store ctl ra b s) hreg hml
  · exact exec_single_errors (x := s.storeXfer ctl ra b true) (exec_storel ctl ra b s) hreg hml
  · exact exec_loadset_fails (x := s.loadXfer ctl ra b true false) (exec_loadset ctl ra b s) hreg hml hcp hl rfl rfl
      (State.loadRegister_of_regStop hreg) hd
  · intro hreg hf hmul hctl sp p m hlast hm
    have hx : (s.startedSequence ctl ra b true).Transfer s 0 (s.loadXfer ctl ra b false false) :=
      ⟨rfl, rfl, rfl, rfl, by simp [State.loadXfer, State.startedSequence, Sequence.address], nofun⟩
    exact exec_sequence_ends (exec_loadm ctl ra b s) hx rfl hreg hf hmul hctl hlast hm
  · intro hreg hf hmul hctl sp p m hlast hm
    have hx : (s.startedSequence ctl ra b false).Transfer s 0 (s.storeXfer ctl ra b false) :=
      ⟨rfl, rfl, rfl, rfl, by simp [State.storeXfer, State.startedSequence, Sequence.address], fun _ => rfl⟩
    exact exec_sequence_ends (exec_storem ctl ra b s) hx rfl hreg hf hmul hctl hlast hm

end Sys2Proof.Machine

namespace Sys2Proof

/-! ### Decoding an encoded instruction (30_encoding.md R231 to R235) -/

/-- Formats with a 16-bit constant, split over bits 23-16 and 7-0. -/
theorem decode_wordOf_constant {op a : Byte} {mk : BitVec 16 → Instr}
    (h : ∀ c b, decodeFields op.toNat c a b = some (mk (c ++ b))) (i : BitVec 16) :
    decode (wordOf op (hi8 i) a (lo8 i)) = .ok (mk i) := by
  have hi := decode_wordOf (h (hi8 i) (lo8 i))
  rwa [hi8_append_lo8] at hi

/-- Settles O45, by format: an operand has two operation codes, by its M bit; a 16-bit constant is put together again; a
jump or call has two operation codes, by its A bit; the other formats have byte fields only. -/
theorem decodeOfEncode : Obligations.DecodeOfEncode := by
  intro i
  cases i with
  | add _ _ b | addc _ _ b | addcs _ _ b | addcu _ _ b | adds _ _ b | addu _ _ b
  | sub _ _ b | subc _ _ b | subcs _ _ b | subcu _ _ b | subs _ _ b | subu _ _ b
  | subr _ _ b | subrc _ _ b | subrcs _ _ b | subrcu _ _ b | subrs _ _ b | subru _ _ b
  | mul _ _ b | mull _ _ b | mulu _ _ b | div0 _ b | div _ _ b | divl _ _ b | divrem _ _ b
  | cpeq _ _ b | cpneq _ _ b | cplt _ _ b | cpltu _ _ b | cple _ _ b | cpleu _ _ b
  | cpgt _ _ b | cpgtu _ _ b | cpge _ _ b | cpgeu _ _ b | cpbyte _ _ b
  | aseq _ _ b | asneq _ _ b | aslt _ _ b | asltu _ _ b | asle _ _ b | asleu _ _ b
  | asgt _ _ b | asgtu _ _ b | asge _ _ b | asgeu _ _ b
  | and _ _ b | andn _ _ b | nand _ _ b | nor _ _ b | or _ _ b | orn _ _ b | xnor _ _ b | xor _ _ b
  | sll _ _ b | srl _ _ b | sra _ _ b | extract _ _ b
  | load _ _ b | loadl _ _ b | loadset _ _ b | loadm _ _ b | store _ _ b | storel _ _ b | storem _ _ b
  | exbyte _ _ b | exhw _ _ b | inbyte _ _ b | inhw _ _ b | clz _ b =>
    cases b <;> exact decode_wordOf rfl
  | mtsrim _ i | const _ i | consth _ i | consthz _ i | constn _ i =>
    exact decode_wordOf_constant (fun _ _ => rfl) i
  | call abs _ i | jmp abs i | jmpf abs _ i | jmpfdec abs _ i | jmpt abs _ i =>
    cases abs <;> exact decode_wordOf_constant (fun _ _ => rfl) i
  | _ => exact decode_wordOf rfl

/-- Settles O48: each word is the encoding of its instruction. -/
theorem encodedWords : Obligations.EncodedWords :=
  ⟨decodeOfEncode (.add 0x82 0x81 (.imm 5)), decodeOfEncode (.const 0x41 0x0142),
    decodeOfEncode (.call false 0x80 0x0103), decodeOfEncode (.load 0 0x81 (.reg 0x82)),
    decodeOfEncode (.fadd 0x80 0x81 0x82), decodeOfEncode .iret⟩

/-! ### What the operation code decides (30_encoding.md R244 to R246) -/

/-- The instruction that an operation code selects is encoded with it: row by row of the table. -/
theorem toNat_opcode_of_decodeFields {op : Nat} {c a b : Byte} {i : Instr} (h : decodeFields op c a b = some i) :
    i.opcode.toNat = op := by
  unfold decodeFields decodeBlock0 decodeBlock1 decodeBlock2 decodeBlock3 at h
  split_ifs at h
  all_goals split at h <;> cases h <;> exact congrArg BitVec.toNat (opField_wordOf _ _ _ _)

/-- The operation codes of R245. -/
def illegalCodes : List Nat :=
  [0x00, 0x76, 0x77, 0x7F, 0x84, 0x85, 0x8A, 0x8B, 0x8D, 0x8E, 0x8F, 0xA2, 0xA3, 0xA6, 0xA7, 0xAE, 0xAF, 0xB0, 0xB1,
   0xB2, 0xB3, 0xB7, 0xB8, 0xB9, 0xBA, 0xBB, 0xBC, 0xBD, 0xC1, 0xC2, 0xC3, 0xC5, 0xC7, 0xC9, 0xCA, 0xCB, 0xCD]

/-- The operation codes of R246, with their vectors. -/
def reservedCodes : List (Nat × Nat) :=
  [(0xBF, 28), (0xCF, 28), (0xD0, 28), (0xD1, 28), (0xD2, 28), (0xD3, 28), (0xD4, 28), (0xD5, 28), (0xD6, 28),
   (0xDC, 28), (0xDD, 29), (0xE7, 39), (0xF8, 56), (0xFA, 58), (0xFB, 59), (0xFC, 60), (0xFD, 61), (0xFE, 62),
   (0xFF, 63)]

/-- A code that selects no instruction and has no emulation vector is one of R245, whatever the fields are: the 256
codes, one by one (the fields stay variables, so `decide` cannot be used). -/
theorem unselected_iff_illegal (c a b : Byte) : ∀ op : Byte,
    (decodeFields op.toNat c a b).isNone ∧ (emulationVector op.toNat).isNone ↔ op.toNat ∈ illegalCodes :=
  of_decide_eq_true rfl

/-- A code with an emulation vector selects no instruction: the 256 codes, one by one. -/
theorem unselected_of_emulationVector (c a b : Byte) : ∀ op : Byte,
    (emulationVector op.toNat).isSome → (decodeFields op.toNat c a b).isNone :=
  of_decide_eq_true rfl

theorem emulationVector_reservedCodes : ∀ p ∈ reservedCodes, (emulationVector p.1).map BitVec.toNat = some p.2 := by
  decide

theorem emulationVector_eq_some_iff {op : Nat} {vn : Byte} :
    emulationVector op = some vn ↔ (op, vn.toNat) ∈ reservedCodes := by
  constructor
  · intro h
    unfold emulationVector at h
    split at h <;> cases h <;> decide
  · intro h
    exact Option.map_injective (fun _ _ => BitVec.eq_of_toNat_eq) (emulationVector_reservedCodes _ h)

/-! What `decode` answers, in terms of the two tables. -/

theorem decode_eq_ok_iff {w : Word} {i : Instr} :
    decode w = .ok i ↔ decodeFields (opField w).toNat (cField w) (aField w) (bField w) = some i := by
  unfold decode
  split
  · simp [*]
  · split <;> simp [*]

theorem decode_eq_illegalOpcode_iff {w : Word} {op : Byte} :
    decode w = .error (.illegalOpcode op) ↔ op = opField w ∧ op.toNat ∈ illegalCodes := by
  have table := unselected_iff_illegal (cField w) (aField w) (bField w) (opField w)
  have answer : decode w = .error (.illegalOpcode op) ↔ op = opField w ∧
      (decodeFields (opField w).toNat (cField w) (aField w) (bField w)).isNone ∧
      (emulationVector (opField w).toNat).isNone := by
    unfold decode
    split
    · simp [*]
    · split <;> simp [*, eq_comm]
  rw [answer, table]
  exact and_congr_right fun h => by rw [h]

theorem decode_eq_reservedForEmulation_iff {w : Word} {op vn : Byte} :
    decode w = .error (.reservedForEmulation op vn) ↔ op = opField w ∧ (op.toNat, vn.toNat) ∈ reservedCodes := by
  have unselected := unselected_of_emulationVector (cField w) (aField w) (bField w) (opField w)
  have answer : decode w = .error (.reservedForEmulation op vn) ↔ op = opField w ∧
      emulationVector (opField w).toNat = some vn := by
    unfold decode
    split
    case h_1 hi =>
      have hv : emulationVector (opField w).toNat = none := by simpa [hi] using unselected
      simp [hv]
    case h_2 => split <;> simp [*, eq_comm]
  rw [answer, emulationVector_eq_some_iff]
  exact and_congr_right fun h => by rw [h]

/-- Settles O46: the answer of `decode` read off the two tables, the operation codes gone through once for each. -/
theorem operationCodesDecide : Obligations.OperationCodesDecide :=
  ⟨fun _ _ h => BitVec.eq_of_toNat_eq (toNat_opcode_of_decodeFields (decode_eq_ok_iff.mp h)),
    fun _ _ => decode_eq_illegalOpcode_iff, fun _ _ _ => decode_eq_reservedForEmulation_iff⟩

end Sys2Proof

namespace Sys2Proof.Machine

/-! ### Sums (40_integer_arithmetic.md R301) -/

/-- A sum tells of `x + y + k`: the word, its overflow and its carry-out. -/
structure Sum.Tells (z : Sum) (x y : Word) (k : Nat) : Prop where
  word : z.r = sumWord x y k
  overflow : z.v = true ↔ signedOver x y k
  carry : z.cout = true ↔ carryOut x y k

theorem addCore_tells (x y : Word) (k : Bool) : (addCore x y k).Tells x y (if k then 1 else 0) := by
  obtain ⟨-, hc, hv⟩ := addCore_spec x y k
  refine ⟨rfl, hv.trans ?_, hc⟩
  cases k <;> rfl

theorem addOf_tells (x y : Word) : (addOf x y).Tells x y 0 := addCore_tells x y false

theorem subOf_tells (x y : Word) : (subOf x y).Tells x (~~~y) 1 := addCore_tells x (~~~y) true

theorem bitOf_31_eq (w : Word) : bitOf w 31 = decide (w.toInt < 0) := by
  rw [← BitVec.msb_eq_toInt]; rfl

/-- The sign of the word of a sum, corrected for overflow, is the sign of the exact sum (R330). -/
theorem Sum.Tells.sign_iff {z : Sum} {x y : Word} {k : Nat} (h : z.Tells x y k) (hk : k ≤ 1) :
    (bitOf z.r 31 != z.v) = true ↔ x.toInt + y.toInt + k < 0 := by
  have hword : z.r.toInt = (x.toInt + y.toInt + k).bmod (2 ^ 32) := by
    rw [h.word, sumWord, ← BitVec.toInt_ofInt]
    congr 1
    rw [BitVec.ofInt_add, BitVec.ofInt_add, BitVec.ofInt_toInt, BitVec.ofInt_toInt, BitVec.ofNat_add, BitVec.ofNat_add,
      BitVec.ofNat_toNat, BitVec.ofNat_toNat, BitVec.setWidth_eq, BitVec.setWidth_eq, BitVec.ofInt_natCast]
  have hx := x.toInt_lt; have hx' := x.le_toInt; have hy := y.toInt_lt; have hy' := y.le_toInt
  have hv := h.overflow
  unfold signedOver at hv
  rw [bitOf_31_eq, bne_iff_ne, Ne, Bool.eq_iff_iff, decide_eq_true_iff, hv, hword, Int.bmod_def]
  omega

/-! ### When the Out of Range trap is taken (R303) -/

/-- A test of a sum decides a condition on its overflow and its carry-out. -/
def Decides (trap : Sum → Bool) (bad : Prop → Prop → Prop) : Prop :=
  ∀ (z : Sum) (v c : Prop), (z.v = true ↔ v) → (z.cout = true ↔ c) → (trap z = true ↔ bad v c)

theorem neverTraps_decides : Decides neverTraps fun _ _ => False := fun _ _ _ _ _ => by simp [neverTraps]

theorem signedOverflow_decides : Decides signedOverflow fun v _ => v := fun _ _ _ hv _ => hv

theorem unsignedOverflow_decides : Decides unsignedOverflow fun _ c => c := fun _ _ _ _ hc => hc

theorem unsignedUnderflow_decides : Decides unsignedUnderflow fun _ c => ¬ c := fun z _ _ _ hc => by
  simp [unsignedUnderflow, ← hc]

/-! ### The flags (R301, R302) -/

/-- The word with V, N, Z and C replaced. -/
def putVNZC (w : Word) (v n z c : Bool) : Word := putBit (putBit (putBit (putBit w 10 v) 9 n) 8 z) 7 c

theorem State.setVNZC_alu (s : State) (x : Sum) (w : Word) :
    (s.setVNZC x w).alu = if s.frozen then s.alu else putVNZC s.alu x.v (bitOf x.r 31) (w == 0) x.cout := by
  unfold State.setVNZC; split_ifs <;> rfl

theorem bitOf_putVNZC (w : Word) (v n z c : Bool) (j : Nat) : bitOf (putVNZC w v n z c) j =
    if j = 7 then c else if j = 8 then z else if j = 9 then n else if j = 10 then v else bitOf w j := by
  simp [putVNZC, bitOf_putBit]

theorem bitOf_zeroWord (k : Nat) : bitOf 0 k = false := BitVec.getLsbD_zero

/-- A mask without V, N, Z and C does not see them. -/
theorem putVNZC_and {m : Word} (w : Word) (v n z c : Bool) (h : m &&& 0x780 = 0) : putVNZC w v n z c &&& m = w &&& m := by
  have hm : ∀ k, bitOf 0x780 k = true → bitOf m k = false := fun k hk => by
    have := congrArg (bitOf · k) h
    simpa only [bitOf_and, hk, Bool.and_true] using this.trans (bitOf_zeroWord k)
  unfold putVNZC
  rw [putBit_and _ _ _ _ (by decide) (hm 7 (by decide)), putBit_and _ _ _ _ (by decide) (hm 8 (by decide)),
    putBit_and _ _ _ _ (by decide) (hm 9 (by decide)), putBit_and _ _ _ _ (by decide) (hm 10 (by decide))]

/-- Flags set from a sum that tells of `x + y + k` are those of R301. -/
theorem Sum.Tells.flagsAre {z : Sum} {x y : Word} {k : Nat} (h : z.Tells x y k) {s t : State}
    (ht : t.alu = if s.frozen then s.alu else putVNZC s.alu z.v (bitOf z.r 31) (z.r == 0) z.cout) :
    s.FlagsAre t (signedOver x y k) (bitOf (sumWord x y k) 31 = true) (sumWord x y k = 0#32) (carryOut x y k) := by
  unfold State.FlagsAre
  split_ifs at ht ⊢
  · exact ht
  · rw [ht, ← h.word, ← h.overflow, ← h.carry]
    exact ⟨putVNZC_and _ _ _ _ _ (by decide), by simp [bitOf_putVNZC], by simp [bitOf_putVNZC], by simp [bitOf_putVNZC],
      by simp [bitOf_putVNZC]⟩

/-! ### Instructions that complete -/

/-- A state reached by an instruction that leaves `npc` and CPS falls through when the instruction completes. -/
theorem State.fallsThrough_seq {s u : State} (hn : u.npc = s.npc) (hc : u.cps = s.cps) :
    s.FallsThrough (Done.seq u).advance :=
  ⟨by simp [hn], by simp [hn], by rw [Done.advance_seq_cps]; exact State.tracedCps_of hc⟩

/-- An instruction that nothing stops, and whose rule goes on to the next one, completes. -/
theorem completes_of {i : Instr} {us : List RegUse} {s u : State} {P : State → Prop}
    (he : exec i s = finish i.opcode (s.guarded false us (.ok (.seq u)))) (hr : s.regStop false us = none)
    (hn : u.npc = s.npc) (hc : u.cps = s.cps) (hP : P (Done.seq u).advance) : Completes i s P :=
  ⟨_, by rw [he, State.guarded_none _ hr, finish_ok], State.fallsThrough_seq hn hc, hP⟩

/-- What an instruction leaves that writes a register and besides only special registers and flags. -/
theorem State.putGR_advance {s u : State} {c : WriteClass} {n : Byte} {v : Word} (hn : numberFault n = none)
    (hg : ∀ m, u.getGR m = (s.putGR c n v).getGR m) (hd : u.idmem = s.idmem) (hr : u.irom = s.irom)
    (hi : u.imem = s.imem) (ha : u.acc = s.acc) (ht : u.tlb = s.tlb) (hu : u.tlbUsage = s.tlbUsage) :
    s.ResultIn (Done.seq u).advance n v ∧ s.RegsExcept (Done.seq u).advance (touched n) ∧
      s.SameMemory (Done.seq u).advance ∧ s.SameUnits (Done.seq u).advance := by
  obtain ⟨hres, hregs⟩ := s.putGR_result c v hn
  have hga : ∀ m, (Done.seq u).advance.getGR m = (s.putGR c n v).getGR m := hg
  refine ⟨?_, fun m hm => (hga m).trans (hregs m hm), State.SameMemory.of_eq hd hr hi, ha, ht, hu⟩
  unfold State.ResultIn at hres ⊢
  simpa only [hga] using hres

theorem State.setDest_frozen (s : State) (c : WriteClass) (rc : Byte) (v : Word) :
    (s.setDest c rc v).frozen = s.frozen := State.frozen_congr fun _ _ => by rw [State.setDest_cps]

/-! ### Add and subtract (R300 to R303) -/

theorem State.afterSum_alu (s : State) (c : WriteClass) (rc : Byte) (z : Sum) : (s.afterSum c rc z).alu =
    if s.frozen then s.alu else putVNZC s.alu z.v (bitOf z.r 31) (z.r == 0) z.cout := by
  rw [State.afterSum, State.setVNZC_alu, State.setDest_frozen, State.setDest_alu]

/-- What an add or subtract leaves. -/
theorem Sum.Tells.added {z : Sum} {x y : Word} {k : Nat} (h : z.Tells x y k) {s : State} {c : WriteClass} {rc : Byte}
    (hn : numberFault (s.absReg .c rc) = none) : s.Added (s.afterSum c rc z) rc x y k := by
  refine ⟨?_, h.flagsAre (s.afterSum_alu c rc z)⟩
  rw [← h.word]
  exact State.writes_of (c := c) hn (fun m => State.setVNZC_getGR ..) (by simp) (by simp) (by simp) (by simp) (by simp)
    (by simp) (by simp)

/-- Completing changes nothing that `Added` speaks of. -/
theorem State.Added.advance {s u : State} {rc : Byte} {x y : Word} {k : Nat} (h : s.Added u rc x y k) :
    s.Added (Done.seq u).advance rc x y k :=
  ⟨⟨h.1.result, h.1.others, h.1.memory, h.1.special, h.1.units⟩, h.2⟩

theorem dst_mem_usesRRM (c : WriteClass) (rc ra : Byte) (b : Opnd) : (⟨.c, rc, .dst c⟩ : RegUse) ∈ usesRRM c rc ra b := by
  simp [usesRRM]

section
variable {i : Instr} {c : WriteClass} {rc ra : Byte} {b : Opnd} {s : State} {z : Sum} {x y : Word} {k : Nat}
  {trap : Sum → Bool} {bad : Prop → Prop → Prop}

theorem addCompletes_of (h : z.Tells x y k) (ht : Decides trap bad)
    (he : exec i s = finish i.opcode (s.guarded false (usesRRM c rc ra b)
      (if trap z then .error (.trap 2 .next (s.afterSum c rc z)) else .ok (.seq (s.afterSum c rc z))))) :
    AddCompletes i c rc ra b s x y k bad := by
  intro hr hbad
  rw [if_neg (mt (ht _ _ _ h.overflow h.carry).1 hbad)] at he
  exact completes_of he hr (by simp) (by simp) (h.added (State.dst_of_regStop hr (dst_mem_usesRRM c rc ra b))).advance

theorem addTraps_of (h : z.Tells x y k) (ht : Decides trap bad)
    (he : exec i s = finish i.opcode (s.guarded false (usesRRM .alu rc ra b)
      (if trap z then .error (.trap 2 .next (s.afterSum .alu rc z)) else .ok (.seq (s.afterSum .alu rc z))))) :
    AddTraps i rc ra b s x y k bad := by
  intro hr hbad
  rw [if_pos ((ht _ _ _ h.overflow h.carry).2 hbad), State.guarded_none _ hr, finish_trap] at he
  exact ⟨_, he, h.added (State.dst_of_regStop hr (dst_mem_usesRRM .alu rc ra b)), by simp, by simp, by simp⟩

end

/-- An instruction encoded by `Opnd.op` has the operation codes that its M bit selects (30_encoding.md R237). -/
theorem hasCode_of {i : Instr} {op : Byte} {b : Opnd} (h : i.opcode = b.op op) (he : op ||| 1 = op + 1 := by decide) :
    HasCode i op b := by
  cases b with
  | reg r => exact h
  | imm n => exact h.trans he

theorem opcode_wordOf {i : Instr} {op c a b : Byte} (h : encode i = wordOf op c a b) : i.opcode = op := by
  rw [Instr.opcode, h, opField_wordOf]

/-- Settles O1: each form is `addSub` with a sum that tells of its operands and a test that decides its condition. -/
theorem addAndSubtractComplete : Obligations.AddAndSubtractComplete := by
  intro rc ra b s x y k never signed carry borrow
  have never' : Decides neverTraps never := neverTraps_decides
  have signed' : Decides signedOverflow signed := signedOverflow_decides
  have carry' : Decides unsignedOverflow carry := unsignedOverflow_decides
  have borrow' : Decides unsignedUnderflow borrow := unsignedUnderflow_decides
  have addC := addCore_tells x y s.carry
  have subC := addCore_tells x (~~~y) s.carry
  have subrC := addCore_tells y (~~~x) s.carry
  exact ⟨addCompletes_of (addOf_tells x y) never' rfl, addCompletes_of addC never' rfl,
    addCompletes_of (addOf_tells x y) signed' rfl, addCompletes_of addC signed' rfl,
    addCompletes_of (addOf_tells x y) carry' rfl, addCompletes_of addC carry' rfl,
    addCompletes_of (subOf_tells x y) never' rfl, addCompletes_of subC never' rfl,
    addCompletes_of (subOf_tells x y) signed' rfl, addCompletes_of subC signed' rfl,
    addCompletes_of (subOf_tells x y) borrow' rfl, addCompletes_of subC borrow' rfl,
    addCompletes_of (subOf_tells y x) never' rfl, addCompletes_of subrC never' rfl,
    addCompletes_of (subOf_tells y x) signed' rfl, addCompletes_of subrC signed' rfl,
    addCompletes_of (subOf_tells y x) borrow' rfl, addCompletes_of subrC borrow' rfl,
    hasCode_of (opcode_wordOf rfl), hasCode_of (opcode_wordOf rfl), hasCode_of (opcode_wordOf rfl),
    hasCode_of (opcode_wordOf rfl), hasCode_of (opcode_wordOf rfl), hasCode_of (opcode_wordOf rfl)⟩

/-- Settles O2: the same forms, with the condition of the trap met. -/
theorem outOfRangeTraps : Obligations.OutOfRangeTraps := by
  intro rc ra b s x y k signed carry borrow
  have signed' : Decides signedOverflow signed := signedOverflow_decides
  have carry' : Decides unsignedOverflow carry := unsignedOverflow_decides
  have borrow' : Decides unsignedUnderflow borrow := unsignedUnderflow_decides
  have addC := addCore_tells x y s.carry
  have subC := addCore_tells x (~~~y) s.carry
  have subrC := addCore_tells y (~~~x) s.carry
  exact ⟨addTraps_of (addOf_tells x y) signed' rfl, addTraps_of addC signed' rfl,
    addTraps_of (addOf_tells x y) carry' rfl, addTraps_of addC carry' rfl,
    addTraps_of (subOf_tells x y) signed' rfl, addTraps_of subC signed' rfl,
    addTraps_of (subOf_tells x y) borrow' rfl, addTraps_of subC borrow' rfl,
    addTraps_of (subOf_tells y x) signed' rfl, addTraps_of subrC signed' rfl,
    addTraps_of (subOf_tells y x) borrow' rfl, addTraps_of subrC borrow' rfl⟩

end Sys2Proof.Machine

namespace Sys2Proof.Machine

/-! ### The multiply and divide steps (40_integer_arithmetic.md R305, R330 to R336) -/

theorem putBit_bitOf (w : Word) {k : Nat} (h : k < 32) : putBit w k (bitOf w k) = w := by
  refine eq_of_bitOf fun j _ => ?_
  rw [bitOf_putBit _ _ _ _ h]
  split_ifs with hj
  · rw [hj]
  · rfl

theorem State.setDF_alu (s : State) (d : Bool) : (s.setDF d).alu = if s.frozen then s.alu else putBit s.alu 11 d := by
  unfold State.setDF; split_ifs <;> rfl

theorem State.setDF_divideFlag (s : State) : s.setDF s.divideFlag = s := by
  unfold State.setDF State.divideFlag
  rw [putBit_bitOf _ (by decide), ite_self]

theorem State.afterStep_getGR (s : State) (rc : Byte) (z : Sum) (w q : Word) (n : Byte) :
    (s.afterStep rc z w q).getGR n = (s.setDest .alu rc w).getGR n := by
  rw [State.afterStep, State.setVNZC_getGR]; rfl

theorem State.afterStep_sr (s : State) (rc : Byte) (z : Sum) (w q : Word) :
    (s.afterStep rc z w q).sr = { s.sr with q := q } := by
  simp [State.afterStep]

theorem State.afterStep_frozen (s : State) (rc : Byte) (z : Sum) (w q : Word) :
    (s.afterStep rc z w q).frozen = s.frozen := State.frozen_congr fun _ _ => by simp [State.afterStep]

theorem State.afterStep_alu (s : State) (rc : Byte) (z : Sum) (w q : Word) : (s.afterStep rc z w q).alu =
    if s.frozen then s.alu else putVNZC s.alu z.v (bitOf z.r 31) (w == 0) z.cout := by
  have hf : ({ s.setDest .alu rc w with sr := { (s.setDest .alu rc w).sr with q := q } } : State).frozen = s.frozen :=
    s.setDest_frozen .alu rc w
  rw [State.afterStep, State.setVNZC_alu, hf]
  simp

theorem State.afterStep_divideFlag (s : State) (rc : Byte) (z : Sum) (w q : Word) :
    (s.afterStep rc z w q).divideFlag = s.divideFlag := by
  rw [State.divideFlag, State.afterStep_alu]
  split_ifs
  · rfl
  · simp [bitOf_putVNZC, State.divideFlag]

/-- What a multiply or divide step leaves: a step that says nothing of the Divide Flag keeps it. -/
def State.stepped (s : State) (rc : Byte) (z : Sum) (w q : Word) (d : Bool) : State :=
  (s.afterStep rc z w q).setDF d

theorem State.stepped_divideFlag (s : State) (rc : Byte) (z : Sum) (w q : Word) :
    s.stepped rc z w q s.divideFlag = s.afterStep rc z w q := by
  rw [← s.afterStep_divideFlag rc z w q, State.stepped, State.setDF_divideFlag]

/-- An add is the step that keeps Q and writes the sum. -/
theorem State.stepped_sum (s : State) (rc : Byte) (z : Sum) :
    s.stepped rc z z.r s.sr.q s.divideFlag = s.afterSum .alu rc z := by
  have hq : ({ (s.setDest .alu rc z.r).sr with q := s.sr.q } : SpecialRegs) = (s.setDest .alu rc z.r).sr := by
    rw [State.setDest_sr]
  rw [State.stepped_divideFlag, State.afterStep, hq]; rfl

theorem State.stepped_alu (s : State) (rc : Byte) (z : Sum) (w q : Word) (d : Bool) : (s.stepped rc z w q d).alu =
    if s.frozen then s.alu else putBit (putVNZC s.alu z.v (bitOf z.r 31) (w == 0) z.cout) 11 d := by
  rw [State.stepped, State.setDF_alu, State.afterStep_frozen, State.afterStep_alu]
  split_ifs <;> rfl

@[simp] theorem State.stepped_npc (s : State) (rc : Byte) (z : Sum) (w q : Word) (d : Bool) :
    (s.stepped rc z w q d).npc = s.npc := by simp [State.stepped, State.afterStep]
@[simp] theorem State.stepped_cps (s : State) (rc : Byte) (z : Sum) (w q : Word) (d : Bool) :
    (s.stepped rc z w q d).cps = s.cps := by simp [State.stepped, State.afterStep]
@[simp] theorem State.stepped_idmem (s : State) (rc : Byte) (z : Sum) (w q : Word) (d : Bool) :
    (s.stepped rc z w q d).idmem = s.idmem := by simp [State.stepped, State.afterStep]
@[simp] theorem State.stepped_irom (s : State) (rc : Byte) (z : Sum) (w q : Word) (d : Bool) :
    (s.stepped rc z w q d).irom = s.irom := by simp [State.stepped, State.afterStep]
@[simp] theorem State.stepped_imem (s : State) (rc : Byte) (z : Sum) (w q : Word) (d : Bool) :
    (s.stepped rc z w q d).imem = s.imem := by simp [State.stepped, State.afterStep]
@[simp] theorem State.stepped_acc (s : State) (rc : Byte) (z : Sum) (w q : Word) (d : Bool) :
    (s.stepped rc z w q d).acc = s.acc := by simp [State.stepped, State.afterStep]
@[simp] theorem State.stepped_tlb (s : State) (rc : Byte) (z : Sum) (w q : Word) (d : Bool) :
    (s.stepped rc z w q d).tlb = s.tlb := by simp [State.stepped, State.afterStep]
@[simp] theorem State.stepped_tlbUsage (s : State) (rc : Byte) (z : Sum) (w q : Word) (d : Bool) :
    (s.stepped rc z w q d).tlbUsage = s.tlbUsage := by simp [State.stepped, State.afterStep]

theorem State.stepped_getGR (s : State) (rc : Byte) (z : Sum) (w q : Word) (d : Bool) (n : Byte) :
    (s.stepped rc z w q d).getGR n = (s.setDest .alu rc w).getGR n :=
  (State.setDF_getGR ..).trans (s.afterStep_getGR ..)

theorem State.stepped_sr (s : State) (rc : Byte) (z : Sum) (w q : Word) (d : Bool) :
    (s.stepped rc z w q d).sr = { s.sr with q := q } := (State.setDF_sr ..).trans (s.afterStep_sr ..)

section
variable {i : Instr} {us : List RegUse} {rc ra : Byte} {b : Opnd} {s : State} {z : Sum} {w q x y : Word} {d f : Bool}
  {k : Nat} {v c : Prop}

/-- A multiply or divide step completes with the word and the Q that its rule gives, V and C of its sum. -/
theorem stepCompletes_of (hv : z.v = true ↔ v) (hc : z.cout = true ↔ c) (hm : (⟨.c, rc, .dst .alu⟩ : RegUse) ∈ us)
    (he : exec i s = finish i.opcode (s.guarded false us (.ok (.seq (s.stepped rc z w q d))))) :
    StepCompletes i us rc s v c d z.r w q := by
  intro hr
  obtain ⟨hres, hregs, hmem, hunits⟩ := State.putGR_advance (State.dst_of_regStop hr hm)
    (s.stepped_getGR rc z w q d) (by simp) (by simp) (by simp) (by simp) (by simp) (by simp)
  refine completes_of he hr (by simp) (by simp) ⟨hres, hregs, hmem, hunits, ?_, ?_, ?_⟩
  · rw [Done.advance_seq_sr, State.stepped_sr]
  · rw [State.SameSpecialButQ, Done.advance_seq_sr, State.stepped_sr]
  · rw [Done.advance_seq_alu, State.stepped_alu]
    split_ifs
    · rfl
    · rw [putBit_and _ _ _ _ (by decide) (by decide), putVNZC_and _ _ _ _ _ (by decide), ← hv, ← hc]
      simp [bitOf_putBit, bitOf_putVNZC]

theorem boolBit_bitOf_shiftLeft (r : Word) : boolBit (bitOf r 0) <<< 31 = r <<< 31 := by
  have low : (boolBit (bitOf r 0)).getLsbD 0 = r.getLsbD 0 := by
    change _ = bitOf r 0
    cases bitOf r 0 <;> rfl
  refine BitVec.eq_of_getLsbD_eq fun i hi => ?_
  rw [BitVec.getLsbD_shiftLeft, BitVec.getLsbD_shiftLeft]
  rcases Nat.lt_or_ge i 31 with h | h
  · simp [h]
  · rw [show i - 31 = 0 by omega, low]

/-- A multiply step completes: the vacated bit is filled as `f` decides, bit 0 of the sum enters Q (R330 to R332). -/
theorem multiplyStep_completes (h : z.Tells x y k) {p : Prop} [Decidable p] (hf : f = true ↔ p)
    (he : exec i s = multiplyStep i rc ra b z f s) :
    StepCompletes i (usesRRM .alu rc ra b) rc s (signedOver x y k) (carryOut x y k) s.divideFlag (sumWord x y k)
      ((if p then 0x80000000#32 else 0#32) ||| (sumWord x y k >>> 1))
      ((sumWord x y k <<< 31) ||| (s.sr.q >>> 1)) := by
  have hw : shiftIn f z.r = (if p then 0x80000000#32 else 0#32) ||| (z.r >>> 1) := by
    rw [shiftIn, ← if_congr hf rfl rfl]
    cases f <;> rfl
  have hq : shiftIn (bitOf z.r 0) s.sr.q = (z.r <<< 31) ||| (s.sr.q >>> 1) := by
    rw [shiftIn, boolBit_bitOf_shiftLeft]
  rw [multiplyStep, hw, hq, ← State.stepped_divideFlag] at he
  rw [← h.word]
  exact stepCompletes_of h.overflow h.carry (dst_mem_usesRRM .alu rc ra b) he

end

/-- The true sign of a difference (R331). -/
theorem Sum.Tells.sign_sub_iff {z : Sum} {x y : Word} (h : z.Tells x (~~~y) 1) :
    (bitOf z.r 31 != z.v) = true ↔ x.toInt - y.toInt < 0 := by
  have hy : (~~~y).toInt = -y.toInt - 1 := by
    have hlt := y.toInt_lt; have hle := y.le_toInt
    rw [BitVec.toInt_not, BitVec.toInt_eq_toNat_bmod, Int.bmod_def, Int.bmod_def]
    omega
  rw [h.sign_iff le_rfl, hy]
  omega

/-- Settles O3: each step is `multiplyStep` of a sum, whose vacated bit is the true sign or the carry. -/
theorem multiplyStepsComplete : Obligations.MultiplyStepsComplete := by
  intro rc ra b s m p us q top r l
  have add : (addOf m p).Tells m p 0 := addOf_tells m p
  have sub : (subOf p m).Tells p (~~~m) 1 := subOf_tells p m
  have sign : (bitOf (addOf m p).r 31 != (addOf m p).v) = true ↔ m.toInt + p.toInt < 0 := by
    simpa using add.sign_iff (Nat.zero_le 1)
  exact ⟨multiplyStep_completes add sign rfl, multiplyStep_completes sub sub.sign_sub_iff rfl,
    multiplyStep_completes add add.carry rfl⟩

/-! ### The divide steps -/

/-- The sum of a divide step adds or subtracts by the Divide Flag (R334). -/
theorem State.divideSum_tells (s : State) (ra : Byte) (b : Opnd) :
    (s.divideSum ra b).Tells (s.src .a ra) (if s.divideFlag then ~~~s.opnd b else s.opnd b)
      (if s.divideFlag then 1 else 0) := by
  unfold State.divideSum
  cases s.divideFlag
  · exact addOf_tells _ _
  · exact subOf_tells _ _

/-- What DIVREM adds: SRCB, or nothing if the Divide Flag is set; then V and C are 0 (D21). -/
theorem remainder_tells (x y : Word) (d : Bool) :
    (addOf x (if d then 0 else y)).r = (if d then x else sumWord x y 0) ∧
      ((addOf x (if d then 0 else y)).v = true ↔ ¬ d = true ∧ signedOver x y 0) ∧
      ((addOf x (if d then 0 else y)).cout = true ↔ ¬ d = true ∧ carryOut x y 0) := by
  cases d
  · have h := addOf_tells x y
    exact ⟨h.word, h.overflow.trans (by simp), h.carry.trans (by simp)⟩
  · have h := addOf_tells x 0
    have hx := x.isLt; have hlt := x.toInt_lt; have hle := x.le_toInt
    have hover : ¬ signedOver x 0 0 := by
      rw [signedOver, show (0 : Word).toInt = 0 from rfl]; omega
    have hcarry : ¬ carryOut x 0 0 := by
      rw [carryOut, show (0 : Word).toNat = 0 from rfl]; omega
    exact ⟨h.word.trans (by simp [sumWord]), h.overflow.trans (iff_of_false hover fun hd => hd.1 rfl),
      h.carry.trans (iff_of_false hcarry fun hd => hd.1 rfl)⟩

/-- Settles O4: each step is `State.stepped`, of the sum that the Divide Flag selects; DIVREM is the step that keeps Q. -/
theorem divideStepsComplete : Obligations.DivideStepsComplete := by
  intro rc ra b s x y d q0 z k r rem c hc f fw
  have sum : (s.divideSum ra b).Tells x z k := s.divideSum_tells ra b
  have hcout : (s.divideSum ra b).cout = c := Bool.eq_iff_iff.2 (sum.carry.trans hc.symm)
  have hbit : s.divideBit (s.divideSum ra b) = f := by
    rw [State.divideBit, hcout, ← Bool.xor_assoc]; rfl
  have hword : (s.divideSum ra b).r = r := sum.word
  refine ⟨?_, ?_, ?_, ?_⟩
  · exact stepCompletes_of (z := ⟨y, false, false⟩) (by simp) (by simp) (by simp) rfl
  · rw [← hword]
    exact stepCompletes_of sum.overflow sum.carry (dst_mem_usesRRM ..) (by simp only [fw, ← hbit]; rfl)
  · rw [← hword]
    exact stepCompletes_of sum.overflow sum.carry (dst_mem_usesRRM ..) (by simp only [fw, ← hbit]; rfl)
  · obtain ⟨hw, hv, hcy⟩ := remainder_tells x y d
    have := stepCompletes_of hv hcy (dst_mem_usesRRM .alu rc ra b)
      (show exec (.divrem rc ra b) s = finish _ (s.guarded false _ (.ok (.seq (s.stepped rc _ _ s.sr.q s.divideFlag)))) by
        rw [State.stepped_sum]; rfl)
    rwa [hw] at this

end Sys2Proof.Machine

namespace Sys2Proof.Machine

/-! ### Products (40_integer_arithmetic.md R340 to R343) -/

/-- The word at bit 32 of a product is the product divided by 2^32, the word at bit 0 the product modulo 2^32. -/
theorem extractLsb'_ofInt (n : Int) : (BitVec.ofInt 64 n).extractLsb' 0 32 = BitVec.ofInt 32 n ∧
    (BitVec.ofInt 64 n).extractLsb' 32 32 = BitVec.ofInt 32 (n / 2 ^ 32) := by
  constructor <;> apply BitVec.eq_of_toNat_eq <;>
    simp only [BitVec.extractLsb'_toNat, BitVec.toNat_ofInt, Nat.shiftRight_eq_div_pow] <;> omega

theorem extractLsb'_ofNat (n : Nat) : (BitVec.ofNat 64 n).extractLsb' 0 32 = BitVec.ofNat 32 n ∧
    (BitVec.ofNat 64 n).extractLsb' 32 32 = BitVec.ofNat 32 (n / 2 ^ 32) := by
  constructor <;> apply BitVec.eq_of_toNat_eq <;>
    simp only [BitVec.extractLsb'_toNat, BitVec.toNat_ofNat, Nat.shiftRight_eq_div_pow] <;> omega

theorem signedProduct_eq (x y : Word) : signedProduct x y = BitVec.ofInt 64 (x.toInt * y.toInt) :=
  (BitVec.ofInt_mul x.toInt y.toInt).symm

theorem unsignedProduct_eq (x y : Word) : unsignedProduct x y = BitVec.ofNat 64 (x.toNat * y.toNat) := by
  rw [BitVec.ofNat_mul, BitVec.ofNat_toNat, BitVec.ofNat_toNat]; rfl

/-- A signed product differs from its low word, sign-extended, when it does not fit a word (R340). -/
theorem signedProduct_ne_iff (x y : Word) :
    signedProduct x y ≠ (BitVec.ofInt 32 (x.toInt * y.toInt)).signExtend 64 ↔
      ¬ (-2 ^ 31 ≤ x.toInt * y.toInt ∧ x.toInt * y.toInt < 2 ^ 31) := by
  have hle : x.toInt * y.toInt ≤ 2 ^ 62 := BitVec.toInt_mul_toInt_le
  have hge : -2 ^ 62 ≤ x.toInt * y.toInt := BitVec.le_toInt_mul_toInt
  rw [signedProduct_eq, Ne, ← BitVec.toInt_inj, BitVec.toInt_signExtend_of_le (by decide), BitVec.toInt_ofInt,
    BitVec.toInt_ofInt, Int.bmod_def, Int.bmod_def]
  omega

/-- An unsigned product has a high word other than 0 when it does not fit a word (R341). -/
theorem unsignedProduct_high_iff (x y : Word) :
    (unsignedProduct x y).extractLsb' 32 32 ≠ 0#32 ↔ 2 ^ 32 ≤ x.toNat * y.toNat := by
  have hlt : x.toNat * y.toNat < 2 ^ 32 * 2 ^ 32 := Nat.mul_lt_mul'' x.isLt y.isLt
  rw [unsignedProduct_eq, (extractLsb'_ofNat _).2, Ne, ← BitVec.toNat_inj, BitVec.toNat_ofNat, BitVec.toNat_ofNat]
  omega

/-! ### The MULTIPLY class (R304) -/

theorem dst_mem_usesMultiply (rc ra rb : Byte) : (⟨.c, rc, .dst .fpu⟩ : RegUse) ∈ usesMultiply rc ra rb := by
  simp [usesMultiply]

theorem State.loseQ_getGR (s : State) (n : Byte) : s.loseQ.getGR n = s.getGR n :=
  State.getGR_congr (by simp) (by simp) (by simp) (by simp) n

theorem State.loseQ_sr (s : State) : s.loseQ.sr = { s.sr with q := Config.freeWord s.fresh } := rfl

section
variable {i : Instr} {rc ra rb : Byte} {s : State} {v : Word} {o : Bool}

/-- A product that raises no trap goes to DEST; of Q nothing is said. -/
theorem multiplyClass_completes (ho : o = false) (he : exec i s = multiplyClass i rc ra rb v o s)
    (hr : s.regStop false (usesMultiply rc ra rb) = none) : Completes i s fun t =>
      s.ResultIn t (s.absReg .c rc) v ∧ s.RegsExcept t (touched (s.absReg .c rc)) ∧ s.SameMemory t ∧ s.SameUnits t ∧
        s.SameSpecialButQ t ∧ t.alu = s.alu := by
  rw [multiplyClass, ho, if_neg Bool.false_ne_true] at he
  obtain ⟨hres, hregs, hmem, hunits⟩ := State.putGR_advance
    (State.dst_of_regStop hr (dst_mem_usesMultiply rc ra rb)) (s.setDest .fpu rc v).loseQ_getGR (by simp) (by simp)
    (by simp) (by simp) (by simp) (by simp)
  exact completes_of he hr (by simp) (by simp)
    ⟨hres, hregs, hmem, hunits, by simp [State.SameSpecialButQ, State.loseQ_sr], by simp⟩

/-- A product that does not fit raises Out of Range, with DEST unchanged and the indirect pointers set (R304 (f)). -/
theorem multiplyClass_traps (ho : o = true) (he : exec i s = multiplyClass i rc ra rb v o s)
    (hr : s.regStop false (usesMultiply rc ra rb) = none) :
    ∃ u, exec i s = u.takeInstTrap i.opcode 2 .next ∧ s.SameGeneral u ∧ u.alu = s.alu ∧ u.pc = s.pc ∧ u.npc = s.npc ∧
      u.cps = s.cps ∧ u.sr.ipc = pointerWord (s.absReg .c rc) ∧ u.sr.ipa = pointerWord (s.absReg .a ra) ∧
      u.sr.ipb = pointerWord (s.absReg .b rb) := by
  rw [multiplyClass, if_pos ho, State.guarded_none _ hr, finish_trap] at he
  exact ⟨_, he, State.sameGeneral_of rfl rfl rfl rfl rfl rfl rfl rfl rfl rfl, rfl, rfl, rfl, rfl, rfl, rfl, rfl⟩

end

/-- The overflow test of MULTIPLY (R340). -/
theorem multiply_overflow_iff (s : State) (x y : Word) :
    (!s.multiplyMask && signedProduct x y != ((signedProduct x y).extractLsb' 0 32).signExtend 64) = true ↔
      bitOf s.sr.inte 0 = false ∧ ¬ (-2 ^ 31 ≤ x.toInt * y.toInt ∧ x.toInt * y.toInt < 2 ^ 31) := by
  rw [Bool.and_eq_true, bne_iff_ne, ← signedProduct_ne_iff, signedProduct_eq, (extractLsb'_ofInt _).1,
    Bool.not_eq_true']
  rfl

/-- The overflow test of MULTIPLU (R341). -/
theorem multiplu_overflow_iff (s : State) (x y : Word) :
    (!s.multiplyMask && (unsignedProduct x y).extractLsb' 32 32 != 0#32) = true ↔
      bitOf s.sr.inte 0 = false ∧ 2 ^ 32 ≤ x.toNat * y.toNat := by
  rw [Bool.and_eq_true, bne_iff_ne, unsignedProduct_high_iff, Bool.not_eq_true']
  rfl

/-- Settles O5: the words of the exact products, where the overflow test does not hold. -/
theorem multiplyClassCompletes : Obligations.MultiplyClassCompletes := by
  intro rc ra rb s x y done
  have signed := extractLsb'_ofInt (x.toInt * y.toInt)
  have unsigned := extractLsb'_ofNat (x.toNat * y.toNat)
  rw [← signedProduct_eq] at signed
  rw [← unsignedProduct_eq] at unsigned
  obtain ⟨slow, shigh⟩ := signed
  obtain ⟨ulow, uhigh⟩ := unsigned
  refine ⟨fun h => ?_, fun h => ?_, ?_, ?_⟩
  · rw [← slow]
    exact multiplyClass_completes (Bool.eq_false_iff.2 (mt (multiply_overflow_iff s x y).1 (by
      rintro ⟨hmo, hn⟩; exact h.elim (ne_true_of_eq_false hmo) hn))) rfl
  · rw [← ulow]
    exact multiplyClass_completes (Bool.eq_false_iff.2 (mt (multiplu_overflow_iff s x y).1 (by
      rintro ⟨hmo, hn⟩; exact h.elim (ne_true_of_eq_false hmo) (Nat.not_lt.2 hn)))) rfl
  · rw [← shigh]
    exact multiplyClass_completes rfl rfl
  · rw [← uhigh]
    exact multiplyClass_completes rfl rfl

/-- Settles O6: with INTE.MO = 0 the overflow tests hold of the products that do not fit. -/
theorem multiplyTraps : Obligations.MultiplyTraps := by
  intro rc ra rb s x y traps hmo
  exact ⟨fun h => multiplyClass_traps ((multiply_overflow_iff s x y).2 ⟨hmo, h⟩) rfl,
    fun h => multiplyClass_traps ((multiplu_overflow_iff s x y).2 ⟨hmo, h⟩) rfl⟩

end Sys2Proof.Machine

namespace Sys2Proof.Machine

/-! ### An ordinary trap of kind Next (60_exceptions.md R680 to R683) -/

theorem bitOf_fieldOf (w : Word) (lo : Nat) {len : Nat} (h : len ≤ 32) (j : Nat) :
    bitOf (fieldOf w lo len) j = (decide (j < len) && bitOf w (lo + j)) := by
  have hm : bitOf (BitVec.ofNat 32 (2 ^ len - 1)) j = decide (j < len) := by
    rw [bitOf, BitVec.getLsbD_ofNat, Nat.testBit_two_pow_sub_one]
    by_cases hj : j < len
    · simp [hj, show j < 32 by omega]
    · simp [hj]
  rw [fieldOf, bitOf_and, hm, Bool.and_comm]
  exact congrArg _ (BitVec.getLsbD_ushiftRight ..)

/-- A field does not see a bit outside it replaced. -/
theorem fieldOf_putBit (w : Word) {k lo len : Nat} (b : Bool) (hk : k < 32) (hl : len ≤ 32) (h : k < lo ∨ lo + len ≤ k) :
    fieldOf (putBit w k b) lo len = fieldOf w lo len := by
  refine eq_of_bitOf fun j _ => ?_
  rw [bitOf_fieldOf _ _ hl, bitOf_fieldOf _ _ hl, bitOf_putBit _ _ _ _ hk]
  by_cases hj : j < len
  · rw [if_neg (by omega)]
  · simp [hj]

/-- The pending interrupts depend on DA, DI and IM, not on the trace bit (R710 (d)). -/
theorem State.interruptPending_congr {s t : State} {b : Bool} (hc : t.cps = putBit s.cps 12 b) (hi : t.cur = s.cur) :
    t.interruptPending = s.interruptPending := by
  unfold State.interruptPending State.intrEnabled State.da State.di State.im
  rw [hc, hi, bitOf_putBit _ _ _ _ (by decide), bitOf_putBit _ _ _ _ (by decide),
    fieldOf_putBit _ _ (by decide) (by decide) (.inr (by decide))]
  rfl

/-- The handler of a vector and its R bit, from the table or the vector's block (R643, R644). -/
theorem State.handler_eq (s : State) (vn : Byte) : s.handler vn =
    (s.handlerAddress vn, if bitOf s.sr.cfg 4 then bitOf (s.vectorWord vn) 1 else bitOf s.sr.cfg 3) := by
  unfold State.handler State.handlerAddress State.vf
  split_ifs <;> rfl

theorem State.handler_congr {s t : State} (hc : t.sr.cfg = s.sr.cfg) (hv : t.sr.vab = s.sr.vab)
    (hm : t.idmem = s.idmem) (vn : Byte) : t.handler vn = s.handler vn := by
  unfold State.handler State.vf
  rw [hc, hv, hm]

/-- Of the special registers, recording a trap writes PC0 to PC2. -/
theorem State.recordPcs_sr (s : State) (a b c : Word) :
    ∃ x y z, (s.recordPcs a b c).sr = { s.sr with pc0 := x, pc1 := y, pc2 := z } := by
  rw [State.recordPcs_special]
  split_ifs
  · exact ⟨_, _, _, rfl⟩
  · exact ⟨_, _, _, rfl⟩
  · exact ⟨_, _, _, rfl⟩

/-- What saving the context of a trap of kind Next changes: PC0 to PC2, SPC0 to SPC2 and the trace copy. -/
theorem State.saveContext_next (s : State) :
    (s.saveContext .next).cps = s.tracedCps ∧ (s.saveContext .next).cur = s.cur ∧
      (s.saveContext .next).idmem = s.idmem ∧ (s.saveContext .next).sr =
        { (s.recordPcs (s.npc + 4) s.npc s.pc).sr with spc0 := s.npc + 4, spc1 := s.npc, spc2 := s.pc } := by
  simp [State.saveContext, State.pcTriple, State.tracedCps, State.te, State.mm, State.tp]

theorem State.switchStatus_sr (s : State) : s.switchStatus.sr = { s.sr with ops := fieldOf s.cpsRead 0 16 } := rfl

/-- The special registers that an ordinary trap of kind Next writes. -/
theorem State.ordinaryTrap_next_sr (s : State) (vn : Byte) : (s.ordinaryTrap vn .next).sr =
    { (s.recordPcs (s.npc + 4) s.npc s.pc).sr with
      spc0 := s.npc + 4, spc1 := s.npc, spc2 := s.pc
      ops := fieldOf (putBit s.tracedCps 14 s.interruptPending) 0 16 } := by
  obtain ⟨hcps, hcur, -, hsr⟩ := s.saveContext_next
  have hpend : (s.saveContext .next).interruptPending = s.interruptPending := State.interruptPending_congr hcps hcur
  rw [State.ordinaryTrap, State.goto_sr, State.switchStatus_sr, State.cpsRead, hcps, hpend, hsr]

/-- The handler that an ordinary trap goes to is the one of the state it is taken in. -/
theorem State.ordinaryTrap_next_status (s : State) (vn : Byte) :
    (s.ordinaryTrap vn .next).pc = (s.handler vn).1 ∧ (s.ordinaryTrap vn .next).npc = (s.handler vn).1 + 4 ∧
      (s.ordinaryTrap vn .next).cps = putBit (afterTrap s.tracedCps) 8 (s.handler vn).2 := by
  obtain ⟨hcps, -, hidmem, hsr⟩ := s.saveContext_next
  obtain ⟨x, y, z, hrec⟩ := s.recordPcs_sr (s.npc + 4) s.npc s.pc
  have hh : ((s.saveContext .next).switchStatus).handler vn = s.handler vn :=
    State.handler_congr (by rw [State.switchStatus_sr, hsr, hrec]) (by rw [State.switchStatus_sr, hsr, hrec])
      (by rw [State.switchStatus_idmem, hidmem]) vn
  rw [State.ordinaryTrap, State.goto_pc, State.goto_npc, State.goto_cps, State.switchStatus_cps, hh, hcps]
  exact ⟨rfl, rfl, rfl⟩

/-- A state holds what another holds, of all that an ordinary trap saves or looks at and of what it leaves. -/
structure State.TrapsAs (s v : State) : Prop where
  pc : v.pc = s.pc
  npc : v.npc = s.npc
  cps : v.cps = s.cps
  cur : v.cur = s.cur
  fzWindow : v.fzWindow = s.fzWindow
  alu : v.alu = s.alu
  idmem : v.idmem = s.idmem
  cfg : v.sr.cfg = s.sr.cfg
  vab : v.sr.vab = s.sr.vab
  pcs : v.sr.pc0 = s.sr.pc0 ∧ v.sr.pc1 = s.sr.pc1 ∧ v.sr.pc2 = s.sr.pc2
  general : s.SameGeneral v

theorem State.ordinaryTrap_next_general (s : State) (vn : Byte) : s.SameGeneral (s.ordinaryTrap vn .next) := by
  apply State.sameGeneral_of <;> simp [State.ordinaryTrap, State.saveContext, State.pcTriple]

theorem State.SameGeneral.trans {s t u : State} (h : s.SameGeneral t) (k : t.SameGeneral u) : s.SameGeneral u := by
  obtain ⟨hr, hm, ha, ht, hu⟩ := h
  obtain ⟨kr, km, ka, kt, ku⟩ := k
  exact ⟨fun n hn => (kr n hn).trans (hr n hn), hm.trans km, ka.trans ha, kt.trans ht, ku.trans hu⟩

/-- CPS after a trap, under a mask without RE: what the trap keeps and the bits it sets (R681). -/
theorem afterTrap_putBit_and (c : Word) (tp re : Bool) :
    putBit (afterTrap (putBit c 12 tp)) 8 re &&& 0xFFFFFEFF = (c &&& 0x0001C00C) ||| 0x00000473 := by
  rw [putBit_and _ _ _ _ (by decide) (by decide)]
  change ((putBit c 12 tp &&& 0x0001C00C) ||| 0x00000473) &&& 0xFFFFFEFF = _
  rw [putBit_and _ _ _ _ (by decide) (by decide), BitVec.and_or_distrib_right, BitVec.and_assoc]
  rfl

/-- An ordinary trap of kind Next, taken outside Monitor mode with EXOP already set. -/
theorem State.TrapsAs.taken {s v : State} (h : s.TrapsAs v) (hmm : s.mm = false) {op : Byte}
    (hexop : v.sr.exop = op.setWidth 32) (vn : Byte) : s.TrapTaken (v.ordinaryTrap vn .next) vn op := by
  obtain ⟨hpc, hnpc, hcps⟩ := v.ordinaryTrap_next_status vn
  have hsr := v.ordinaryTrap_next_sr vn
  obtain ⟨p0, p1, p2⟩ := h.pcs
  have hhandler : v.handler vn = s.handler vn := State.handler_congr h.cfg h.vab h.idmem vn
  have htraced : v.tracedCps = putBit s.cps 12 s.te := by
    simp [State.tracedCps_of h.cps, State.withTrace, hmm]
  have hpend : v.interruptPending = s.interruptPending :=
    State.interruptPending_congr (b := bitOf s.cps 12) (h.cps.trans (putBit_bitOf _ (by decide)).symm) h.cur
  rw [hhandler, s.handler_eq] at hpc hnpc hcps
  rw [htraced] at hcps
  have hrecord := v.recordPcs_special (v.npc + 4) v.npc v.pc
  rw [h.cps, h.fzWindow, h.npc, h.pc] at hrecord
  rw [h.npc, h.pc, htraced, hpend] at hsr
  exact {
    pc := hpc
    npc := by rw [hnpc, hpc]
    exop := by
      obtain ⟨x, y, z, hr⟩ := v.recordPcs_sr (s.npc + 4) s.npc s.pc
      rw [hsr, hr, ← hexop]
    spc := by rw [hsr]; exact ⟨rfl, rfl, rfl⟩
    pcs := fun hf hw => by rw [hsr, hrecord, if_neg (by simp [hf]), if_pos hw]; exact ⟨rfl, rfl, rfl⟩
    pcsFrozen := fun hf => by rw [hsr, hrecord, if_pos hf]; exact ⟨p2, p1, p0⟩
    ops := by rw [hsr]
    cps := by rw [hcps, afterTrap_putBit_and]
    re := by rw [hcps, bitOf_putBit _ _ _ _ (by decide), if_pos rfl]
    alu := by simp [State.ordinaryTrap, State.saveContext, State.pcTriple, h.alu]
    general := h.general.trans (v.ordinaryTrap_next_general vn) }

/-! ### Instructions left to software (40_integer_arithmetic.md R344, R345) -/

/-- The state that an instruction left to software traps in. -/
def State.emulating (s : State) (op rc ra rb : Byte) : State :=
  { s.setPointers rc ra rb with sr := { (s.setPointers rc ra rb).sr with exop := op.setWidth 32 } }

theorem State.emulating_trapsAs (s : State) (op rc ra rb : Byte) : s.TrapsAs (s.emulating op rc ra rb) := by
  constructor
  case general => apply State.sameGeneral_of <;> simp [State.emulating]
  all_goals simp [State.emulating, State.setPointers]

/-- An instruction left to software traps with the numbers of its registers in the indirect pointers, and keeps Q. -/
theorem emulated_traps {i : Instr} {vn rc ra rb : Byte} {s : State} (he : exec i s = emulated i vn rc ra rb s)
    (hr : s.regStop false (usesNumbers rc ra rb) = none) (ready : s.TrapReady) :
    ∃ t, exec i s = .next t ∧ s.TrapTaken t vn i.opcode ∧ t.sr.ipc = pointerWord (s.absReg .c rc) ∧
      t.sr.ipa = pointerWord (s.absReg .a ra) ∧ t.sr.ipb = pointerWord (s.absReg .b rb) ∧ t.sr.q = s.sr.q := by
  have hready : (s.setPointers rc ra rb).TrapReady := ready
  let u := s.emulating i.opcode rc ra rb
  rw [emulated, State.guarded_none _ hr, finish_trap, State.takeInstTrap_ready hready] at he
  obtain ⟨x, y, z, hrec⟩ := u.recordPcs_sr (u.npc + 4) u.npc u.pc
  have hsr := u.ordinaryTrap_next_sr vn
  rw [hrec] at hsr
  exact ⟨u.ordinaryTrap vn .next, he, (s.emulating_trapsAs ..).taken ready.1 rfl vn, by rw [hsr]; rfl, by rw [hsr]; rfl,
    by rw [hsr]; rfl, by rw [hsr]; rfl⟩

/-- Settles O7: both instructions are left to software. -/
theorem divideTraps : Obligations.DivideTraps := fun _ _ _ _ hr ready =>
  ⟨emulated_traps rfl hr ready, emulated_traps rfl hr ready⟩

end Sys2Proof.Machine

namespace Sys2Proof.Machine

/-! ### The relations (41_compare.md R362 to R371, R380 to R389) -/

/-- A test of two words decides a relation of them. -/
def DecidesRel (rel : Word → Word → Bool) (P : Word → Word → Prop) : Prop := ∀ x y, rel x y = true ↔ P x y

theorem eq_decides : DecidesRel (fun x y => x == y) fun x y => x = y := fun _ _ => beq_iff_eq

theorem ne_decides : DecidesRel (fun x y => x != y) fun x y => x ≠ y := fun _ _ => bne_iff_ne

theorem slt_decides : DecidesRel (fun x y => x.slt y) fun x y => x.toInt < y.toInt := fun _ _ => BitVec.slt_iff_toInt_lt

theorem ult_decides : DecidesRel (fun x y => x.ult y) fun x y => x.toNat < y.toNat := fun _ _ => BitVec.ult_iff_toNat_lt

theorem sle_decides : DecidesRel (fun x y => x.sle y) fun x y => x.toInt ≤ y.toInt := fun _ _ => BitVec.sle_iff_toInt_le

theorem ule_decides : DecidesRel (fun x y => x.ule y) fun x y => x.toNat ≤ y.toNat := fun _ _ => BitVec.ule_iff_toNat_le

/-- The operands exchanged: greater than is less than from the other side. -/
theorem DecidesRel.flip {rel : Word → Word → Bool} {P : Word → Word → Prop} (h : DecidesRel rel P) :
    DecidesRel (fun x y => rel y x) fun x y => P y x := fun x y => h y x

/-! ### Equal bytes (41_compare.md R372) -/

/-- Two bytes in the same position are equal when they are, shifted down and masked. -/
theorem extractLsb'_eq_iff (x y : Word) (k : Nat) :
    x.extractLsb' k 8 = y.extractLsb' k 8 ↔ (x >>> k) &&& 0xFF#32 = (y >>> k) &&& 0xFF#32 := by
  have masked : ∀ w : Word, ((w >>> k) &&& 0xFF#32).toNat = (w.extractLsb' k 8).toNat := fun w => by
    rw [BitVec.toNat_and, BitVec.toNat_ushiftRight, BitVec.extractLsb'_toNat]
    exact Nat.and_two_pow_sub_one_eq_mod _ 8
  rw [← BitVec.toNat_inj, ← BitVec.toNat_inj, masked, masked]

/-- The most significant byte needs no mask. -/
theorem ushiftRight_24_and (x : Word) : (x >>> 24) &&& 0xFF#32 = x >>> 24 := by
  apply BitVec.eq_of_toNat_eq
  rw [BitVec.toNat_and, BitVec.toNat_ushiftRight]
  exact (Nat.and_two_pow_sub_one_eq_mod _ 8).trans (Nat.mod_eq_of_lt (by omega))

theorem anyByteEqual_decides : DecidesRel anyByteEqual fun x y =>
    x >>> 24 = y >>> 24 ∨ (x >>> 16) &&& 0xFF#32 = (y >>> 16) &&& 0xFF#32 ∨
      (x >>> 8) &&& 0xFF#32 = (y >>> 8) &&& 0xFF#32 ∨ x &&& 0xFF#32 = y &&& 0xFF#32 := fun x y => by
  simp only [anyByteEqual, opField, cField, aField, bField, Bool.or_eq_true, beq_iff_eq, extractLsb'_eq_iff,
    ushiftRight_24_and, BitVec.ushiftRight_zero, or_assoc]

/-! ### The trap of an instruction that changes nothing before it -/

/-- The Exception Opcode is nothing that an ordinary trap saves, looks at or leaves alone. -/
theorem State.exop_trapsAs (s : State) (w : Word) : s.TrapsAs { s with sr := { s.sr with exop := w } } where
  pc := rfl
  npc := rfl
  cps := rfl
  cur := rfl
  fzWindow := rfl
  alu := rfl
  idmem := rfl
  cfg := rfl
  vab := rfl
  pcs := ⟨rfl, rfl, rfl⟩
  general := State.sameGeneral_of rfl rfl rfl rfl rfl rfl rfl rfl rfl rfl

/-- An instruction's trap of kind Next, raised in the state the instruction began in (R680 to R683). -/
theorem State.takeInstTrap_taken {s : State} (ready : s.TrapReady) (op vn : Byte) :
    ∃ t, s.takeInstTrap op vn .next = .next t ∧ s.TrapTaken t vn op :=
  ⟨_, State.takeInstTrap_ready ready op vn .next, (s.exop_trapsAs _).taken ready.1 rfl vn⟩

section
variable {i : Instr} {vn rc ra : Byte} {b : Opnd} {s : State} {rel : Word → Word → Bool} {P : Word → Word → Prop}

/-! ### Compares (41_compare.md R360) -/

/-- A compare writes TRUE when the relation it tests holds of its operands, and else FALSE. -/
theorem compare_completes [Decidable (P (s.src .a ra) (s.opnd b))] (ht : DecidesRel rel P)
    (he : exec i s = compareOp i rc ra b rel s) : PlainCompletes i (usesRRM .other rc ra b) (s.absReg .c rc) s
      (if P (s.src .a ra) (s.opnd b) then 0x80000000#32 else 0#32) := by
  have hword : boolWord (rel (s.src .a ra) (s.opnd b)) =
      if P (s.src .a ra) (s.opnd b) then 0x80000000#32 else 0#32 := if_congr (ht _ _) rfl rfl
  rw [← hword]
  exact plainCompletes_of he (dst_mem_usesRRM .other rc ra b)

/-! ### Asserts (41_compare.md R361, R380 to R389) -/

/-- An assert by the relation it tests (R361): it goes on; or it is denied, in User mode with VN below 64; or it takes
its own trap. -/
theorem assert_cases (ht : DecidesRel rel P) (he : exec i s = assertOp i vn ra b rel s)
    (hr : s.regStop false ([⟨.a, ra, .src⟩] ++ opndUses b) = none) :
    let p := P (s.src .a ra) (s.opnd b)
    (p → Completes i s fun t => s.SameData t) ∧
      (¬ p → s.user = true → vn.toNat < 64 → exec i s = s.takeInstTrap i.opcode 5 .curr) ∧
      (¬ p → s.user = false ∨ 64 ≤ vn.toNat → s.TrapReady → ∃ t, exec i s = .next t ∧ s.TrapTaken t vn i.opcode) := by
  intro p
  unfold assertOp at he
  refine ⟨fun h => ?holds, fun h hu hv => ?denied, fun h hv ready => ?traps⟩
  case holds =>
    rw [if_pos ((ht _ _).2 h)] at he
    exact completes_of he hr rfl rfl (State.sameData_of (fun _ => rfl) rfl rfl rfl rfl rfl rfl rfl rfl)
  case denied =>
    rw [if_neg (mt (ht _ _).1 h), if_pos (by simp [hu, hv]), State.guarded_none _ hr, finish_trap] at he
    exact he
  case traps =>
    have allowed : ¬ (s.user && decide (vn.toNat < 64)) = true := by
      rcases hv with hu | hv
      · simp [hu]
      · simp [Nat.not_lt.2 hv]
    rw [if_neg (mt (ht _ _).1 h), if_neg allowed, State.guarded_none _ hr, finish_trap] at he
    rw [he]
    exact State.takeInstTrap_taken ready i.opcode vn

end

/-- Settles O8: each form is `compareOp` with a test that decides its relation. -/
theorem comparesComplete : Obligations.ComparesComplete := by
  intro rc ra b s x y done
  exact ⟨⟨hasCode_of (opcode_wordOf rfl), compare_completes eq_decides rfl⟩,
    ⟨hasCode_of (opcode_wordOf rfl), compare_completes ne_decides rfl⟩,
    ⟨hasCode_of (opcode_wordOf rfl), compare_completes slt_decides rfl⟩,
    ⟨hasCode_of (opcode_wordOf rfl), compare_completes ult_decides rfl⟩,
    ⟨hasCode_of (opcode_wordOf rfl), compare_completes sle_decides rfl⟩,
    ⟨hasCode_of (opcode_wordOf rfl), compare_completes ule_decides rfl⟩,
    ⟨hasCode_of (opcode_wordOf rfl), compare_completes slt_decides.flip rfl⟩,
    ⟨hasCode_of (opcode_wordOf rfl), compare_completes ult_decides.flip rfl⟩,
    ⟨hasCode_of (opcode_wordOf rfl), compare_completes sle_decides.flip rfl⟩,
    ⟨hasCode_of (opcode_wordOf rfl), compare_completes ule_decides.flip rfl⟩,
    ⟨hasCode_of (opcode_wordOf rfl), compare_completes anyByteEqual_decides rfl⟩⟩

/-- Settles O9: each form is `assertOp` with a test that decides its relation. -/
theorem assertsComplete : Obligations.AssertsComplete := by
  intro vn ra b s x y does
  exact ⟨assert_cases eq_decides rfl, assert_cases ne_decides rfl,
    assert_cases slt_decides rfl, assert_cases ult_decides rfl,
    assert_cases sle_decides rfl, assert_cases ule_decides rfl,
    assert_cases slt_decides.flip rfl, assert_cases ult_decides.flip rfl,
    assert_cases sle_decides.flip rfl, assert_cases ule_decides.flip rfl⟩

end Sys2Proof.Machine

namespace Sys2Proof.Machine

/-! ### N and Z of a logical instruction (42_logical.md R400) -/

/-- N and Z tell of a result, unless the ALU Status Register is frozen; the other bits of ALU are as before (R400). -/
def State.NZAre (s t : State) (r : Word) : Prop :=
  if s.frozen then t.alu = s.alu
  else t.alu &&& 0xFFFFFCFF = s.alu &&& 0xFFFFFCFF ∧ bitOf t.alu 9 = bitOf r 31 ∧ (bitOf t.alu 8 = true ↔ r = 0#32)

theorem State.setNZ_alu (s : State) (r : Word) : (s.setNZ r).alu =
    if s.frozen then s.alu else putBit (putBit s.alu 9 (bitOf r 31)) 8 (r == 0) := by
  unfold State.setNZ; split_ifs <;> rfl

/-- `setNZ` sets the flags as R400 says. -/
theorem State.setNZ_nzAre (s : State) (r : Word) : s.NZAre (s.setNZ r) r := by
  unfold State.NZAre
  rw [State.setNZ_alu]
  split_ifs
  · rfl
  · rw [putBit_and _ _ _ _ (by decide) (by decide), putBit_and _ _ _ _ (by decide) (by decide)]
    simp [bitOf_putBit]

/-- What the flags tell depends only on the ALU Status Register and on whether it was frozen. -/
theorem State.NZAre.congr {s t s' t' : State} {r : Word} (h : s.NZAre t r) (hf : s'.frozen = s.frozen)
    (hs : s'.alu = s.alu) (ht : t'.alu = t.alu) : s'.NZAre t' r := by
  unfold State.NZAre at h ⊢
  rwa [hf, hs, ht]

/-! ### The logical instructions (42_logical.md R401 to R408) -/

/-- A logical instruction writes the word its operation gives, and N and Z tell of that word. -/
theorem logical_completes {i : Instr} {rc ra : Byte} {b : Opnd} {s : State} (f : Word → Word → Word)
    (he : exec i s = logicalOp i rc ra b f s) (hr : s.regStop false (usesRRM .alu rc ra b) = none) :
    let r := f (s.src .a ra) (s.opnd b)
    Completes i s fun t => s.Writes t (s.absReg .c rc) r ∧ s.NZAre t r := by
  intro r
  have hn : numberFault (s.absReg .c rc) = none := State.dst_of_regStop hr (dst_mem_usesRRM .alu rc ra b)
  have flags : s.NZAre (Done.seq ((s.setDest .alu rc r).setNZ r)).advance r :=
    ((s.setDest .alu rc r).setNZ_nzAre r).congr (s.setDest_frozen .alu rc r).symm (by simp) (by simp)
  exact completes_of he hr (by simp) (by simp)
    ⟨State.writes_of (c := .alu) hn (fun m => State.setNZ_getGR ..) (by simp) (by simp) (by simp) (by simp) (by simp)
      (by simp) (by simp), flags⟩

/-- Settles O10: each form is `logicalOp` with its rule's operation on words. -/
theorem logicalComplete : Obligations.LogicalComplete := by
  intro rc ra b s x y done
  exact ⟨⟨hasCode_of (opcode_wordOf rfl), logical_completes (fun x y => x &&& y) rfl⟩,
    ⟨hasCode_of (opcode_wordOf rfl), logical_completes (fun x y => x &&& ~~~y) rfl⟩,
    ⟨hasCode_of (opcode_wordOf rfl), logical_completes (fun x y => ~~~(x &&& y)) rfl⟩,
    ⟨hasCode_of (opcode_wordOf rfl), logical_completes (fun x y => ~~~(x ||| y)) rfl⟩,
    ⟨hasCode_of (opcode_wordOf rfl), logical_completes (fun x y => x ||| y) rfl⟩,
    ⟨hasCode_of (opcode_wordOf rfl), logical_completes (fun x y => x ||| ~~~y) rfl⟩,
    ⟨hasCode_of (opcode_wordOf rfl), logical_completes (fun x y => ~~~(x ^^^ y)) rfl⟩,
    ⟨hasCode_of (opcode_wordOf rfl), logical_completes (fun x y => x ^^^ y) rfl⟩⟩

end Sys2Proof.Machine

namespace Sys2Proof.Machine

/-! ### The shift counts (43_shift.md R420, R424) -/

/-- The low five bits of a word, as a number. -/
theorem fieldOf_low_five (w : Word) : (fieldOf w 0 5).toNat = w.toNat % 32 := by
  rw [fieldOf_toNat w 0 5 (by decide), pow_zero, Nat.div_one]; rfl

theorem shiftCount_eq (y : Word) : shiftCount y = y.toNat % 32 := fieldOf_low_five y

theorem State.funnelCount_eq (s : State) : s.funnelCount = s.alu.toNat % 32 := fieldOf_low_five s.alu

/-! ### The shifts of words as arithmetic (43_shift.md R421 to R424) -/

theorem shiftLeft_shiftCount (x y : Word) : x <<< shiftCount y = BitVec.ofNat 32 (x.toNat * 2 ^ (y.toNat % 32)) := by
  apply BitVec.eq_of_toNat_eq
  rw [shiftCount_eq, BitVec.toNat_shiftLeft, BitVec.toNat_ofNat, Nat.shiftLeft_eq]

theorem ushiftRight_shiftCount (x y : Word) : x >>> shiftCount y = BitVec.ofNat 32 (x.toNat / 2 ^ (y.toNat % 32)) := by
  rw [shiftCount_eq, ← Nat.shiftRight_eq_div_pow, ← BitVec.toNat_ushiftRight, BitVec.ofNat_toNat, BitVec.setWidth_eq]

/-- The sign fills the vacated bits: the quotient is rounded down, not towards zero. -/
theorem sshiftRight_shiftCount (x y : Word) :
    x.sshiftRight (shiftCount y) = BitVec.ofInt 32 (x.toInt / 2 ^ (y.toNat % 32)) := by
  rw [shiftCount_eq, BitVec.sshiftRight, Int.shiftRight_eq_div_pow]
  norm_cast

/-- The pair of words as one number, the first word on the high side. -/
theorem append_eq_ofNat (x y : Word) : (x ++ y : DWord) = BitVec.ofNat 64 (x.toNat * 2 ^ 32 + y.toNat) := by
  apply BitVec.eq_of_toNat_eq
  rw [BitVec.toNat_append, ← Nat.shiftLeft_add_eq_or_of_lt y.isLt, Nat.shiftLeft_eq, BitVec.toNat_ofNat,
    Nat.mod_eq_of_lt (by omega)]

/-- The bits that the shift moves beyond bit 63 of the pair do not reach its high word. -/
theorem funnelShift_eq (x y : Word) (n : Nat) :
    funnelShift x y n = BitVec.ofNat 32 ((x.toNat * 2 ^ 32 + y.toNat) * 2 ^ n / 2 ^ 32) := by
  have shifted : (x ++ y : DWord) <<< n = BitVec.ofNat 64 ((x.toNat * 2 ^ 32 + y.toNat) * 2 ^ n) := by
    rw [append_eq_ofNat]
    apply BitVec.eq_of_toNat_eq
    rw [BitVec.toNat_shiftLeft, BitVec.toNat_ofNat, BitVec.toNat_ofNat, Nat.shiftLeft_eq, Nat.mod_mul_mod]
  rw [funnelShift, shifted, (extractLsb'_ofNat _).2]

/-! ### The shift instructions (43_shift.md R420) -/

/-- A meaning that puts a plain result into DEST completes with it. -/
theorem plainResult_completes {i : Instr} {rc ra : Byte} {b : Opnd} {s : State} {v w : Word}
    (he : exec i s = plainResult i rc ra b v s) (hv : v = w) :
    PlainCompletes i (usesRRM .other rc ra b) (s.absReg .c rc) s w :=
  plainCompletes_of (hv ▸ he) (dst_mem_usesRRM .other rc ra b)

/-- Settles O11: each form is `plainResult` with a shift that is its rule's arithmetic. -/
theorem shiftsComplete : Obligations.ShiftsComplete := by
  intro rc ra b s x y n fc done
  have funnel : funnelShift x y s.funnelCount = BitVec.ofNat 32 ((x.toNat * 2 ^ 32 + y.toNat) * 2 ^ fc / 2 ^ 32) :=
    s.funnelCount_eq ▸ funnelShift_eq x y s.funnelCount
  exact ⟨⟨hasCode_of (opcode_wordOf rfl), plainResult_completes rfl (shiftLeft_shiftCount x y)⟩,
    ⟨hasCode_of (opcode_wordOf rfl), plainResult_completes rfl (ushiftRight_shiftCount x y)⟩,
    ⟨hasCode_of (opcode_wordOf rfl), plainResult_completes rfl (sshiftRight_shiftCount x y)⟩,
    ⟨hasCode_of (opcode_wordOf rfl), plainResult_completes rfl funnel⟩⟩

end Sys2Proof.Machine

namespace Sys2Proof.Machine

/-! ### Fields of words as masks and shifts (00_scope.md R14) -/

/-- A field replaced, by its mask at the low end. -/
theorem putField_eq (w v : Word) (lo len : Nat) : putField w lo len v =
    (w &&& ~~~(BitVec.ofNat 32 (2 ^ len - 1) <<< lo)) ||| ((v &&& BitVec.ofNat 32 (2 ^ len - 1)) <<< lo) := by
  have hm : BitVec.ofNat 32 ((2 ^ len - 1) * 2 ^ lo) = BitVec.ofNat 32 (2 ^ len - 1) <<< lo := by
    apply BitVec.eq_of_toNat_eq
    rw [BitVec.toNat_shiftLeft, BitVec.toNat_ofNat, BitVec.toNat_ofNat, Nat.shiftLeft_eq, Nat.mod_mul_mod]
  rw [BitVec.shiftLeft_and_distrib, ← hm]; rfl

/-- The bits taken out of a word and put into another are its field. -/
theorem setWidth_extractLsb' (w : Word) (lo : Nat) {len : Nat} (h : len ≤ 32) :
    (w.extractLsb' lo len).setWidth 32 = fieldOf w lo len := by
  have hp : 2 ^ len ≤ 2 ^ 32 := Nat.pow_le_pow_right (by decide) h
  apply BitVec.eq_of_toNat_eq
  rw [fieldOf_toNat w lo len h, BitVec.toNat_setWidth, BitVec.extractLsb'_toNat, Nat.shiftRight_eq_div_pow,
    Nat.mod_eq_of_lt ((Nat.mod_lt _ (Nat.two_pow_pos len)).trans_le hp)]

/-- A field as a low part is not changed by its mask. -/
theorem fieldOf_and_mask (w : Word) (lo len : Nat) :
    fieldOf w lo len &&& BitVec.ofNat 32 (2 ^ len - 1) = fieldOf w lo len := by
  rw [fieldOf, BitVec.and_assoc, BitVec.and_self]

/-! ### Byte and half-word moves (44_data_movement.md R440 to R444) -/

/-- The lane that ALU.BP selects (R440). -/
theorem State.bpByte_eq (s : State) :
    s.bpByte = if bitOf s.sr.cfg 2 then s.alu.toNat / 32 % 4 else 3 - s.alu.toNat / 32 % 4 := by
  rw [State.bpByte, State.byteLane, State.bytePointer, fieldOf_toNat _ _ _ (by decide)]; rfl

/-- The lane that its most significant bit selects (R441). -/
theorem State.bpHalf_eq (s : State) :
    s.bpHalf = if bitOf s.sr.cfg 2 then s.alu.toNat / 32 % 4 / 2 else 1 - s.alu.toNat / 32 % 4 / 2 := by
  rw [State.bpHalf, State.halfLane, State.bytePointer, fieldOf_toNat _ _ _ (by decide)]; rfl

/-- The low part of a word replaced by a field of another (R440, R441). -/
theorem putField_low_fieldOf (y x : Word) (lo len : Nat) :
    putField y 0 len (fieldOf x lo len) = (y &&& ~~~BitVec.ofNat 32 (2 ^ len - 1)) ||| fieldOf x lo len := by
  rw [putField_eq, BitVec.shiftLeft_zero, BitVec.shiftLeft_zero, fieldOf_and_mask]

/-- Sign extension of a half-word: ones above it if its bit 15 is 1 (R442). -/
theorem signExtend_half (h : BitVec 16) : h.signExtend 32 =
    if 0x8000 ≤ (h.setWidth 32).toNat then h.setWidth 32 ||| 0xFFFF0000#32 else h.setWidth 32 := by
  have hn : (h.setWidth 32).toNat = h.toNat := BitVec.toNat_setWidth_of_le (by decide)
  have hmsb : h.msb = decide (0x8000 ≤ h.toNat) := BitVec.msb_eq_decide h
  rw [hn]
  split_ifs with hs
  · have ones : ∀ i < 32, (0xFFFF0000#32).getLsbD i = decide (16 ≤ i) := by decide
    refine BitVec.eq_of_getLsbD_eq fun i hi => ?_
    rw [BitVec.getLsbD_signExtend, BitVec.getLsbD_or, BitVec.getLsbD_setWidth, ones i hi, hmsb, decide_eq_true hs]
    by_cases h16 : i < 16
    · simp [h16, hi]
    · simp [h16, hi, Nat.not_lt.1 h16]
  · exact BitVec.signExtend_eq_setWidth_of_msb_false (by rw [hmsb, decide_eq_false hs])

/-- Settles O12: each form puts a field of one operand into a place of the other, at the lane that ALU.BP selects. -/
theorem byteMovesComplete : Obligations.ByteMovesComplete := by
  intro rc ra b s x y bp k h byte half done us
  have hk : s.bpByte = k := s.bpByte_eq
  have hh : s.bpHalf = h := s.bpHalf_eq
  have hbyte : (laneByte x s.bpByte).setWidth 32 = byte := by
    rw [hk]; exact setWidth_extractLsb' x (8 * k) (by decide)
  have hhalf : (laneHalf x s.bpHalf).setWidth 32 = half := by
    rw [hh]; exact setWidth_extractLsb' x (16 * h) (by decide)
  have extracts : putField y 0 8 ((laneByte x s.bpByte).setWidth 32) = y &&& 0xFFFFFF00#32 ||| byte :=
    (congrArg _ hbyte).trans (putField_low_fieldOf y x (8 * k) 8)
  have extractsHalf : putField y 0 16 ((laneHalf x s.bpHalf).setWidth 32) = y &&& 0xFFFF0000#32 ||| half :=
    (congrArg _ hhalf).trans (putField_low_fieldOf y x (16 * h) 16)
  have signed : (laneHalf x s.bpHalf).signExtend 32 =
      if 0x8000 ≤ half.toNat then half ||| 0xFFFF0000#32 else half := by
    rw [← hhalf]; exact signExtend_half _
  refine ⟨plainResult_completes rfl extracts, plainResult_completes rfl extractsHalf, opcode_wordOf rfl, ?_,
    plainResult_completes rfl ?_, plainResult_completes rfl ?_, hasCode_of (opcode_wordOf rfl),
    hasCode_of (opcode_wordOf rfl), hasCode_of (opcode_wordOf rfl), hasCode_of (opcode_wordOf rfl)⟩
  · rw [← signed]
    exact plainCompletes_of (c := .other) rfl (by simp)
  · rw [hk]; exact putField_eq x y (8 * k) 8
  · rw [hh]; exact putField_eq x y (16 * h) 16

end Sys2Proof.Machine

namespace Sys2Proof.Machine

/-! ### A move to CPS (44_data_movement.md R455, R456) -/

/-- A change of RE, PI or SM is kept for the fetches that still use the old bits, and changes nothing else. -/
theorem State.delayFetchBits_eq (s old : State) :
    ∃ o n, s.delayFetchBits old = { s with oldFetch := o, fresh := n } := by
  unfold State.delayFetchBits
  split_ifs
  · exact ⟨_, _, rfl⟩
  · exact ⟨_, _, rfl⟩

/-- CPS as a move writes it: MM stays (R455). -/
def State.statusWord (s : State) (v : Word) : Word := (s.cps &&& 0x00010000) ||| (v &&& 0x0000BFFF)

theorem State.bitOf_statusWord (s : State) (v : Word) {k : Nat} (h : k < 16) (h14 : k ≠ 14) :
    bitOf (s.statusWord v) k = bitOf v k := by
  have hkeep : bitOf (0x00010000 : Word) k = false := by revert k; decide
  have hmove : bitOf (0x0000BFFF : Word) k = true := by revert k; decide
  rw [State.statusWord, bitOf_or, bitOf_and, bitOf_and, hkeep, hmove, Bool.and_false, Bool.and_true, Bool.false_or]

theorem State.bitOf_statusWord_monitor (s : State) (v : Word) : bitOf (s.statusWord v) 16 = s.mm := by
  have hkeep : bitOf (0x00010000 : Word) 16 = true := by decide
  have hmove : bitOf (0x0000BFFF : Word) 16 = false := by decide
  rw [State.statusWord, bitOf_or, bitOf_and, bitOf_and, hkeep, hmove, Bool.and_true, Bool.and_false, Bool.or_false]; rfl

/-- A move to CPS sets FZ in a state that is not frozen. -/
def State.freezes (s : State) (v : Word) : Bool :=
  !s.frozen && (bitOf (s.statusWord v) 10 || bitOf (s.statusWord v) 16)

/-- The state with the moved CPS; FZ going from 1 to 0 opens its window (70_reset_and_hazards.md R783). -/
def State.withStatus (s : State) (v : Word) : State :=
  let t := { s with cps := s.statusWord v }
  if bitOf s.cps 10 && !bitOf t.cps 10 then { t with fzWindow := 3 } else t

theorem State.withStatus_eq (s : State) (v : Word) :
    ∃ w, s.withStatus v = { s with cps := s.statusWord v, fzWindow := w } := by
  unfold State.withStatus
  dsimp only
  split_ifs
  · exact ⟨3, rfl⟩
  · exact ⟨s.fzWindow, rfl⟩

theorem State.writeCps_steps (s : State) (v : Word) : s.writeCps v =
    (if !s.frozen && (s.withStatus v).frozen then (s.withStatus v).freezePcs else s.withStatus v).delayFetchBits s :=
  rfl

/-- What a move to CPS writes: CPS, PC0 to PC2 when it freezes them, and what is no part of the instruction set's
state. -/
theorem State.writeCps_eq (s : State) (v : Word) : ∃ w o n, s.writeCps v = { s with
    cps := s.statusWord v
    sr := if s.freezes v then s.freezePcs.sr else s.sr
    fzWindow := w, oldFetch := o, fresh := n } := by
  obtain ⟨w, hw⟩ := s.withStatus_eq v
  have hfreezes : (!s.frozen && (s.withStatus v).frozen) = s.freezes v := by rw [hw]; rfl
  rw [s.writeCps_steps, hfreezes]
  cases s.freezes v with
  | false =>
    obtain ⟨o, n, ho⟩ := (s.withStatus v).delayFetchBits_eq s
    exact ⟨w, o, n, ho.trans (by rw [hw]; rfl)⟩
  | true =>
    obtain ⟨o, n, ho⟩ := (s.withStatus v).freezePcs.delayFetchBits_eq s
    exact ⟨w, o, n, ho.trans (by rw [hw]; rfl)⟩

/-- A move that leaves FZ at 0, or in a state that is frozen, freezes nothing (R456 (b)). -/
theorem State.freezes_false {s : State} {v : Word} (h : s.frozen = true ∨ bitOf v 10 = false) :
    s.freezes v = false := by
  rw [State.freezes, s.bitOf_statusWord v (by decide) (by decide), s.bitOf_statusWord_monitor]
  rcases h with h | h
  · rw [h]; rfl
  · rw [h, State.frozen]; cases s.mm <;> simp

/-! ### Moves to CPS, CFG, ALU and the parts of registers (R451, R452, R455) -/

/-- A move to one of the registers CPS, CFG, ALU, BP, FC and CR. -/
def statusNumbers : List Nat := [2, 3, 132, 133, 134, 135]

/-- Such a register is implemented. -/
theorem moveToSpecial_status {sa : Byte} (h : sa.toNat ∈ statusNumbers) (s : State) (v : Word) :
    s.moveToSpecial sa v = .ok (if sa = 2#8 then .status (s.writeSpecial sa v) else .seq (s.writeSpecial sa v)) := by
  have hall : ∀ b : Byte, b.toNat ∈ statusNumbers → forbiddenSpecial b = false ∧ writeFault b = none := by decide
  obtain ⟨hforbidden, hfault⟩ := hall sa h
  rw [State.moveToSpecial, hforbidden, hfault]; rfl

/-- The privilege check of a move to one of them. -/
theorem State.specialProtected_status {sa : Byte} (h : sa.toNat ∈ statusNumbers) (s : State) :
    s.specialProtected sa = (s.user && decide (sa.toNat < 128)) := by
  have hall : ∀ b : Byte, b.toNat ∈ statusNumbers → protectedSpecial b = decide (b.toNat < 128) := by decide
  rw [State.specialProtected, hall sa h]

section
variable {x : Instr} {us : List RegUse} {sa : Byte} {v : Word} {s : State}
  (he : exec x s = finish x.opcode (s.guarded (s.specialProtected sa) us (s.moveToSpecial sa v)))
  (hr : s.regStop (s.user && decide (sa.toNat < 128)) us = none)
include he hr

/-- A move to one of them that nothing stops is made. -/
theorem exec_moveToStatus (h : sa.toNat ∈ statusNumbers) : exec x s =
    .next (if sa = 2#8 then .status (s.writeSpecial sa v) else .seq (s.writeSpecial sa v) : Done).advance := by
  rw [← State.specialProtected_status h] at hr
  rw [he, State.guarded_none _ hr, moveToSpecial_status h]; rfl

/-- A move that writes a register other than CPS completes with what it leaves. -/
theorem moveToStatus_completes {u : State} {P : State → Prop} (h : sa.toNat ∈ statusNumbers) (h2 : sa.toNat ≠ 2)
    (hu : s.writeSpecial sa v = u) (hn : u.npc = s.npc) (hc : u.cps = s.cps) (hP : P (Done.seq u).advance) :
    Completes x s P := by
  have hsa : sa ≠ 2#8 := fun e => h2 (by rw [e]; rfl)
  exact ⟨_, by rw [exec_moveToStatus he hr h, if_neg hsa, hu], State.fallsThrough_seq hn hc, hP⟩

/-- A move to CPS completes with the Trace bit set by itself or by TE (log entry 24). -/
theorem moveToCps_completes (h2 : sa.toNat = 2) : ∃ t, exec x s = .next t ∧ t.pc = s.npc ∧ t.npc = s.npc + 4 ∧
    s.SameGeneral t ∧ t.alu = s.alu ∧ t.cps = putBit (s.statusWord v) 12 (bitOf v 13 || bitOf v 12) ∧
    { t.sr with pc0 := s.sr.pc0, pc1 := s.sr.pc1, pc2 := s.sr.pc2 } = s.sr ∧
    (s.frozen = true ∨ bitOf v 10 = false → t.sr = s.sr) := by
  have hsa : sa = 2#8 := BitVec.eq_of_toNat_eq h2
  have hwrite : s.writeSpecial sa v = s.writeCps v := by rw [State.writeSpecial, h2]; rfl
  have hexec := exec_moveToStatus he hr (by rw [h2]; decide)
  rw [if_pos hsa, hwrite] at hexec
  obtain ⟨w, o, n, hcps⟩ := s.writeCps_eq v
  have htrace : (s.writeCps v).movedCps = putBit (s.statusWord v) 12 (bitOf v 13 || bitOf v 12) := by
    rw [State.movedCps, State.te, State.tp, hcps, s.bitOf_statusWord v (k := 13) (by decide) (by decide),
      s.bitOf_statusWord v (k := 12) (by decide) (by decide)]
  have hsr : (s.writeCps v).sr = if s.freezes v then s.freezePcs.sr else s.sr := by rw [hcps]
  have hothers : { (s.writeCps v).sr with pc0 := s.sr.pc0, pc1 := s.sr.pc1, pc2 := s.sr.pc2 } = s.sr := by
    rw [hsr]; cases s.freezes v <;> rfl
  have hsame : s.frozen = true ∨ bitOf v 10 = false → (s.writeCps v).sr = s.sr := fun h => by
    rw [hsr, State.freezes_false h]; rfl
  refine ⟨_, hexec, ?_, ?_, State.sameGeneral_of ?_ ?_ ?_ ?_ ?_ ?_ ?_ ?_ ?_ ?_, ?_, htrace, hothers, hsame⟩
  · rw [Done.advance_status_pc, hcps]
  · rw [Done.advance_status_npc, hcps]
  all_goals simp [hcps]

end

/-- ALU.FC is bits 4-0 of ALU. -/
theorem putField_funnelCount (w v : Word) : putField w 0 5 v = (w &&& 0xFFFFFFE0) ||| (v &&& 0x1F) := by
  rw [putField_eq, BitVec.shiftLeft_zero, BitVec.shiftLeft_zero]; rfl

/-- Settles O30: what a move writes, register by register; CPS is the one that goes its own way. -/
theorem moveToStatusCompletes : Obligations.MoveToStatusCompletes := by
  intro sa rb i s n prot done
  have writes : ∀ {x us v}, exec x s = finish x.opcode (s.guarded (s.specialProtected sa) us (s.moveToSpecial sa v)) →
      done x us v := by
    intro x us v he hr
    have hsame : ∀ {u : State}, u = { s with sr := u.sr, alu := u.alu } → s.SameGeneral (Done.seq u).advance := by
      intro u h
      rw [h]
      exact State.sameGeneral_of rfl rfl rfl rfl rfl rfl rfl rfl rfl rfl
    refine ⟨moveToCps_completes he hr, fun hn => ?_, fun hn => ?_, fun hn => ?_, fun hn => ?_, fun hn => ?_⟩
    · obtain rfl : sa = 3#8 := BitVec.eq_of_toNat_eq hn
      exact moveToStatus_completes he hr (by decide) (by decide) rfl rfl rfl ⟨hsame rfl, rfl, rfl⟩
    · obtain rfl : sa = 132#8 := BitVec.eq_of_toNat_eq hn
      exact moveToStatus_completes he hr (by decide) (by decide) rfl rfl rfl ⟨hsame rfl, rfl, rfl⟩
    · obtain rfl : sa = 133#8 := BitVec.eq_of_toNat_eq hn
      exact moveToStatus_completes he hr (by decide) (by decide) rfl rfl rfl ⟨hsame rfl, rfl, putField_eq s.alu v 5 2⟩
    · obtain rfl : sa = 134#8 := BitVec.eq_of_toNat_eq hn
      exact moveToStatus_completes he hr (by decide) (by decide) rfl rfl rfl
        ⟨hsame rfl, rfl, putField_funnelCount s.alu v⟩
    · obtain rfl : sa = 135#8 := BitVec.eq_of_toNat_eq hn
      exact moveToStatus_completes he hr (by decide) (by decide) rfl rfl rfl ⟨hsame rfl, rfl,
        congrArg (fun c => ({ s.sr with chc := c } : SpecialRegs)) (putField_eq s.sr.chc v 16 8)⟩
  exact ⟨writes rfl, writes rfl⟩

end Sys2Proof.Machine

namespace Sys2Proof.Machine

/-! ### A sequence that is complete (44_data_movement.md R438) -/

theorem State.lastTransfer_channelOnly (s : State) : s.ChannelOnly s.lastTransfer :=
  ⟨fun _ => rfl, .refl s, rfl, rfl, rfl, rfl, ⟨rfl, rfl⟩, rfl, rfl, rfl, rfl⟩

/-- After the last transfer ML and CV are 0. -/
theorem State.lastTransfer_sr (s : State) :
    s.lastTransfer.sr = { s.sr with chc := s.sr.chc &&& 0xFFFFBFFE } := by
  have h : putBit (putBit s.sr.chc 14 false) 0 false = s.sr.chc &&& 0xFFFFBFFE := BitVec.and_assoc _ _ _
  rw [State.lastTransfer, h]

section
variable {q : Sequence} {s t : State} {sp : Nat → Space} {p : Nat → Word} (hq : q.Told) (hf : s.frozen = false)
include hq hf

/-- The last transfer. -/
theorem Sequence.Reached.last (h : q.Reached s t sp p q.last) (hm : q.Made s (sp q.last) (p q.last) q.last) (n : Nat) :
    ∃ w, transferLoop (n + 1) (transferCheck q.last) t = .done w ∧ q.Past s w sp p (q.last + 1) ∧
      q.Completed s w sp p := by
  have hx := h.transfer hq
  obtain ⟨hready, hchd⟩ := h.transferData hq
  obtain ⟨t', hdone, hpast, hsr, -⟩ := hready.access_made hx hf hm
  have hchc : t'.sr.chc = q.channel q.last := by rw [hsr]; exact hready.chc
  have hlast := hpast.congr t'.lastTransfer_channelOnly
  refine ⟨t'.lastTransfer, transferLoop_last ?_ ?_ hdone ?_, hlast, hlast.leaves, ?_, ?_, fun hl => ?_, ?_⟩
  · rw [Sequence.targetRegister_eq h.chc, h.past.bankProtected]; exact hm.1.1
  · rw [hx.load, hx.reg]; exact hm.1.check
  · rw [Sequence.countRemaining_eq hchc, Nat.sub_self]
  all_goals rw [t'.lastTransfer_sr]
  · rw [hsr]; exact hready.cha
  · exact congrArg (· &&& 0xFFFFBFFE) hchc
  · rw [hsr]; exact hchd hl
  · rw [hsr]; exact hready.lru

end

/-- The special registers that a complete sequence leaves as they were: all but the channel registers. -/
theorem Sequence.Completed.special {q : Sequence} {s t : State} {sp : Nat → Space} {p : Nat → Word}
    (h : q.Completed s t sp p) : s.SameSpecialButChannel t :=
  have hlru : ({ t.sr with cha := s.sr.cha, chd := s.sr.chd, chc := s.sr.chc } : SpecialRegs) =
      { t.sr with cha := s.sr.cha, chd := s.sr.chd, chc := s.sr.chc, lru := s.sr.lru } := by rw [← h.lru]
  hlru.trans h.leaves.special

/-! ### LOADM and STOREM that complete (R434, R437) -/

/-- CHC.CR when LOADM or STOREM starts is the count it finds. -/
theorem State.startedSequence_last (s : State) (ctl ra : Byte) (b : Opnd) (load : Bool) :
    (s.startedSequence ctl ra b load).last = s.sr.chc.toNat / 2 ^ 16 % 2 ^ 8 := by
  have hml : ∀ k < 8, bitOf (0x4000 : Word) (16 + k) = false := by decide
  refine Nat.eq_of_testBit_eq fun k => ?_
  by_cases hk : k < 8
  · have hchc : bitOf (s.startedSequence ctl ra b load).chc (16 + k) = bitOf s.sr.chc (16 + k) := by
      rw [State.startedSequence, bitOf_or, hml k hk, Bool.or_false, s.bitOf_channelWord _ _ _ _ _ _ (by omega)]
      simp [show ¬ 24 ≤ 16 + k by omega, show 16 + k < 24 by omega, show ¬ 16 + k = 15 by omega,
        show ¬ 16 + k < 10 by omega]
    rw [Sequence.last_testBit _ hk, hchc, Nat.testBit_mod_two_pow, Nat.testBit_div_two_pow, decide_eq_true hk,
      Bool.true_and, Nat.add_comm]
    rfl
  · rw [Sequence.last, Nat.testBit_mod_two_pow, Nat.testBit_mod_two_pow, decide_eq_false hk, Bool.false_and,
      Bool.false_and]

/-- CHC at the end: CR, ML, NN and CV are 0 (log entry 46). -/
theorem State.startedSequence_ended (s : State) (ctl ra : Byte) (b : Opnd) (load : Bool) :
    let q := s.startedSequence ctl ra b load
    q.channel q.last &&& 0xFFFFBFFE &&& 0x00FF4003 = 0 := by
  intro q
  have hmask : ∀ i < 32,
      bitOf ((0xFFFFBFFE : Word) &&& 0x00FF4003) i = (decide (16 ≤ i ∧ i < 24) || decide (i = 1)) := by decide
  have hnn : bitOf q.chc 1 = false := by
    rw [show q.chc = _ ||| 0x4000 from rfl, bitOf_or, s.bitOf_channelWord _ _ _ _ _ _ (by decide)]; simp [bitOf]
  rw [BitVec.and_assoc]
  refine eq_of_bitOf fun i hi => ?_
  rw [bitOf_and, hmask i hi, q.bitOf_channel q.last hi, bitOf_zeroWord, Nat.sub_self, Nat.zero_testBit]
  by_cases h16 : 16 ≤ i ∧ i < 24
  · rw [if_neg (by omega), if_pos h16, Bool.false_and]
  · by_cases h1 : i = 1
    · rw [if_neg (by omega), if_neg h16, h1, hnn, Bool.false_and]
    · rw [decide_eq_false h16, decide_eq_false h1, Bool.or_false, Bool.and_false]

section
variable {i : Instr} {us : List RegUse} {s : State} {ctl ra : Byte} {b : Opnd} {load : Bool} {x : Xfer}
  {sp : Nat → Space} {p : Nat → Word}
  (he : exec i s = finish i.opcode (s.guarded (s.accessProtected ctl) us (s.multiple x)))
  (hx : (s.startedSequence ctl ra b load).Transfer s 0 x) (hlock : x.lock = false)
  (hreg : s.regStop (s.accessProtected ctl) us = none) (hf : s.frozen = false) (hmul : s.hz.multiple = false)
  (hctl : ctl.getLsbD 7 = false → ctl &&& 7 ≠ 1 ∧ ctl &&& 7 ≠ 2)
  (hm : ∀ j ≤ (s.startedSequence ctl ra b load).last, (s.startedSequence ctl ra b load).Made s (sp j) (p j) j)
include he hx hlock hreg hf hmul hctl hm

/-- A LOADM or STOREM whose transfers are all made completes. -/
theorem exec_sequence_completes : ∃ t, exec i s = .next t ∧ (s.startedSequence ctl ra b load).Completed s t sp p ∧
    s.AccessDone t ctl load (s.opnd b) ∧ t.sr.chc &&& 0x00FF4003 = 0 := by
  have hq : (s.startedSequence ctl ra b load).Told := s.startedSequence_told ctl ra b load
  obtain ⟨t, n, ht, hexec⟩ := exec_sequence he hx hlock hreg hf hmul hctl (le_refl _) fun j hj => hm j hj.le
  obtain ⟨w, hend, hpast, hleaves, hcha, hchc, hchd, hlru⟩ := ht.last hq hf (hm _ (le_refl _)) n
  rw [hend] at hexec
  have hstatus : (s.startedSequence ctl ra b load).status s.cps ((s.startedSequence ctl ra b load).last + 1) =
      if ctl.getLsbD 7 && ctl.getLsbD 5 then putBit s.cps 15 (!load) else s.cps := by
    rw [Sequence.status, decide_eq_true (Nat.succ_pos _), Bool.and_true]; rfl
  have halu : w.alu = s.aluAfter ctl (s.opnd b) s.frozen := by rw [hleaves.alu, if_neg (Nat.succ_ne_zero _), hf]; rfl
  refine ⟨_, hexec, ⟨hleaves.congr ?_ ?_ ?_ ?_ ?_, hcha, hchc, hchd, hlru⟩, ⟨⟨?_, ?_⟩, ?_, halu, hleaves.units⟩, ?_⟩
  · exact fun k => rfl
  · exact .of_eq rfl rfl rfl
  · rfl
  · exact ⟨rfl, rfl⟩
  · rfl
  · exact hpast.npc
  · exact congrArg (· + 4) hpast.npc
  · rw [← hstatus, ← hpast.cps]; exact State.tracedCps_of_bits hpast.bits
  · exact (congrArg (· &&& 0x00FF4003) hchc).trans (s.startedSequence_ended ctl ra b load)

end

/-- A load that no byte or half-word access makes takes the whole word (R160, R161). -/
theorem State.lanesRead_word {s : State} {c : Byte} (h : c.getLsbD 7 = false → c &&& 7 ≠ 1 ∧ c &&& 7 ≠ 2) (a w : Word) :
    s.lanesRead c a w = w := by
  have hsub : ∀ k : Byte, (c.getLsbD 7 = false → c &&& 7 ≠ k) →
      ¬ (bitOf s.sr.cfg 5 && c &&& 7 == k && !c.getLsbD 7) = true := by
    intro k hk
    rw [Bool.not_eq_true]
    cases hc : c.getLsbD 7
    · rw [beq_false_of_ne (hk hc), Bool.and_false, Bool.false_and]
    · rw [Bool.not_true, Bool.and_false]
  exact (if_neg (hsub 1 fun hc => (h hc).1)).trans (if_neg (hsub 2 fun hc => (h hc).2))

/-- Settles O21: the sequence of loads is complete, and each of its words is a whole one. -/
theorem loadMultipleCompletes : Obligations.LoadMultipleCompletes := by
  intro ctl ra b s sp p addr n reg hreg hf hctl hcp hmul hall
  have hn : (s.startedSequence ctl ra b true).last = n := s.startedSequence_last ctl ra b true
  have hunit : ¬ (s.startedSequence ctl ra b true).NoUnit s := fun ⟨hce, h⟩ => by rw [hcp hce] at h; cases h
  have hx : (s.startedSequence ctl ra b true).Transfer s 0 (s.loadXfer ctl ra b false false) :=
    ⟨rfl, rfl, rfl, rfl, by simp [State.loadXfer, State.startedSequence, Sequence.address], nofun⟩
  obtain ⟨t, hexec, hdone, haccess, hended⟩ := exec_sequence_completes (sp := sp) (p := p) (exec_loadm ctl ra b s) hx
    rfl hreg hf hmul hctl fun j hj => by
      obtain ⟨hl, hd, hb, hfault⟩ := hall j (hn ▸ hj)
      exact ⟨⟨hb, .inl hfault⟩, hunit, hl, hd⟩
  refine ⟨t, hexec, fun j hj hlast => ?_, fun m hm => ?_, hdone.leaves.memory rfl, haccess, hdone.special,
    hn ▸ hdone.cha, hended⟩
  · obtain ⟨w, hw, hv⟩ := hdone.leaves.loaded rfl j (by omega) fun k hk => hlast k (by omega)
    have hword : t.getGR (reg j) = w := hv.trans (State.lanesRead_word hctl _ w)
    rwa [hword]
  · exact hdone.leaves.others m fun _ j hj => hm j (by omega)

/-! ### The words that a sequence of stores leaves (R437) -/

theorem readWord_congr {m m' : Memory} {p : Word} (h : ∀ a, a / 4 = p.toNat / 4 → readByte m a = readByte m' a) :
    readWord m p = readWord m' p := by
  have hb := wordBase_eq p
  simp only [readWord]
  rw [h _ (by omega), h _ (by omega), h _ (by omega), h _ (by omega)]

/-- A store that is no byte or half-word access replaces a whole word of instruction/data memory. -/
theorem State.LanesStored.word {s t : State} {c : Byte} {p v : Word} (h : s.LanesStored t .idmem c p v)
    (hce : ctlCE c = false) (hc : c &&& 7 ≠ 1 ∧ c &&& 7 ≠ 2) (a : Nat) :
    readByte t.idmem a = readByte (writeWord s.idmem p v) a := by
  have h1 : ¬ ctlOPT c = 1 := fun e => hc.1 ((ctlOPT_iff c 1).1 e)
  have h2 : ¬ ctlOPT c = 2 := fun e => hc.2 ((ctlOPT_iff c 2).1 e)
  have hstore : s.storeMemory s.idmem c p v = writeWord s.idmem p v := by simp [State.storeMemory, h1, h2]
  rw [← hstore, s.readByte_storeMemory s.idmem p v hce a]
  exact ((s.lanesStored_iff t c p v).1 h a).1

/-- What a store leaves in the other memories. -/
theorem State.LanesStored.others {s t : State} {sp : Space} {c : Byte} {p v : Word} (h : s.LanesStored t sp c p v)
    (a : Nat) : readByte t.irom a = readByte s.irom a ∧ t.imem = s.imem := by
  cases sp with
  | idmem => exact ((s.lanesStored_iff t c p v).1 h a).2
  | _ => exact (h a).2

/-- A store changes no byte outside the word it goes to. -/
theorem State.LanesStored.outside {s t : State} {sp : Space} {c : Byte} {p v : Word} (h : s.LanesStored t sp c p v)
    (hce : sp = .idmem → ctlCE c = false) (hc : c.getLsbD 7 = false → c &&& 7 ≠ 1 ∧ c &&& 7 ≠ 2) {a : Nat}
    (ha : ¬ (sp = .idmem ∧ a / 4 = p.toNat / 4)) : readByte t.idmem a = readByte s.idmem a := by
  cases sp with
  | idmem =>
    have hne : ¬ a / 4 = p.toNat / 4 := fun e => ha ⟨rfl, e⟩
    have hb := wordBase_eq p
    rw [h.word (hce rfl) (hc (hce rfl)) a]
    exact readByte_writeWord_outside s.idmem p v a (by omega)
  | _ => exact (h a).1

section
variable {f : Nat → State} {sp : Nat → Space} {p v : Nat → Word} {c : Byte} {m : Nat}
  (hst : ∀ j < m, (f j).LanesStored (f (j + 1)) (sp j) c (p j) (v j))
include hst

/-- Stores one after another leave the other memories. -/
theorem storesInTurn_others (a : Nat) : readByte (f m).irom a = readByte (f 0).irom a ∧ (f m).imem = (f 0).imem := by
  induction m with
  | zero => exact ⟨rfl, rfl⟩
  | succ m ih =>
    obtain ⟨hrom, him⟩ := ih fun j hj => hst j (hj.trans m.lt_succ_self)
    obtain ⟨hrom', him'⟩ := (hst m m.lt_succ_self).others a
    exact ⟨hrom'.trans hrom, him'.trans him⟩

variable (hce : ∀ j < m, sp j = .idmem → ctlCE c = false) (hc : c.getLsbD 7 = false → c &&& 7 ≠ 1 ∧ c &&& 7 ≠ 2)
include hce hc

/-- A byte that none of the stores from one on goes to is as before that one. -/
theorem storesInTurn_outside {k : Nat} (hk : k ≤ m) {a : Nat}
    (ha : ∀ j < m, k ≤ j → ¬ (sp j = .idmem ∧ a / 4 = (p j).toNat / 4)) :
    readByte (f m).idmem a = readByte (f k).idmem a := by
  induction m with
  | zero => rw [Nat.le_zero.1 hk]
  | succ m ih =>
    rcases Nat.le_succ_iff.1 hk with hk' | rfl
    · have hlt := m.lt_succ_self
      rw [(hst m hlt).outside (hce m hlt) hc (ha m hlt hk')]
      exact ih (fun j hj => hst j (hj.trans hlt)) (fun j hj => hce j (hj.trans hlt)) hk' fun j hj => ha j (hj.trans hlt)
    · rfl

/-- A word that no later store goes to holds what was stored there. -/
theorem storesInTurn_word {j : Nat} (hj : j < m) (hsp : sp j = .idmem)
    (hlast : ∀ k < m, j < k → ¬ (sp k = .idmem ∧ (p k).toNat / 4 = (p j).toNat / 4)) :
    readWord (f m).idmem (p j) = v j := by
  have hstored := hst j hj
  rw [hsp] at hstored
  have hword := hce j hj hsp
  have hlater : ∀ a, a / 4 = (p j).toNat / 4 → readByte (f m).idmem a = readByte (f (j + 1)).idmem a := fun a ha =>
    storesInTurn_outside hst hce hc hj fun k hk hjk e => hlast k hk hjk ⟨e.1, e.2.symm.trans ha⟩
  calc readWord (f m).idmem (p j)
      = readWord (f (j + 1)).idmem (p j) := readWord_congr hlater
    _ = readWord (writeWord (f j).idmem (p j) (v j)) (p j) := readWord_congr fun a _ => hstored.word hword (hc hword) a
    _ = v j := readWord_writeWord ..

end

/-- Settles O22: the sequence of stores is complete, and each of its stores replaces a whole word. -/
theorem storeMultipleCompletes : Obligations.StoreMultipleCompletes := by
  intro ctl ra b s sp p addr n reg inWord hreg hf hctl hcp hmul hall
  have hn : (s.startedSequence ctl ra b false).last = n := s.startedSequence_last ctl ra b false
  have hunit : ¬ (s.startedSequence ctl ra b false).NoUnit s := fun ⟨hce, h⟩ => by rw [hcp hce] at h; cases h
  have hx : (s.startedSequence ctl ra b false).Transfer s 0 (s.storeXfer ctl ra b false) :=
    ⟨rfl, rfl, rfl, rfl, by simp [State.storeXfer, State.startedSequence, Sequence.address], fun _ => rfl⟩
  obtain ⟨t, hexec, hdone, haccess, hended⟩ := exec_sequence_completes (sp := sp) (p := p) (exec_storem ctl ra b s) hx
    rfl hreg hf hmul hctl fun j hj => by
      obtain ⟨hl, hd, hb, hfault⟩ := hall j (hn ▸ hj)
      exact ⟨⟨hb, hfault.imp_right fun h => ⟨rfl, h⟩⟩, hunit, hl, hd⟩
  obtain ⟨f, h0, hmem, hst⟩ := hdone.leaves.stored rfl
  rw [hn] at hmem hst
  have hce : ∀ j < n + 1, sp j = .idmem → ctlCE ctl = false := fun j hj e => by
    obtain ⟨⟨u, hl⟩, -⟩ := hall j (by omega)
    rw [e] at hl
    exact State.locate_found_memory (x := (s.startedSequence ctl ra b false).xfer j) hl
  have hturn := fun j (hj : j < n + 1) => (hst j hj).2
  refine ⟨t, hexec, fun k _ => hdone.leaves.source rfl k, fun j hj hsp hlast => ?_, fun a ha => ?_, fun a => ?_, ?_,
    haccess, hdone.special, hn ▸ hdone.cha, hended⟩
  · have hw := storesInTurn_word hturn hce hctl (by omega : j < n + 1) hsp fun k hk => hlast k (by omega)
    rw [readWord_congr fun a _ => (hmem a).1]
    exact hw
  · rw [(hmem a).1, storesInTurn_outside hturn hce hctl (Nat.zero_le _) fun j hj _ => ha j (by omega), h0]
  · rw [(hmem a).2.1, (storesInTurn_others hturn a).1, h0]
  · rw [(hmem 0).2.2, (storesInTurn_others hturn 0).2, h0]

end Sys2Proof.Machine

namespace Sys2Proof.Machine

/-! ### The state an interrupt return goes on in (48_miscellaneous.md R606) -/

/-- CPS after an interrupt return: OPS, or in Monitor mode CPS without MM. -/
def State.returnStatus (s : State) : Word := if s.mm then s.cps &&& 0xFFFEFFFF else s.sr.ops &&& 0x0000BFFF

/-- The state that looks up the places of its accesses. -/
def State.returning (s : State) : State := { s with cps := s.returnStatus }

/-- The two addresses returned to. -/
def State.returnPc (s : State) : Word := alignWord (if s.mm then s.sr.spc1 else s.sr.pc1)
/-- The second of them. -/
def State.returnNpc (s : State) : Word := alignWord (if s.mm then s.sr.spc0 else s.sr.pc0)

/-- An interrupt return leaves Monitor mode. -/
theorem State.returnStatus_monitor (s : State) : bitOf s.returnStatus 16 = false := by
  have hmm : bitOf (0xFFFEFFFF : Word) 16 = false := by decide
  have hops : bitOf (0x0000BFFF : Word) 16 = false := by decide
  unfold State.returnStatus
  split_ifs
  · rw [bitOf_and, hmm, Bool.and_false]
  · rw [bitOf_and, hops, Bool.and_false]

/-- `v` goes on after an interrupt return in `s`: control and CPS are those returned to, and what programs hold, where
accesses go and how the platform answers them are as they were. -/
structure State.Resumes (s v : State) : Prop where
  pc : v.pc = s.returnPc
  npc : v.npc = s.returnNpc
  cps : v.cps = s.returnStatus
  regs : ∀ n, v.getGR n = s.getGR n
  idmem : v.idmem = s.idmem
  irom : v.irom = s.irom
  imem : v.imem = s.imem
  sr : v.sr = s.sr
  alu : v.alu = s.alu
  acc : v.acc = s.acc
  tlb : v.tlb = s.tlb
  ps : v.hz.ps = s.hz.ps
  holes : v.holes = s.holes
  cur : v.cur = s.cur
  accesses : v.accesses = s.accesses
  oldFetch : v.oldFetch = []

theorem State.restoreContext_resumes (s : State) (invalidate : Bool) : s.Resumes (s.restoreContext invalidate) where
  pc := rfl
  npc := rfl
  cps := rfl
  regs := fun _ => rfl
  idmem := rfl
  irom := rfl
  imem := rfl
  sr := rfl
  alu := rfl
  acc := rfl
  tlb := rfl
  ps := rfl
  holes := rfl
  cur := rfl
  accesses := rfl
  oldFetch := rfl

section
variable {s v : State} (h : s.Resumes v)
include h

/-- Usage bits, free values and instructions fetched early are no part of it. -/
theorem State.Resumes.withFetch (l : Vector Bool 32) (n : Nat) (es : List EarlyFetch) :
    s.Resumes { v with tlbUsage := l, fresh := n, early := es } :=
  ⟨h.pc, h.npc, h.cps, h.regs, h.idmem, h.irom, h.imem, h.sr, h.alu, h.acc, h.tlb, h.ps, h.holes, h.cur,
    h.accesses, h.oldFetch⟩

/-- The fetches at the two addresses change nothing of it. -/
theorem State.Resumes.fetchReturned : s.Resumes v.fetchReturned := by
  obtain ⟨u, n, he⟩ := v.fetchReturned_eq
  rw [he]
  exact h.withFetch u n _

/-- Accesses go where they go with the CPS returned to. -/
theorem State.Resumes.map : s.returning.SameMap v :=
  ⟨by rw [h.sr]; rfl, by rw [h.sr]; rfl, by rw [h.sr]; rfl, by rw [h.sr]; rfl, by rw [h.sr]; rfl, h.tlb,
    fun k _ => by rw [h.cps]; rfl, h.ps, h.holes⟩

theorem State.Resumes.memory : s.SameMemory v := .of_eq h.idmem h.irom h.imem

theorem State.Resumes.frozen : v.frozen = bitOf s.returnStatus 10 := by
  rw [State.frozen, State.mm, h.cps, s.returnStatus_monitor, Bool.or_false]

/-- Control goes on at PC1 then PC0, or from Monitor mode at SPC1 then SPC0. -/
theorem State.Resumes.back {t : State} (hp : t.pc = v.pc) (hn : t.npc = v.npc) :
    (s.mm = false → t.pc = s.sr.pc1 &&& 0xFFFFFFFC ∧ t.npc = s.sr.pc0 &&& 0xFFFFFFFC) ∧
    (s.mm = true → t.pc = s.sr.spc1 &&& 0xFFFFFFFC ∧ t.npc = s.sr.spc0 &&& 0xFFFFFFFC) := by
  rw [hp, hn, h.pc, h.npc, State.returnPc, State.returnNpc]
  refine ⟨fun hm => ?_, fun hm => ?_⟩
  · rw [hm]; exact ⟨rfl, rfl⟩
  · rw [hm]; exact ⟨rfl, rfl⟩

end

/-! ### How an interrupt return ends (R606) -/

/-- What an interrupt return answers when its access ends. -/
def AccessEnd.returns : AccessEnd → Out
  | .done t => .next (Done.returned t).advance
  | .derr t => .next (Done.returned { t with derrLeft := 0 }).advance
  | .trap vn t => t.takeRestartTrap vn
  | .fault f => .fault f

/-- R782: a return to translated addresses right after MMU.PS changed. -/
def State.ReturnHazard (s : State) : Prop :=
  s.hz.ps = true ∧ bitOf s.returnStatus 5 = false ∧ bitOf s.returnStatus 8 = false

/-- The addresses returned to are translated with PI = 0 and RE = 0. -/
theorem State.restoreContext_targetTranslated (s : State) (invalidate : Bool) :
    (s.restoreContext invalidate).targetTranslated = (!bitOf s.returnStatus 5 && !bitOf s.returnStatus 8) := by
  have hv := s.restoreContext_resumes invalidate
  have hold : (s.restoreContext invalidate).ageOldFetch.oldFetch = [] := by rw [State.ageOldFetch, hv.oldFetch]; rfl
  obtain ⟨hre, hpi, -⟩ := State.fetch_bits hold
  have hcps : (s.restoreContext invalidate).ageOldFetch.cps = s.returnStatus := hv.cps
  rw [State.targetTranslated, hre, hpi, State.ePI, State.eRE, State.mm, hcps, s.returnStatus_monitor, Bool.or_false,
    Bool.or_false]

section
variable {s : State} (hu : s.user = false) (hf : s.frozen = true)
include hu hf

/-- A return to translated addresses right after MMU.PS changed faults (U25; log entry 58). -/
theorem interruptReturn_hazard (i : Instr) (invalidate : Bool) (h : s.ReturnHazard) :
    interruptReturn i invalidate s = .fault .hazardPageSize := by
  obtain ⟨hps, hpi, hre⟩ := h
  have hstop : s.regStop s.user [] = none := by rw [hu]; rfl
  rw [interruptReturn, hstop, hf, hps, s.restoreContext_targetTranslated, hpi, hre]; rfl

variable (hps : ¬ s.ReturnHazard)
include hps

/-- Otherwise it ends as its access does. -/
theorem interruptReturn_ends (i : Instr) (invalidate : Bool) :
    interruptReturn i invalidate s = ((s.restoreContext invalidate).restartAccess).returns := by
  have hstop : s.regStop s.user [] = none := by rw [hu]; rfl
  have hready : (s.hz.ps && (s.restoreContext invalidate).targetTranslated) = false := by
    rw [s.restoreContext_targetTranslated]
    by_contra hh
    exact hps (by simpa [State.ReturnHazard] using hh)
  rw [interruptReturn, hstop, hf, hready]
  cases (s.restoreContext invalidate).restartAccess <;> rfl

theorem exec_iret : exec .iret s = ((s.restoreContext false).restartAccess).returns :=
  interruptReturn_ends hu hf hps .iret false

theorem exec_iretinv : exec .iretinv s = ((s.restoreContext true).restartAccess).returns :=
  interruptReturn_ends hu hf hps .iretinv true

/-- Both instructions fault. -/
theorem exec_return_stops {f : Fault} (h : ∀ inv, (s.restoreContext inv).restartAccess = .fault f) :
    exec .iret s = .fault f ∧ exec .iretinv s = .fault f :=
  ⟨by rw [exec_iret hu hf hps, h]; rfl, by rw [exec_iretinv hu hf hps, h]; rfl⟩

/-- Both instructions take the trap of their access (log entries 25 and 53). -/
theorem exec_return_traps {vn : Byte} {P : State → Prop} (h : ∀ inv, ∃ t,
    (s.restoreContext inv).restartAccess = .trap vn t ∧ P { t with fresh := t.fresh + 1 }) :
    ∀ i ∈ [Instr.iret, Instr.iretinv], ∃ (w : State) (e : Word),
      exec i s = ({ w with sr := { w.sr with exop := e &&& 0xFF } } : State).takeTrap vn .async ∧ P w := by
  intro i hi
  have hexec : ∃ inv, exec i s = ((s.restoreContext inv).restartAccess).returns := by
    rcases List.mem_pair.1 hi with rfl | rfl
    · exact ⟨false, exec_iret hu hf hps⟩
    · exact ⟨true, exec_iretinv hu hf hps⟩
  obtain ⟨inv, hexec⟩ := hexec
  obtain ⟨t, ht, hP⟩ := h inv
  exact ⟨_, Config.freeWord t.fresh, by rw [hexec, ht]; rfl, hP⟩

end

end Sys2Proof.Machine

namespace Sys2Proof.Machine

/-! ### What an access leaves of the fetching (R605, R606) -/

/-- The Branch Target Cache and the instructions fetched early are as before. -/
def State.SameFetch (s t : State) : Prop := t.btc = s.btc ∧ t.early = s.early

/-- The state in which an access ends, if it ends in one. -/
def AccessEnd.In (P : State → Prop) : AccessEnd → Prop
  | .done t => P t
  | .derr t => P t
  | .trap _ t => P t
  | .fault _ => True

theorem AccessEnd.In.mono {P Q : State → Prop} {e : AccessEnd} (h : e.In P) (k : ∀ t, P t → Q t) : e.In Q := by
  cases e with
  | fault => exact trivial
  | _ => exact k _ h

theorem State.SameFetch.trans {s t u : State} (h : s.SameFetch t) (k : t.SameFetch u) : s.SameFetch u :=
  ⟨k.1.trans h.1, k.2.trans h.2⟩

theorem State.writeSpace_sameFetch (s : State) (sp : Space) (c : Byte) (p v : Word) :
    s.SameFetch (s.writeSpace sp c p v) := by
  cases sp
  · exact ⟨State.overtake_btc .., State.overtake_early ..⟩
  all_goals exact ⟨rfl, rfl⟩

theorem State.afterLoad_sameFetch (s : State) (x : Xfer) (sp : Space) (p : Word) :
    s.SameFetch (s.afterLoad x sp p) := by
  obtain ⟨w, n, hr, -⟩ := s.bumpAccess.readSpace_answers sp p
  rw [State.afterLoad, hr]
  exact ⟨State.putGR_btc .., State.putGR_early ..⟩

theorem State.derrReply_sameFetch (s : State) (x : Xfer) : s.SameFetch (s.bumpAccess.derrReply x) :=
  ⟨State.derrReply_btc .., State.derrReply_early ..⟩

theorem State.afterAccess_sameFetch (s : State) (x : Xfer) : s.SameFetch (s.afterAccess x) :=
  ⟨State.afterAccess_btc .., State.afterAccess_early ..⟩

/-- The access at its place. -/
theorem State.performAt_sameFetch (s : State) (x : Xfer) (sp : Space) (p : Word) :
    (s.performAt x sp p).In s.SameFetch := by
  have hwrite (t : State) (v : Word) : t.SameFetch ((t.bumpAccess.writeSpace sp x.ctl p v).afterAccess x) :=
    (t.bumpAccess.writeSpace_sameFetch sp x.ctl p v).trans (State.afterAccess_sameFetch _ x)
  have hload := s.afterLoad_sameFetch x sp p
  by_cases hd : s.cur.derr = some s.accesses
  · rw [State.performAt_fails hd]; exact s.derrReply_sameFetch x
  · cases hl : x.load with
    | false => rw [State.performAt_store (State.derrNext_false hd) hl]; exact hwrite s x.data
    | true =>
      rw [State.performAt_afterLoad hd hl]
      split
      · unfold State.setHalf
        split
        · exact hload.trans (State.derrReply_sameFetch _ x)
        · exact hload.trans (hwrite _ _)
      · exact hload.trans (State.afterAccess_sameFetch _ x)

theorem State.sameMap_refl (s : State) : s.SameMap s := ⟨rfl, rfl, rfl, rfl, rfl, rfl, fun _ _ => rfl, rfl, rfl⟩

/-- Finding a place for an access, or none, writes Usage bits only. -/
theorem State.locate_usageOnly {s u : State} {x : Xfer}
    (h : (∃ sp p, s.locate x = .found sp p u) ∨ s.locate x = .absent u) : u = { s with tlbUsage := u.tlbUsage } := by
  rcases h with ⟨sp, p, h⟩ | h
  · obtain ⟨w, hw, he, -⟩ := State.locate_found h s.sameMap_refl rfl rfl rfl
    obtain rfl : u = w := by rw [h] at hw; cases hw; rfl
    exact he
  · obtain ⟨w, hw, he, -⟩ := State.locate_absent h s.sameMap_refl rfl rfl rfl
    obtain rfl : u = w := by rw [h] at hw; cases hw; rfl
    exact he

/-- A trap for want of a place writes LRU, the Usage bits and the number of the next free value. -/
theorem State.locate_lruOnly {s u : State} {x : Xfer} {vn : Byte} (h : s.locate x = .trap vn u) : s.LruOnly u := by
  obtain ⟨w, hw, he⟩ := State.locate_trap h s.sameMap_refl rfl rfl rfl
  obtain rfl : u = w := by rw [h] at hw; cases hw; rfl
  exact he

/-- Any access. -/
theorem State.access_sameFetch (s : State) (x : Xfer) : (s.access x).In s.SameFetch := by
  unfold State.access
  split
  · exact ⟨rfl, rfl⟩
  · split
    case h_1 sp p t ht =>
      have he := State.locate_usageOnly (.inl ⟨sp, p, ht⟩)
      exact (t.performAt_sameFetch x sp p).mono fun u hu => State.SameFetch.trans (by rw [he]; exact ⟨rfl, rfl⟩) hu
    case h_2 t ht =>
      have he := State.locate_usageOnly (.inr ht)
      exact State.SameFetch.trans (by rw [he]; exact ⟨rfl, rfl⟩) (t.derrReply_sameFetch x)
    case h_3 vn t ht =>
      have he : t = _ := State.locate_lruOnly ht
      exact ⟨by rw [he], by rw [he]⟩
    case h_4 => exact trivial

/-- Any sequence. -/
theorem transferLoop_sameFetch (n : Nat) (check : Bool → Byte → Option Fault) (s : State) :
    (transferLoop n check s).In s.SameFetch := by
  induction n generalizing check s with
  | zero => exact ⟨rfl, rfl⟩
  | succ n ih =>
    have hdata : s.SameFetch (s.transferData s.transfer) := ⟨State.transferData_btc .., State.transferData_early ..⟩
    have haccess := ((s.transferData s.transfer).access_sameFetch s.transfer).mono fun _ h => hdata.trans h
    rw [transferLoop]
    split
    · exact ⟨rfl, rfl⟩
    · dsimp only
      split
      · exact trivial
      · split
        case h_1 t ht =>
          rw [ht] at haccess
          split
          · exact haccess.trans ⟨rfl, rfl⟩
          · exact (ih sequenceFault t.nextTransfer).mono fun _ h => State.SameFetch.trans haccess (.trans ⟨rfl, rfl⟩ h)
        case h_2 => exact haccess

/-- All words of the Branch Target Cache are invalid (R605). -/
def State.CacheEmpty (t : State) : Prop := ∀ (f : Fin 128) (k : Fin 4), (t.btc.blocks[f]).words[k] = none

theorem State.restoreContext_cacheEmpty (s : State) : (s.restoreContext true).CacheEmpty := by
  have hb : (s.restoreContext true).btc = s.btc.invalidate := rfl
  intro f k
  rw [hb]
  simp [Btc.invalidate]

/-- An interrupt return makes its access, if any, without a change of the Branch Target Cache. -/
theorem State.restartAccess_btc (s : State) : (s.restartAccess).In fun t => t.btc = s.btc := by
  unfold State.restartAccess
  split
  · exact rfl
  · split
    · split
      · exact trivial
      · obtain ⟨u, n, he⟩ := s.fetchReturned_eq
        have hloop := transferLoop_sameFetch (s.fetchReturned.countRemaining + 1) startFault s.fetchReturned
        have hbtc : s.fetchReturned.btc = s.btc := by rw [he]
        have hrun : s.fetchReturned.runSequence.In fun t => t.btc = s.btc := hloop.mono fun t h => h.1.trans hbtc
        cases hr : s.fetchReturned.runSequence <;> rw [hr] at hrun <;> exact hrun
    · dsimp only
      split
      · exact trivial
      · have haccess := (s.access_sameFetch s.recorded).mono fun _ h => h.1
        split
        case h_1 t ht => rw [ht] at haccess; exact (State.endChannel_btc t).trans haccess
        case h_2 => exact haccess

section
variable {s : State} (hu : s.user = false) (hf : s.frozen = true) (hps : ¬ s.ReturnHazard)
include hu hf hps

/-- Both instructions go on where each answers a state that has kept the Branch Target Cache. -/
theorem exec_return_both {P : State → Prop} (h : ∀ inv, ∃ t, ((s.restoreContext inv).restartAccess).returns = .next t ∧
    P t ∧ t.btc = (s.restoreContext inv).btc) :
    (∃ t, exec .iret s = .next t ∧ P t) ∧ ∃ t, exec .iretinv s = .next t ∧ P t ∧ t.CacheEmpty := by
  obtain ⟨t, ht, hP, -⟩ := h false
  obtain ⟨t', ht', hP', hb⟩ := h true
  refine ⟨⟨t, by rw [exec_iret hu hf hps, ht], hP⟩, t', by rw [exec_iretinv hu hf hps, ht'], hP', ?_⟩
  unfold State.CacheEmpty
  rw [hb]
  exact s.restoreContext_cacheEmpty

/-- Both instructions complete. -/
theorem exec_return_done {P : State → Prop} (h : ∀ inv, ∃ t, (s.restoreContext inv).restartAccess = .done t ∧
    P (Done.returned t).advance) :
    (∃ t, exec .iret s = .next t ∧ P t) ∧ ∃ t, exec .iretinv s = .next t ∧ P t ∧ t.CacheEmpty := by
  refine exec_return_both hu hf hps fun inv => ?_
  obtain ⟨t, ht, hP⟩ := h inv
  have hb := (s.restoreContext inv).restartAccess_btc
  rw [ht] at hb ⊢
  exact ⟨_, rfl, hP, hb⟩

/-- Both instructions complete with the exception of a DERR answer due at once. -/
theorem exec_return_derr {P : State → Prop} (h : ∀ inv, ∃ t, (s.restoreContext inv).restartAccess = .derr t ∧
    P (Done.returned { t with derrLeft := 0 }).advance) :
    (∃ t, exec .iret s = .next t ∧ P t) ∧ ∃ t, exec .iretinv s = .next t ∧ P t ∧ t.CacheEmpty := by
  refine exec_return_both hu hf hps fun inv => ?_
  obtain ⟨t, ht, hP⟩ := h inv
  have hb := (s.restoreContext inv).restartAccess_btc
  rw [ht] at hb ⊢
  exact ⟨_, rfl, hP, hb⟩

end

end Sys2Proof.Machine

namespace Sys2Proof.Machine

/-! ### What finding a place writes, in another state with the same map (20_memory.md R176 to R181) -/

/-- The state `v` with what finding a place has written in `u`: LRU, the Usage bits and the number of the next free
value. -/
def State.onto (v u : State) : State := { v with sr := u.sr, tlbUsage := u.tlbUsage, fresh := u.fresh }

/-- A translation as another state answers it. -/
def Translated.onto (v : State) : Translated → Translated
  | .ok p io u => .ok p io (v.onto u)
  | .miss u => .miss (v.onto u)
  | .violation u => .violation (v.onto u)
  | .fault f => .fault f

/-- The place of an access as another state finds it. -/
def Located.onto (v : State) : Located → Located
  | .found sp p u => .found sp p (v.onto u)
  | .absent u => .absent (v.onto u)
  | .trap vn u => .trap vn (v.onto u)
  | .fault f => .fault f

@[simp] theorem State.onto_sr (v u : State) : (v.onto u).sr = u.sr := rfl

theorem State.protect_onto (v u : State) (w : Word) (user : Bool) (k : AccessKind) (p : Word) (io : Bool) :
    (v.onto u).protect w user k p io = (u.protect w user k p io).onto v := by
  unfold State.protect; split_ifs <;> rfl

theorem State.place_onto {v u : State} (h : v.holes = u.holes) (sp : Space) (p : Word) :
    (v.onto u).place sp p = (u.place sp p).onto v := by
  have he : (v.onto u).missing sp.map p = u.missing sp.map p := by simp [State.missing, State.onto, h]
  rw [State.place, he, State.place]
  split_ifs <;> rfl

section
variable {u v : State} (m : u.SameMap v)
include m

theorem State.SameMap.translate_onto (a : Word) (user : Bool) (k : AccessKind) :
    (v.onto u).translate a user k = (u.translate a user k).onto v := by
  have hw : ∀ n, (v.onto u).tlbWord n = u.tlbWord n := fun n => by simp [State.tlbWord, State.onto, m.tlb]
  have huse : ∀ l b, (v.onto u).useSet l b = v.onto (u.useSet l b) := fun _ _ => rfl
  have hsize : (v.onto u).pageSize = u.pageSize := rfl
  have hpn : (v.onto u).processNumber user = u.processNumber user := rfl
  unfold State.translate State.tlbTranslate
  simp only [State.onto_sr, hw, huse, hsize, hpn, State.protect_onto]
  split_ifs <;> rfl

theorem State.SameMap.unaligned_onto (c : Byte) (a : Word) : (v.onto u).unaligned c a = u.unaligned c a := by
  have htu : (v.onto u).tu = u.tu := m.cps 11 (by decide)
  rw [State.unaligned, htu, State.unaligned]

theorem State.SameMap.memoryPlace_onto (c : Byte) (a p : Word) :
    (v.onto u).memoryPlace c a p = (u.memoryPlace c a p).onto v := by
  rw [State.memoryPlace, m.unaligned_onto, State.memoryPlace]
  split_ifs
  · rfl
  · exact State.place_onto m.holes ..

/-- A map stays one when a translation has written the Usage bits. -/
theorem State.SameMap.usage {l : Vector Bool 32} : ({ u with tlbUsage := l } : State).SameMap v :=
  ⟨m.rma0, m.rmc0, m.rma1, m.rmc1, m.mmu, m.tlb, m.cps, m.ps, m.holes⟩

/-- An access has one outcome in both states, and finding its place writes the same in both. -/
theorem State.SameMap.locate_onto (x : Xfer) : (v.onto u).locate x = (u.locate x).onto v := by
  have hps : (v.onto u).hz.ps = u.hz.ps := m.ps
  have hmm : v.mm = u.mm := m.cps 16 (by decide)
  have hpd : (v.onto u).ePD = u.ePD := by
    rw [State.ePD, State.ePD, ← hmm]; exact congrArg (· || v.mm) (m.cps 6 (by decide))
  have htr : (v.onto u).dataTranslated x.ctl = u.dataTranslated x.ctl := by
    rw [State.dataTranslated, hpd, State.dataTranslated]
  have huser : (v.onto u).user = u.user := State.user_congr m.cps
  have hdata : (v.onto u).dataUser x.ctl = u.dataUser x.ctl := by rw [State.dataUser, huser, State.dataUser]
  cases hce : ctlCE x.ctl with
  | true => rw [State.locate_coprocessor hce, State.locate_coprocessor hce, State.place_onto m.holes]
  | false =>
    by_cases ht : u.dataTranslated x.ctl = true
    · cases hz : u.hz.ps with
      | true => rw [State.locate_hazard hce ht hz, State.locate_hazard hce (htr.trans ht) (hps.trans hz)]; rfl
      | false =>
        rw [State.locate_translated hce ht hz, State.locate_translated hce (htr.trans ht) (hps.trans hz), hdata,
          m.translate_onto]
        cases hr : u.translate x.addr (u.dataUser x.ctl) x.kind with
        | ok p io t =>
          obtain ⟨l, rfl⟩ := State.translate_ok hr
          cases io
          · exact m.usage.memoryPlace_onto ..
          · exact State.place_onto (u := { u with tlbUsage := l }) m.holes ..
        | miss t => exact congrArg (fun b : Bool => Located.trap (if b then 9 else 11) (v.onto t)) huser
        | violation t => rfl
        | fault f => rfl
    · rw [State.locate_untranslated hce ht, State.locate_untranslated hce (htr ▸ ht)]
      split_ifs
      · exact State.place_onto m.holes ..
      · exact m.memoryPlace_onto ..

end

end Sys2Proof.Machine

namespace Sys2Proof.Machine

/-! ### The single access that an interrupt return restarts (60_exceptions.md R691) -/

/-- The end of a restarted single access: CHC.CV becomes 0 when it completes. -/
def AccessEnd.restarted : AccessEnd → AccessEnd
  | .done t => .done t.endChannel
  | e => e

theorem sequenceFault_none {r : Byte} (load : Bool) (h : r = 1#8 ∨ 64 ≤ r.toNat) : sequenceFault load r = none := by
  have hall : ∀ b : Byte, b = 1#8 ∨ 64 ≤ b.toNat → sequenceFault true b = none := by decide
  exact hall r h

theorem State.access_of_trapped {s t : State} {x : Xfer} {vn : Byte} (hp : (ctlCE x.ctl && !s.cp) = false)
    (h : s.locate x = .trap vn t) : s.access x = .trap vn t := by
  rw [State.access, hp, if_neg (by decide), h]

theorem State.access_of_missing {s t : State} {x : Xfer} (hp : (ctlCE x.ctl && !s.cp) = false)
    (h : s.locate x = .absent t) : s.access x = .derr (t.bumpAccess.derrReply x) := by
  rw [State.access, hp, if_neg (by decide), h]

theorem State.access_of_fault {s : State} {x : Xfer} {f : Fault} (hp : (ctlCE x.ctl && !s.cp) = false)
    (h : s.locate x = .fault f) : s.access x = .fault f := by
  rw [State.access, hp, if_neg (by decide), h]

section
variable (s : State) (inv : Bool)

/-- A restarted access finds its place as it does with the CPS returned to. -/
theorem State.restoreContext_locate (x : Xfer) :
    (s.restoreContext inv).locate x = (s.returning.locate x).onto (s.restoreContext inv) :=
  (s.restoreContext_resumes inv).map.locate_onto x

/-- The state in which a restarted access is made: its translation has left `l` as the Usage bits. -/
def State.restarting (l : Vector Bool 32) : State := { s.restoreContext inv with tlbUsage := l }

theorem State.restarting_resumes (l : Vector Bool 32) : s.Resumes (s.restarting inv l) :=
  (s.restoreContext_resumes inv).withFetch l _ _

end

section
variable {s u : State} {inv : Bool} {sp : Space} {p : Word}

/-- CHC tells a single access that is valid and needed, and that a load may have its register. -/
structure State.TellsSingle (s : State) : Prop where
  cv : bitOf s.sr.chc 0 = true
  nn : bitOf s.sr.chc 1 = false
  ml : bitOf s.sr.chc 14 = false
  reg : s.recorded.load = true → s.recorded.reg = 1#8 ∨ 64 ≤ s.recorded.reg.toNat

theorem State.TellsSingle.restartAccess (h : s.TellsSingle) (inv : Bool) :
    (s.restoreContext inv).restartAccess = ((s.restoreContext inv).access s.recorded).restarted := by
  have hx : (s.restoreContext inv).recorded = s.recorded := rfl
  have hcv : (s.restoreContext inv).cv = true := h.cv
  have hnn : (s.restoreContext inv).nn = false := h.nn
  have hml : (s.restoreContext inv).ml = false := h.ml
  have hfault : (if s.recorded.load then sequenceFault true s.recorded.reg else none) = none := by
    split_ifs with hl
    · exact sequenceFault_none true (h.reg hl)
    · rfl
  rw [State.restartAccess, hcv, hnn, hml, hx]
  simp only [hfault, Bool.not_true, Bool.or_false, Bool.false_eq_true, if_false]
  cases (s.restoreContext inv).access s.recorded <;> rfl

variable (hcp : s.recorded.ctl.getLsbD 7 = true → bitOf s.sr.cfg 1 = true)
include hcp

theorem State.restoreContext_unit (inv : Bool) : (ctlCE s.recorded.ctl && !(s.restoreContext inv).cp) = false :=
  State.noUnit_false (s := s) hcp rfl

theorem State.restoreContext_access_found (hl : s.returning.locate s.recorded = .found sp p u) :
    (s.restoreContext inv).access s.recorded = (s.restarting inv u.tlbUsage).performAt s.recorded sp p :=
  State.access_found hl hcp (s.restoreContext_resumes inv).map rfl rfl

/-- A restarted access that the platform answers with DERR (R660). -/
theorem State.restoreContext_access_fails
    (hl : s.returning.locate s.recorded = .found sp p u ∧ s.cur.derr = some s.accesses ∨
      s.returning.locate s.recorded = .absent u) : (s.restoreContext inv).access s.recorded =
      .derr ((s.restarting inv u.tlbUsage).bumpAccess.derrReply s.recorded) := by
  rcases hl with ⟨hl, hd⟩ | hl
  · rw [State.restoreContext_access_found hcp hl]
    exact State.performAt_fails hd
  · have hloc := s.restoreContext_locate inv s.recorded
    rw [hl] at hloc
    have hu : (s.restoreContext inv).onto u = s.restarting inv u.tlbUsage := by
      rw [State.locate_usageOnly (.inr hl)]; rfl
    rw [State.access_of_missing (State.restoreContext_unit hcp inv) hloc, hu]

theorem State.restoreContext_access_trap {vn : Byte} (hl : s.returning.locate s.recorded = .trap vn u) :
    (s.restoreContext inv).access s.recorded = .trap vn ((s.restoreContext inv).onto u) :=
  State.access_of_trapped (State.restoreContext_unit hcp inv)
    ((s.restoreContext_locate inv s.recorded).trans (congrArg (Located.onto _) hl))

theorem State.restoreContext_access_fault {f : Fault} (hl : s.returning.locate s.recorded = .fault f) :
    (s.restoreContext inv).access s.recorded = .fault f :=
  State.access_of_fault (State.restoreContext_unit hcp inv)
    ((s.restoreContext_locate inv s.recorded).trans (congrArg (Located.onto _) hl))

end

/-! ### What a restarted access leaves -/

/-- The accumulators and the TLB are as before, and the Usage bits are `l`. -/
def State.UnitsWith (s t : State) (l : Vector Bool 32) : Prop := t.acc = s.acc ∧ t.tlb = s.tlb ∧ t.tlbUsage = l

section
variable {s v t : State} {x : Xfer} (h : s.Resumes v)
include h

/-- What every restarted access that completes leaves. -/
theorem State.Resumes.accessed (k : v.Accessed t x) :
    let w := (Done.returned t.endChannel).advance
    w.pc = v.pc ∧ w.npc = v.npc ∧
      w.cps = (if x.ctl.getLsbD 7 && x.ctl.getLsbD 5 then putBit s.returnStatus 15 (!x.load) else s.returnStatus) ∧
      w.alu = s.aluAfter x.ctl x.addr (bitOf s.returnStatus 10) ∧ s.UnitsWith w v.tlbUsage ∧
      w.sr = if bitOf s.returnStatus 10 then s.sr else { s.sr with chc := putBit s.sr.chc 0 false } := by
  refine ⟨?_, ?_, ?_, ?_, ⟨?_, ?_, ?_⟩, ?_⟩
  · exact (State.endChannel_pc t).trans k.pc
  · exact (State.endChannel_npc t).trans k.npc
  · rw [Done.advance_returned_cps, State.endChannel_cps, k.cps, State.cpsAfter, h.cps]
  · rw [← h.frozen]
    exact ((State.endChannel_alu t).trans k.alu).trans (State.aluAfter_congr h.alu (by rw [h.sr]) ..)
  · exact ((State.endChannel_acc t).trans k.acc).trans h.acc
  · exact ((State.endChannel_tlb t).trans k.tlb).trans h.tlb
  · exact (State.endChannel_tlbUsage t).trans k.tlbUsage
  · rw [Done.advance_returned_sr, t.endChannel_sr, k.frozen, h.frozen, k.sr, h.sr]

/-- What DERR leaves, in a state that differs by data. -/
theorem State.Resumes.failed (k : v.DataOnly t) :
    let w := (Done.returned { t.derrReply x with derrLeft := 0 }).advance
    w.pc = v.pc ∧ w.npc = v.npc ∧ w.cps = s.returnStatus ∧ w.alu = s.alu ∧ s.UnitsWith w v.tlbUsage ∧
      w.derrEvent = some (if x.ctl.getLsbD 7 then 4 else 7) ∧ w.derrLeft = 0 ∧
      w.sr = if bitOf s.returnStatus 10 then s.sr else { s.sr with chc := putBit s.sr.chc 10 true } := by
  have hf : t.frozen = v.frozen := State.frozen_congr fun n _ => by rw [k.cps]
  refine ⟨?_, ?_, ?_, ?_, ⟨?_, ?_, ?_⟩, t.derrReply_derrEvent x, rfl, ?_⟩
  · exact (State.derrReply_pc t x).trans k.pc
  · exact (State.derrReply_npc t x).trans k.npc
  · exact ((State.derrReply_cps t x).trans k.cps).trans h.cps
  · exact ((State.derrReply_alu t x).trans k.alu).trans h.alu
  · exact ((State.derrReply_acc t x).trans k.acc).trans h.acc
  · exact ((State.derrReply_tlb t x).trans k.tlb).trans h.tlb
  · exact (State.derrReply_tlbUsage t x).trans k.tlbUsage
  · rw [← h.frozen, ← hf, ← h.sr, ← k.sr]
    exact t.derrReply_sr x

end

end Sys2Proof.Machine

namespace Sys2Proof.Machine

/-- Control goes on at PC1 then PC0, or from Monitor mode at SPC1 then SPC0 (R606). -/
def State.Back (s t : State) : Prop :=
  (s.mm = false → t.pc = s.sr.pc1 &&& 0xFFFFFFFC ∧ t.npc = s.sr.pc0 &&& 0xFFFFFFFC) ∧
  (s.mm = true → t.pc = s.sr.spc1 &&& 0xFFFFFFFC ∧ t.npc = s.sr.spc0 &&& 0xFFFFFFFC)

/-- The register that a restarted load has read from its place. -/
def State.HasRead (s t : State) (x : Xfer) (sp : Space) (p : Word) : Prop :=
  s.RegsExcept t [x.reg] ∧ ∃ w, s.Answers sp p w ∧ t.getGR x.reg = s.lanesRead x.ctl x.addr w

/-- The registers and the memory bytes that a restarted access has written. -/
def State.HasMoved (s t : State) (x : Xfer) (sp : Space) (p : Word) : Prop :=
  if x.load then s.HasRead t x sp p ∧ (if x.set then s.LanesStored t sp x.ctl p 0xFFFFFFFF else s.SameMemory t)
  else s.RegsExcept t [] ∧ s.LanesStored t sp x.ctl p x.data

section
variable {s v t w : State} {x : Xfer} {sp : Space} {p : Word} (h : s.Resumes v)
include h

theorem State.Resumes.hasRead (hr : v.HasRead t x sp p) (hw : ∀ n, w.getGR n = t.getGR n) : s.HasRead w x sp p := by
  obtain ⟨hregs, a, ha, hv⟩ := hr
  refine ⟨fun n hn => ((hw n).trans (hregs n hn)).trans (h.regs n), a, ha.congr h.memory, (hw _).trans ?_⟩
  rw [hv]; simp only [State.lanesRead, h.sr]

theorem State.Resumes.hasMoved (hm : v.HasMoved t x sp p) (hw : ∀ n, w.getGR n = t.getGR n) (hwm : t.SameMemory w) :
    s.HasMoved w x sp p := by
  have hcfg : s.sr.cfg = v.sr.cfg := by rw [h.sr]
  unfold State.HasMoved at *
  split_ifs at hm ⊢
  · exact ⟨h.hasRead hm.1 hw, hm.2.congr h.memory hwm hcfg⟩
  · exact ⟨h.hasRead hm.1 hw, (h.memory.trans hm.2).trans hwm⟩
  · exact ⟨fun n hn => ((hw n).trans (hm.1 n hn)).trans (h.regs n), hm.2.congr h.memory hwm hcfg⟩

/-- An access at its place, answered without DERR, completes. -/
theorem State.Resumes.performAt_moves (hreg : x.load = true → x.reg = 1#8 ∨ 64 ≤ x.reg.toNat)
    (hsp : sp = .idmem → ctlCE x.ctl = false) (hd : s.cur.derr ≠ some s.accesses)
    (hset : x.load = true → x.set = true → s.cur.derr ≠ some (s.accesses + 1)) :
    ∃ t, v.performAt x sp p = .done t ∧ v.Accessed t x ∧ v.HasMoved t x sp p := by
  rw [← h.cur, ← h.accesses] at hd hset
  unfold State.HasMoved State.HasRead
  cases hl : x.load with
  | true =>
    obtain ⟨t, w, hdone, hacc, hw, hregs, hv, hm⟩ := State.performAt_loads (sp := sp) (p := p) hd hl (hset hl) hsp
      (hreg hl)
    exact ⟨t, hdone, hacc, ⟨hregs, w, hw, hv⟩, hm⟩
  | false =>
    obtain ⟨t, hdone, hacc, hregs, hm⟩ := State.performAt_stores (p := p) hd hl hsp
    exact ⟨t, hdone, hacc, hregs, hm⟩

end

/-- What a restarted access answered with DERR leaves, but for a register it has read. -/
def State.ReturnFailed (s t : State) (l : Vector Bool 32) : Prop :=
  s.Back t ∧ t.cps = s.returnStatus ∧ t.alu = s.alu ∧ s.UnitsWith t l ∧ s.SameMemory t ∧
    t.derrEvent = some (if s.recorded.ctl.getLsbD 7 then 4 else 7) ∧ t.derrLeft = 0 ∧
    t.sr = if bitOf s.returnStatus 10 then s.sr else { s.sr with chc := putBit s.sr.chc 10 true }

theorem State.returnFailed_of {s t : State} {l : Vector Bool 32} (inv : Bool) (k : (s.restarting inv l).DataOnly t)
    (hm : (s.restarting inv l).SameMemory t) :
    s.ReturnFailed (Done.returned { t.derrReply s.recorded with derrLeft := 0 }).advance l := by
  have hv := s.restarting_resumes inv l
  obtain ⟨hpc, hnpc, hcps, halu, hunits, hevent, hleft, hsr⟩ := hv.failed k (x := s.recorded)
  exact ⟨hv.back hpc hnpc, hcps, halu, hunits, (hv.memory.trans hm).trans
    (.of_eq (State.derrReply_idmem ..) (State.derrReply_irom ..) (State.derrReply_imem ..)), hevent, hleft, hsr⟩

section
variable {s u : State} {sp : Space} {p : Word} (ht : s.TellsSingle)
  (hcp : s.recorded.ctl.getLsbD 7 = true → bitOf s.sr.cfg 1 = true) (inv : Bool)
include ht hcp

/-- A restarted access that is found and answered completes. -/
theorem State.restart_completes (hl : s.returning.locate s.recorded = .found sp p u) (hd : s.cur.derr ≠ some s.accesses)
    (hset : s.recorded.load = true → s.recorded.set = true → s.cur.derr ≠ some (s.accesses + 1)) :
    ∃ t, (s.restoreContext inv).restartAccess = .done t ∧
      let w := (Done.returned t).advance
      s.Back w ∧
      w.cps = (if s.recorded.ctl.getLsbD 7 && s.recorded.ctl.getLsbD 5 then putBit s.returnStatus 15 (!s.recorded.load)
        else s.returnStatus) ∧
      w.alu = s.aluAfter s.recorded.ctl s.recorded.addr (bitOf s.returnStatus 10) ∧ s.UnitsWith w u.tlbUsage ∧
      w.sr = (if bitOf s.returnStatus 10 then s.sr else { s.sr with chc := putBit s.sr.chc 0 false }) ∧
      s.HasMoved w s.recorded sp p := by
  have hv := s.restarting_resumes inv u.tlbUsage
  have hsp : sp = .idmem → ctlCE s.recorded.ctl = false := by rintro rfl; exact State.locate_found_memory hl
  obtain ⟨t, hdone, hacc, hmoved⟩ := hv.performAt_moves ht.reg hsp hd hset (p := p)
  obtain ⟨hpc, hnpc, hcps, halu, hunits, hsr⟩ := hv.accessed hacc
  refine ⟨t.endChannel, by rw [ht.restartAccess, State.restoreContext_access_found hcp hl, hdone]; rfl,
    hv.back hpc hnpc, hcps, halu, hunits, hsr, hv.hasMoved hmoved (fun n => t.endChannel_getGR n) ?_⟩
  exact .of_eq (State.endChannel_idmem t) (State.endChannel_irom t) (State.endChannel_imem t)

/-- A restarted access answered with DERR. -/
theorem State.restart_fails (hl : s.returning.locate s.recorded = .found sp p u ∧ s.cur.derr = some s.accesses ∨
    s.returning.locate s.recorded = .absent u) : ∃ t, (s.restoreContext inv).restartAccess = .derr t ∧
      let w := (Done.returned { t with derrLeft := 0 }).advance
      s.ReturnFailed w u.tlbUsage ∧ s.RegsExcept w [] := by
  have hv := s.restarting_resumes inv u.tlbUsage
  refine ⟨_, by rw [ht.restartAccess, State.restoreContext_access_fails hcp hl]; rfl,
    State.returnFailed_of inv (State.bumpAccess_dataOnly _) (.of_eq rfl rfl rfl), fun n _ => ?_⟩
  exact ((s.restarting inv u.tlbUsage).bumpAccess.derrReply_getGR s.recorded n).trans (hv.regs n)

/-- A restarted LOADSET whose write is answered with DERR (log entry 55). -/
theorem State.restart_loadset_fails (hl : s.returning.locate s.recorded = .found sp p u)
    (hload : s.recorded.load = true) (hset : s.recorded.set = true) (hd : s.cur.derr = some (s.accesses + 1)) :
    ∃ t, (s.restoreContext inv).restartAccess = .derr t ∧
      let w := (Done.returned { t with derrLeft := 0 }).advance
      s.ReturnFailed w u.tlbUsage ∧ s.HasRead w s.recorded sp p := by
  have hv := s.restarting_resumes inv u.tlbUsage
  obtain ⟨hdata, hacc, hmem, hregs, a, ha, hval⟩ := (s.restarting inv u.tlbUsage).afterLoad_spec sp p (ht.reg hload)
  have hperf : (s.restarting inv u.tlbUsage).performAt s.recorded sp p =
      .derr (((s.restarting inv u.tlbUsage).afterLoad s.recorded sp p).bumpAccess.derrReply s.recorded) := by
    have hd1 : (s.restarting inv u.tlbUsage).cur.derr ≠ some (s.restarting inv u.tlbUsage).accesses := by
      rw [hv.cur, hv.accesses, hd]; simp
    have hd2 : ((s.restarting inv u.tlbUsage).afterLoad s.recorded sp p).derrNext = true :=
      State.derrNext_true (by rw [hdata.cur, hacc, hv.cur, hv.accesses, hd])
    rw [State.performAt_afterLoad hd1 hload, if_pos hset, State.setHalf, if_pos hd2]
  generalize (s.restarting inv u.tlbUsage).afterLoad s.recorded sp p = t at hdata hmem hregs hval hperf
  refine ⟨_, by rw [ht.restartAccess, State.restoreContext_access_found hcp hl, hperf]; rfl,
    State.returnFailed_of inv (hdata.trans t.bumpAccess_dataOnly) (hmem.trans (.of_eq rfl rfl rfl)), ?_⟩
  exact hv.hasRead (t := t) ⟨hregs, a, ha, hval⟩ fun n => t.bumpAccess.derrReply_getGR s.recorded n

/-- A restarted access that has no place traps. -/
theorem State.restart_traps {vn : Byte} (hl : s.returning.locate s.recorded = .trap vn u) :
    ∃ t, (s.restoreContext inv).restartAccess = .trap vn t ∧
      let w : State := { t with fresh := t.fresh + 1 }
      s.Back w ∧ w.cps = s.returnStatus ∧ w.alu = s.alu ∧ s.UnitsWith w u.tlbUsage ∧ s.RegsExcept w [] ∧
        s.SameMemory w ∧ { w.sr with lru := s.sr.lru } = s.sr ∧ w.sr.lru = u.sr.lru := by
  have hv := s.restoreContext_resumes inv
  have hsr : { u.sr with lru := s.sr.lru } = s.sr := by rw [State.locate_lruOnly hl]; rfl
  refine ⟨_, by rw [ht.restartAccess, State.restoreContext_access_trap hcp hl]; rfl, ?_⟩
  generalize s.restoreContext inv = v at hv ⊢
  exact ⟨hv.back rfl rfl, hv.cps, hv.alu, ⟨hv.acc, hv.tlb, rfl⟩, fun n _ => hv.regs n,
    .of_eq hv.idmem hv.irom hv.imem, hsr, rfl⟩

/-- A restarted access that faults. -/
theorem State.restart_faults {f : Fault} (hl : s.returning.locate s.recorded = .fault f) :
    (s.restoreContext inv).restartAccess = .fault f := by
  rw [ht.restartAccess, State.restoreContext_access_fault hcp hl]; rfl

end

/-- A restarted coprocessor transfer without a coprocessor traps (44_data_movement.md R439). -/
theorem State.restart_noUnit {s : State} (ht : s.TellsSingle) (hce : s.recorded.ctl.getLsbD 7 = true)
    (hcp : bitOf s.sr.cfg 1 = false) (inv : Bool) : ∃ t, (s.restoreContext inv).restartAccess = .trap 3 t ∧
      let w : State := { t with fresh := t.fresh + 1 }
      s.Back w ∧ w.cps = s.returnStatus ∧ w.alu = s.alu ∧ s.SameGeneral w ∧ w.sr = s.sr := by
  have hv := s.restoreContext_resumes inv
  have hcp' : (s.restoreContext inv).cp = false := hcp
  have husage : (s.restoreContext inv).tlbUsage = s.tlbUsage := rfl
  refine ⟨_, by rw [ht.restartAccess, State.access_noUnit hce hcp']; rfl, ?_⟩
  generalize s.restoreContext inv = v at hv husage ⊢
  exact ⟨hv.back rfl rfl, hv.cps, hv.alu, ⟨fun n _ => hv.regs n, .of_eq hv.idmem hv.irom hv.imem, hv.acc, hv.tlb,
    husage⟩, hv.sr⟩

end Sys2Proof.Machine

namespace Sys2Proof.Machine

/-! ### The fetches at the two addresses returned to (48_miscellaneous.md R606, steps 6 and 8) -/

/-- Two fetches find one place, or trap or fault alike. -/
def FetchPlace.Same : FetchPlace → FetchPlace → Prop
  | .at sp p _, .at sp' p' _ => sp' = sp ∧ p' = p
  | .trap vn _, .trap vn' _ => vn' = vn
  | .fault f, .fault f' => f' = f
  | _, _ => False

/-- The place of an instruction is the same in states with the same map where no change of RE, PI or SM is
outstanding. -/
theorem State.placeOf_map {s t : State} (m : s.SameMap t) (hs : s.oldFetch = []) (ht : t.oldFetch = []) (a : Word) :
    (s.placeOf a).Same (t.placeOf a) := by
  obtain ⟨hre, hpi, hsm⟩ := State.fetch_bits hs
  obtain ⟨hre', hpi', hsm'⟩ := State.fetch_bits ht
  have ere : t.fetchRE = s.fetchRE := by simp [hre, hre', State.eRE, State.mm, m.cps]
  have epi : t.fetchPI = s.fetchPI := by simp [hpi, hpi', State.ePI, State.mm, m.cps]
  have esm : t.fetchSM = s.fetchSM := by simp [hsm, hsm', State.eSM, State.mm, m.cps]
  have htr := State.translate_map m a (!s.fetchSM) .fetch
  unfold State.placeOf
  rw [ere, epi, esm]
  generalize s.translate a (!s.fetchSM) .fetch = x at htr
  generalize t.translate a (!s.fetchSM) .fetch = y at htr
  split_ifs
  · exact ⟨rfl, rfl⟩
  · exact ⟨rfl, rfl⟩
  all_goals
    cases x <;> cases y <;> first | exact htr.elim | skip
    · exact ⟨by rw [htr.2.1], htr.1⟩
    · rfl
    · rfl
    · exact htr

/-- The state in which the instruction at an address returned to is fetched. -/
def State.fetching (s : State) (a : Word) : State := { s.returning with pc := a, oldFetch := [], early := [] }

/-- What the fetch of an instruction returned to has found. -/
def State.Fetched (s : State) (a : Word) (x : EarlyFetch) : Prop :=
  (∀ sp p u, (s.fetching a).fetchPlace = .at sp p u → x = .found sp p (readWord (s.imem.getD s.idmem) p)) ∧
  (∀ vn u, (s.fetching a).fetchPlace = .trap vn u → ∃ l, x = .trap vn l) ∧
  ∀ f, (s.fetching a).fetchPlace = .fault f → x = .fault f

theorem State.fetchEarly_at {s u : State} {a p : Word} {sp : FetchSpace} (h : s.placeOf a = .at sp p u) :
    (s.fetchEarly a).1 = .found sp p (readWord s.fetchMemory p) := by rw [State.fetchEarly, h]

theorem State.fetchEarly_trap {s u : State} {a : Word} {vn : Byte} (h : s.placeOf a = .trap vn u) :
    (s.fetchEarly a).1 = .trap vn (u.sr.lru.extractLsb' 1 6) := by rw [State.fetchEarly, h]

theorem State.fetchEarly_fault {s : State} {a : Word} {f : Fault} (h : s.placeOf a = .fault f) :
    (s.fetchEarly a).1 = .fault f := by rw [State.fetchEarly, h]

section
variable {s v : State} (h : s.Resumes v)
include h

theorem State.Resumes.fetching_map (a : Word) : (s.fetching a).SameMap v :=
  have m := h.map
  ⟨m.rma0, m.rmc0, m.rma1, m.rmc1, m.mmu, m.tlb, m.cps, m.ps, m.holes⟩

/-- The fetch at an address returned to finds what is there with the CPS returned to. -/
theorem State.Resumes.fetched (a : Word) : s.Fetched a (v.fetchEarly a).1 := by
  have hmem : v.fetchMemory = s.imem.getD s.idmem := by rw [State.fetchMemory, h.imem, h.idmem]
  have hsame : ((s.fetching a).placeOf a).Same (v.placeOf a) := State.placeOf_map (h.fetching_map a) rfl h.oldFetch a
  have hplace : (s.fetching a).fetchPlace = (s.fetching a).placeOf a := State.fetchPlace_of_nil rfl
  unfold State.Fetched
  rw [hplace]
  refine ⟨fun sp p u e => ?_, fun vn u e => ?_, fun f e => ?_⟩
  all_goals
    rw [e] at hsame
    cases hv : v.placeOf a <;> rw [hv] at hsame <;> first | exact hsame.elim | skip
  · rw [State.fetchEarly_at hv, hmem, hsame.1, hsame.2]
  · exact ⟨_, by rw [State.fetchEarly_trap hv, show _ = vn from hsame]⟩
  · rw [State.fetchEarly_fault hv, show _ = f from hsame]

/-- Both instructions have been fetched. -/
theorem State.Resumes.fetchedAhead : ∃ x y, v.fetchReturned.early = [x, y] ∧ s.Fetched v.pc x ∧ s.Fetched v.npc y := by
  obtain ⟨u, n, he⟩ := v.fetchReturned_eq
  obtain ⟨l, m, hsnd⟩ := v.fetchEarly_snd v.pc
  have hv : s.Resumes (v.fetchEarly v.pc).2 := by
    rw [hsnd]
    exact h.withFetch l m _
  exact ⟨_, _, by rw [he], h.fetched v.pc, hv.fetched v.npc⟩

end

end Sys2Proof.Machine

namespace Sys2Proof.Machine

/-! ### A sequence that a model fault ends (44_data_movement.md R438) -/

/-- An access that faults does so in every state with the same map. -/
theorem State.locate_fault {s t : State} {x y : Xfer} {f : Fault} (h : s.locate x = .fault f) (m : s.SameMap t)
    (h1 : y.ctl = x.ctl) (h2 : y.addr = x.addr) (h3 : y.kind = x.kind) : t.locate y = .fault f := by
  have k := State.locate_map m h1 h2 h3
  rw [h] at k
  cases hr : t.locate y <;> rw [hr] at k <;> first | exact k.elim | skip
  exact congrArg Located.fault k

theorem transferLoop_checkFault {n : Nat} {check : Bool → Byte → Option Fault} {s : State} {f : Fault}
    (hb : s.bankProtected s.targetRegister = false) (hc : check s.transfer.load s.transfer.reg = some f) :
    transferLoop (n + 1) check s = .fault f := by
  simp [transferLoop, hb, hc]

/-- A register that a sequence may not use fails its check. -/
theorem Sequence.check_of_not_usable {q : Sequence} {s : State} {m : Nat} {f : Fault}
    (hb : s.bankProtected (q.reg m) = false) (hu : ¬ q.Usable s m) (hf : sequenceFault q.load (q.reg m) = some f) :
    transferCheck m q.load (q.reg m) = some f := by
  have hfirst : ¬ (q.load = false ∧ m = 0 ∧ q.reg m = 2#8) := fun h => hu ⟨hb, .inr h⟩
  unfold transferCheck
  split_ifs with hm
  · rw [startFault, if_neg (by simpa [hm] using hfirst), hf]
  · exact hf

section
variable {q : Sequence} {s t : State} {sp : Nat → Space} {p : Nat → Word} {m n : Nat} (hq : q.Told)
  (h : q.Reached s t sp p m)
include hq h

/-- A transfer whose place cannot be looked up, or whose register a sequence may not use. -/
theorem Sequence.Reached.faults {f : Fault}
    (hf : q.Usable s m ∧ ¬ q.NoUnit s ∧ s.locate (q.xfer m) = .fault f ∨
      s.bankProtected (q.reg m) = false ∧ ¬ q.Usable s m ∧ sequenceFault q.load (q.reg m) = some f) :
    transferLoop (n + 1) (transferCheck m) t = .fault f := by
  have hx := h.transfer hq
  rcases hf with ⟨hu, hunit, hl⟩ | ⟨hb, hu, hreg⟩
  · obtain ⟨hready, -⟩ := h.transferData hq
    have hloc := State.locate_fault hl hready.past.map hx.ctl hx.addr hx.kind
    have hacc := State.access_of_fault (State.noUnit_false (s := s) (x := t.transfer)
      (by rw [hx.ctl]; exact Sequence.unit_of_not_noUnit hunit) hready.past.leaves.cfg) hloc
    exact (h.ends hq hu fun t' e => by cases hacc.symm.trans e).trans hacc
  · refine transferLoop_checkFault ?_ ?_
    · rw [Sequence.targetRegister_eq h.chc, h.past.bankProtected]; exact hb
    · rw [hx.load, hx.reg]; exact Sequence.check_of_not_usable hb hu hreg

end

/-! ### A sequence in the state that an interrupt return goes on in -/

section
variable {s v t : State} (h : s.Resumes v) {q : Sequence} {sp : Nat → Space} {p : Nat → Word} {j m : Nat}
include h

theorem State.Resumes.bankProtected (n : Byte) : v.bankProtected n = s.returning.bankProtected n := by
  rw [State.bankProtected, State.bankProtected, State.user_congr h.map.cps, h.sr]; rfl

theorem State.Resumes.usable : q.Usable v j ↔ q.Usable s.returning j := by
  rw [Sequence.Usable, Sequence.Usable, h.bankProtected]

theorem State.Resumes.noUnit : q.NoUnit v ↔ q.NoUnit s.returning := by
  rw [Sequence.NoUnit, Sequence.NoUnit, h.sr]; rfl

theorem State.Resumes.found {sp : Space} {p : Word} {u : State} (hl : s.returning.locate (q.xfer j) = .found sp p u) :
    ∃ w, v.locate (q.xfer j) = .found sp p w := by
  obtain ⟨w, hw, -⟩ := State.locate_found hl h.map rfl rfl rfl
  exact ⟨w, hw⟩

theorem State.Resumes.made {sp : Space} {p : Word} (hm : q.Made s.returning sp p j) : q.Made v sp p j := by
  obtain ⟨hu, hn, ⟨u, hl⟩, hd⟩ := hm
  exact ⟨h.usable.2 hu, mt h.noUnit.1 hn, h.found hl, by rw [h.cur, h.accesses]; exact hd⟩

theorem State.Resumes.fails (hm : q.Fails s.returning j) : q.Fails v j := by
  obtain ⟨hu, hn, u, hl⟩ := hm
  refine ⟨h.usable.2 hu, mt h.noUnit.1 hn, ?_⟩
  rcases hl with hl | ⟨sp, p, hl, hd⟩
  · obtain ⟨w, hw, -⟩ := State.locate_absent hl h.map rfl rfl rfl
    exact ⟨w, .inl hw⟩
  · obtain ⟨w, hw⟩ := h.found hl
    exact ⟨w, .inr ⟨sp, p, hw, by rw [h.cur, h.accesses]; exact hd⟩⟩

theorem State.Resumes.traps {vn : Byte} (hm : q.Traps s.returning vn j) : q.Traps v vn j := by
  obtain ⟨hu, hm⟩ := hm
  refine ⟨h.usable.2 hu, hm.imp (fun ⟨hn, hvn⟩ => ⟨h.noUnit.2 hn, hvn⟩) fun ⟨hn, u, hl⟩ => ⟨mt h.noUnit.1 hn, ?_⟩⟩
  obtain ⟨w, hw, -⟩ := State.locate_trap hl h.map rfl rfl rfl
  exact ⟨w, hw⟩

/-- What the transfers leave, from the state before the return. -/
theorem State.Resumes.leaves (hl : q.Leaves v t sp p m) : q.Leaves s t sp p m where
  others := fun n hn => (hl.others n hn).trans (h.regs n)
  loaded := fun hload j hj hlast => by
    obtain ⟨w, hw, hv⟩ := hl.loaded hload j hj hlast
    exact ⟨w, hw.congr h.memory, by rw [hv]; simp only [State.lanesRead, h.sr]⟩
  memory := fun hload => h.memory.trans (hl.memory hload)
  stored := fun hload => by
    obtain ⟨f, h0, hm, hst⟩ := hl.stored hload
    have hsucc : ∀ j, Function.update f 0 s (j + 1) = f (j + 1) := fun j => Function.update_of_ne j.succ_ne_zero ..
    refine ⟨Function.update f 0 s, Function.update_self .., ?_, fun j hj => ?_⟩
    · cases m with
      | zero => rw [Function.update_self]; exact h.memory.trans (h0 ▸ hm)
      | succ m => rw [hsucc]; exact hm
    · obtain ⟨hcfg, hlanes⟩ := hst j hj
      rw [hsucc, ← h.regs]
      refine ⟨hcfg.trans (by rw [h.sr]), ?_⟩
      cases j with
      | zero =>
        rw [h0] at hlanes
        rw [Function.update_self]
        exact hlanes.congr h.memory (.refl _) (by rw [h.sr])
      | succ j => rw [hsucc]; exact hlanes
  alu := by
    rw [hl.alu, h.alu]
    split_ifs
    · rfl
    · exact State.aluAfter_congr h.alu (by rw [h.sr]) ..
  units := ⟨hl.units.1.trans h.acc, hl.units.2.trans h.tlb⟩
  special := by rw [← h.sr]; exact hl.special

end

/-! ### The sequence that an interrupt return resumes (R438, R606) -/

/-- The channel registers tell their sequence. -/
theorem State.recordedSequence_told (s : State) : s.recordedSequence.Told := ⟨rfl, rfl, rfl⟩

/-- CHC tells a sequence that is valid and needed. -/
structure State.TellsSequence (s : State) : Prop where
  cv : bitOf s.sr.chc 0 = true
  nn : bitOf s.sr.chc 1 = false
  ml : bitOf s.sr.chc 14 = true

/-- The state that the transfers of a resumed sequence start in: the two instructions returned to are fetched. -/
def State.resumed (s : State) (inv : Bool) : State := (s.restoreContext inv).fetchReturned

theorem State.resumed_resumes (s : State) (inv : Bool) : s.Resumes (s.resumed inv) :=
  (s.restoreContext_resumes inv).fetchReturned

section
variable {s : State} (ht : s.TellsSequence) (inv : Bool)
include ht

/-- The registers that tell a sequence are frozen (U14; log entry 26). -/
theorem State.TellsSequence.frozen (hf : bitOf s.returnStatus 10 = true) :
    (s.restoreContext inv).restartAccess = .fault .multipleFrozen := by
  have hcv : (s.restoreContext inv).cv = true := ht.cv
  have hnn : (s.restoreContext inv).nn = false := ht.nn
  have hml : (s.restoreContext inv).ml = true := ht.ml
  rw [State.restartAccess, hcv, hnn, hml, (s.restoreContext_resumes inv).frozen, hf]; rfl

variable (hf : bitOf s.returnStatus 10 = false)
include hf

theorem State.TellsSequence.restartAccess :
    (s.restoreContext inv).restartAccess = (s.resumed inv).runSequence.keepFetched := by
  have hcv : (s.restoreContext inv).cv = true := ht.cv
  have hnn : (s.restoreContext inv).nn = false := ht.nn
  have hml : (s.restoreContext inv).ml = true := ht.ml
  rw [State.restartAccess, hcv, hnn, hml, (s.restoreContext_resumes inv).frozen, hf]; rfl

omit ht hf in
/-- The channel registers describe the first transfer. -/
theorem State.resumed_reached (sp : Nat → Space) (p : Nat → Word) :
    s.recordedSequence.Reached (s.resumed inv) (s.resumed inv) sp p 0 := by
  have hv := s.resumed_resumes inv
  refine ⟨Sequence.past_zero _ _ sp p, ?_, ?_, rfl, rfl⟩
  · rw [hv.sr]; simp [Sequence.address, State.recordedSequence]
  · rw [hv.sr, s.recordedSequence_told.channel_zero]; rfl

variable {sp : Nat → Space} {p : Nat → Word} {m : Nat} (hlast : m ≤ s.recordedSequence.last)
  (hm : ∀ j < m, s.recordedSequence.Made s.returning (sp j) (p j) j)
include hlast hm

/-- A resumed sequence makes its transfers up to one, and ends as its rest does. -/
theorem State.TellsSequence.reach : ∃ t n, s.recordedSequence.Reached (s.resumed inv) t sp p m ∧
    (transferLoop (n + 1) (transferCheck m) t).In (s.resumed inv).SameFetch ∧
    (s.restoreContext inv).restartAccess = (transferLoop (n + 1) (transferCheck m) t).keepFetched := by
  have hv := s.resumed_resumes inv
  have hstart := s.resumed_reached inv sp p
  obtain ⟨t, hreached, hloop⟩ := Sequence.reach s.recordedSequence_told hstart (hv.frozen.trans hf) hlast
    fun j hj => hv.made (hm j hj)
  refine ⟨t, s.recordedSequence.last - m, hreached, hloop ▸ transferLoop_sameFetch _ _ _, ?_⟩
  rw [ht.restartAccess inv hf, State.runSequence, Sequence.countRemaining_eq hstart.chc, Nat.sub_zero, hloop]

/-- A resumed sequence with a transfer answered with DERR. -/
theorem State.TellsSequence.fails (hfail : s.recordedSequence.Fails s.returning m) :
    ∃ t, (s.restoreContext inv).restartAccess = .derr t ∧
      let w := (Done.returned { t with derrLeft := 0 }).advance
      s.Back w ∧ w.cps = s.recordedSequence.status s.returnStatus m ∧ s.recordedSequence.FailedAt s w sp p m := by
  have hv := s.resumed_resumes inv
  obtain ⟨t, n, hreached, -, hrestart⟩ := ht.reach inv hf hlast hm
  obtain ⟨w, hend, hpast, hcha, hchc, hchd, hlru, hevent⟩ :=
    hreached.fails (n := n) s.recordedSequence_told (hv.frozen.trans hf) (hv.fails hfail)
  refine ⟨w, by rw [hrestart, hend]; rfl, hv.back hpast.pc hpast.npc, hpast.cps.trans (by rw [hv.cps]), ?_, hcha, hchc,
    fun hl => (hchd hl).trans (hv.regs _), hlru.trans (by rw [hv.sr]), hevent, rfl⟩
  exact (hv.leaves hpast.leaves).congr (fun _ => rfl) (.of_eq rfl rfl rfl) rfl ⟨rfl, rfl⟩ rfl

/-- A resumed sequence with a transfer that faults. -/
theorem State.TellsSequence.faults {f : Fault}
    (hfault : s.recordedSequence.Usable s.returning m ∧ ¬ s.recordedSequence.NoUnit s.returning ∧
        s.returning.locate (s.recordedSequence.xfer m) = .fault f ∨
      s.returning.bankProtected (s.recordedSequence.reg m) = false ∧ ¬ s.recordedSequence.Usable s.returning m ∧
        sequenceFault s.recordedSequence.load (s.recordedSequence.reg m) = some f) :
    (s.restoreContext inv).restartAccess = .fault f := by
  have hv := s.resumed_resumes inv
  obtain ⟨t, n, hreached, -, hrestart⟩ := ht.reach inv hf hlast hm
  rw [hrestart, hreached.faults (n := n) s.recordedSequence_told (f := f) ?_]
  · rfl
  · exact hfault.imp
      (fun ⟨hu, hn, hl⟩ => ⟨hv.usable.2 hu, mt hv.noUnit.1 hn, State.locate_fault hl hv.map rfl rfl rfl⟩)
      fun ⟨hb, hu, hr⟩ => ⟨(hv.bankProtected _).trans hb, mt hv.usable.1 hu, hr⟩

/-- A resumed sequence with a transfer that traps or comes to a protected register. -/
theorem State.TellsSequence.traps {vn : Byte} (htrap : s.recordedSequence.Traps s.returning vn m ∨
      s.returning.bankProtected (s.recordedSequence.reg m) = true ∧ vn = 5#8) :
    ∃ t, (s.restoreContext inv).restartAccess = .trap vn t ∧
      let w : State := { t with fresh := t.fresh + 1 }
      s.Back w ∧ w.cps = s.recordedSequence.status s.returnStatus m ∧ s.recordedSequence.StandsAt s w sp p m ∧
        (vn ≠ 5 → s.recordedSequence.load = false → w.sr.chd = s.getGR (s.recordedSequence.reg m)) := by
  have hv := s.resumed_resumes inv
  obtain ⟨t, n, hreached, -, hrestart⟩ := ht.reach inv hf hlast hm
  obtain ⟨w, hend, hpast, hstands, hchd⟩ : ∃ w, transferLoop (n + 1) (transferCheck m) t = .trap vn w ∧
      s.recordedSequence.Past (s.resumed inv) w sp p m ∧ s.recordedSequence.StandsAt (s.resumed inv) w sp p m ∧
      (vn ≠ 5 → s.recordedSequence.load = false →
        w.sr.chd = (s.resumed inv).getGR (s.recordedSequence.reg m)) := by
    rcases htrap with htrap | ⟨hb, rfl⟩
    · obtain ⟨-, w, hend, hpast, hstands, hchd⟩ := hreached.traps (n := n) s.recordedSequence_told (hv.traps htrap)
      exact ⟨w, hend, hpast, hstands, fun _ => hchd⟩
    · exact ⟨t, hreached.protected ((hv.bankProtected _).trans hb), hreached.past, hreached.stands,
        fun h5 => absurd rfl h5⟩
  refine ⟨w, by rw [hrestart, hend]; rfl, hv.back hpast.pc hpast.npc, hpast.cps.trans (by rw [hv.cps]),
    ⟨?_, hstands.cha, hstands.chc⟩, fun h5 hl => (hchd h5 hl).trans (hv.regs _)⟩
  exact (hv.leaves hpast.leaves).congr (fun _ => rfl) (.of_eq rfl rfl rfl) rfl ⟨rfl, rfl⟩ rfl

omit hlast hm in
/-- A resumed sequence whose transfers are all made. -/
theorem State.TellsSequence.completes
    (hall : ∀ j ≤ s.recordedSequence.last, s.recordedSequence.Made s.returning (sp j) (p j) j) :
    ∃ t, (s.restoreContext inv).restartAccess = .done t ∧
      let w := (Done.returned t).advance
      s.Back w ∧ w.cps = s.recordedSequence.status s.returnStatus (s.recordedSequence.last + 1) ∧
        s.recordedSequence.Completed s w sp p ∧ ∃ x y, w.early = [x, y] ∧ s.Fetched w.pc x ∧ s.Fetched w.npc y := by
  have hv := s.resumed_resumes inv
  have hlast := hv.made (hall _ (le_refl _))
  obtain ⟨t, n, hreached, hsame, hrestart⟩ := ht.reach inv hf (le_refl _) fun j hj => hall j hj.le
  obtain ⟨w, hend, hpast, hdone⟩ := hreached.last s.recordedSequence_told (hv.frozen.trans hf) hlast n
  rw [hend] at hsame hrestart
  obtain ⟨x, y, hearly, hx, hy⟩ := (s.restoreContext_resumes inv).fetchedAhead
  have hpc : w.pc = (s.restoreContext inv).pc := hpast.pc.trans hv.pc
  have hnpc : w.npc = (s.restoreContext inv).npc := hpast.npc.trans hv.npc
  refine ⟨w.keepFetched, hrestart, hv.back hpast.pc hpast.npc, hpast.cps.trans (by rw [hv.cps]),
    ⟨?_, hdone.cha, hdone.chc, fun hl => (hdone.chd hl).trans (hv.regs _), hdone.lru.trans (by rw [hv.sr])⟩,
    x, y, hsame.2.trans hearly, ?_, ?_⟩
  · exact (hv.leaves hpast.leaves).congr (fun _ => rfl) (.of_eq rfl rfl rfl) rfl ⟨rfl, rfl⟩ rfl
  · rw [Done.advance_returned_pc, State.keepFetched_pc, hpc]; exact hx
  · rw [Done.advance_returned_npc, State.keepFetched_npc, hnpc]; exact hy

end

end Sys2Proof.Machine

namespace Sys2Proof.Machine

/-! ### IRET and IRETINV (48_miscellaneous.md R604 to R606) -/

/-- Without a valid and needed access nothing is made again. -/
theorem State.restartAccess_none {s : State} (h : (bitOf s.sr.chc 0 && !bitOf s.sr.chc 1) = false) :
    s.restartAccess = .done s := by
  have hskip : (!s.cv || s.nn) = true := by
    rw [State.cv, State.nn]
    cases hcv : bitOf s.sr.chc 0
    · rfl
    · rw [hcv] at h; simpa using h
  rw [State.restartAccess, if_pos hskip]

/-- What a return without an access leaves. -/
theorem State.restart_nothing {s : State} (h : (bitOf s.sr.chc 0 && !bitOf s.sr.chc 1) = false) (inv : Bool) :
    ∃ t, (s.restoreContext inv).restartAccess = .done t ∧
      let w := (Done.returned t).advance
      s.Back w ∧ w.cps = s.returnStatus ∧ s.SameData w ∧ w.early = [] := by
  have hv := s.restoreContext_resumes inv
  have husage : (s.restoreContext inv).tlbUsage = s.tlbUsage := rfl
  have hearly : (s.restoreContext inv).early = [] := rfl
  refine ⟨_, State.restartAccess_none h, ?_⟩
  generalize s.restoreContext inv = v at hv husage hearly ⊢
  exact ⟨hv.back rfl rfl, hv.cps, State.sameData_of hv.regs hv.idmem hv.irom hv.sr hv.alu hv.acc hv.tlb husage hv.imem,
    hearly⟩

/-- Settles O18: both instructions end as the access does that the channel registers tell, in the state returned to. -/
theorem interruptReturnsComplete : Obligations.InterruptReturnsComplete := by
  intro s hu hf cps frozen r stops back empty both traps fetched ahead early
  refine ⟨fun hps => ⟨interruptReturn_hazard hu hf .iret false hps, interruptReturn_hazard hu hf .iretinv true hps⟩,
    fun hps => ⟨fun hnone => exec_return_done hu hf hps (State.restart_nothing hnone), ?_, ?_⟩⟩
  · intro hcv hnn hml sp p u vn ctl load set reg addr r1 units failed read hreg
    have ht : s.TellsSingle := ⟨hcv, hnn, hml, hreg⟩
    refine ⟨fun hcp => ⟨fun hl hd hset => ?_, fun hl => ?_, fun hl hload hset hd => ?_, fun hl => ?_, fun f hl => ?_⟩,
      fun hce hcp => ?_⟩
    · exact exec_return_done hu hf hps fun inv => State.restart_completes ht hcp inv hl hd hset
    · exact exec_return_derr hu hf hps fun inv => State.restart_fails ht hcp inv hl
    · exact exec_return_derr hu hf hps fun inv => State.restart_loadset_fails ht hcp inv hl hload hset hd
    · exact exec_return_traps hu hf hps fun inv => State.restart_traps ht hcp inv hl
    · exact exec_return_stops hu hf hps fun inv => State.restart_faults ht hcp inv hl
    · exact exec_return_traps hu hf hps (State.restart_noUnit ht hce hcp)
  · intro hcv hnn hml q
    have ht : s.TellsSequence := ⟨hcv, hnn, hml⟩
    refine ⟨fun hfz => exec_return_stops hu hf hps fun inv => ht.frozen inv hfz, fun hfz sp p => ⟨fun hall => ?_,
      fun m hlast hm => ⟨fun hfail => ?_, fun f hfault => ?_, fun vn htrap => ?_⟩⟩⟩
    · exact exec_return_done hu hf hps fun inv => ht.completes inv hfz hall
    · exact exec_return_derr hu hf hps fun inv => ht.fails inv hfz hlast hm hfail
    · exact exec_return_stops hu hf hps fun inv => ht.faults inv hfz hlast hm hfault
    · exact exec_return_traps hu hf hps fun inv => ht.traps inv hfz hlast hm htrap

end Sys2Proof.Machine

namespace Sys2Proof.Machine

/-! ### Constants in the halves of a word (45_constant.md R490 to R493) -/

/-- A half-word above a word that has only its low half: the sum of the two parts. -/
theorem shiftLeft_half_or (h : BitVec 16) {w : Word} (hw : w.toNat < 2 ^ 16) :
    (h.setWidth 32 <<< 16) ||| w = BitVec.ofNat 32 (h.toNat * 2 ^ 16 + w.toNat) := by
  have high : (h.setWidth 32 <<< 16).toNat = h.toNat <<< 16 := by
    rw [BitVec.toNat_shiftLeft, BitVec.toNat_setWidth_of_le (by decide), Nat.shiftLeft_eq,
      Nat.mod_eq_of_lt (by omega)]
  apply BitVec.eq_of_toNat_eq
  rw [BitVec.toNat_or, high, ← Nat.shiftLeft_add_eq_or_of_lt hw, Nat.shiftLeft_eq, BitVec.toNat_ofNat,
    Nat.mod_eq_of_lt (by omega)]

/-- The constant above zeros (R492). -/
theorem shiftLeft_half (h : BitVec 16) : h.setWidth 32 <<< 16 = BitVec.ofNat 32 (h.toNat * 2 ^ 16) := by
  rw [← BitVec.or_zero (x := h.setWidth 32 <<< 16), shiftLeft_half_or h (by decide),
    BitVec.toNat_ofNat, Nat.zero_mod, Nat.add_zero]

/-- The constant above the low half of a register (R491). -/
theorem shiftLeft_half_or_fieldOf (h : BitVec 16) (w : Word) :
    (h.setWidth 32 <<< 16) ||| fieldOf w 0 16 = BitVec.ofNat 32 (h.toNat * 2 ^ 16 + w.toNat % 2 ^ 16) := by
  have low : (fieldOf w 0 16).toNat = w.toNat % 2 ^ 16 := by
    rw [fieldOf_toNat w 0 16 (by decide), pow_zero, Nat.div_one]
  rw [shiftLeft_half_or h (low ▸ Nat.mod_lt _ (by decide)), low]

/-- Ones above the constant: the negative number that is the constant minus 2^16 (R493). -/
theorem ones_or_half (h : BitVec 16) : 0xFFFF0000 ||| h.setWidth 32 = BitVec.ofInt 32 (h.toNat - 2 ^ 16) := by
  have low : (h.setWidth 32).toNat = h.toNat := BitVec.toNat_setWidth_of_le (by decide)
  have sum : 0xFFFF0000 ||| h.setWidth 32 = BitVec.ofNat 32 (0xFFFF * 2 ^ 16 + h.toNat) :=
    low ▸ shiftLeft_half_or 0xFFFF (low ▸ h.isLt)
  apply BitVec.eq_of_toNat_eq
  rw [sum, BitVec.toNat_ofNat, BitVec.toNat_ofInt]
  omega

/-! ### The constant instructions (45_constant.md R494) -/

/-- A constant instruction completes with its constant in the register RA names. -/
theorem constantOp_completes {i : Instr} {ra : Byte} {s : State} {v w : Word} (he : exec i s = constantOp i ra v s)
    (hv : v = w) : PlainCompletes i [⟨.a, ra, .dst .constant⟩] (s.absReg .a ra) s w :=
  plainCompletes_of (c := .constant) (hv ▸ he) (by simp)

theorem exec_consth (ra : Byte) (i : BitVec 16) (s : State) : exec (.consth ra i) s = execConsth ra i s := rfl

/-- CONSTH of a register that may be read is a constant instruction like the others (R491). -/
theorem exec_consth_readable {ra : Byte} (i : BitVec 16) {s : State} (h : s.absReg .a ra ≠ 3#8) :
    exec (.consth ra i) s =
      constantOp (.consth ra i) ra ((i.setWidth 32 <<< 16) ||| fieldOf (s.src .a ra) 0 16) s := by
  have readable : consthFault (s.absReg .a ra) = false := decide_eq_false h
  simp only [exec_consth, execConsth, constantOp, readable, Bool.false_eq_true, if_false]

/-- CONSTH reads gr3, which may not be read: a model fault once the checks on its fields are passed (R491). -/
theorem exec_consth_gr3 {ra : Byte} (i : BitVec 16) {s : State} (h : s.absReg .a ra = 3#8)
    (hr : s.regStop false [⟨.a, ra, .dst .constant⟩] = none) : exec (.consth ra i) s = .fault .ccaRestriction := by
  have unreadable : consthFault (s.absReg .a ra) = true := decide_eq_true h
  simp only [exec_consth, execConsth, unreadable, if_true, State.guarded_none _ hr, finish]

/-- Settles O13: each form is `constantOp` with its rule's constant, CONSTH only where the register may be read. -/
theorem constantsComplete : Obligations.ConstantsComplete := by
  intro ra i s d done
  exact ⟨constantOp_completes rfl (BitVec.ofNat_toNat 32 i).symm,
    fun h3 => constantOp_completes (exec_consth_readable i h3) (shiftLeft_half_or_fieldOf i _),
    constantOp_completes rfl (shiftLeft_half i), constantOp_completes rfl (ones_or_half i), exec_consth_gr3 i,
    opcode_wordOf rfl, opcode_wordOf rfl, opcode_wordOf rfl, opcode_wordOf rfl⟩

end Sys2Proof.Machine

namespace Sys2Proof.Machine

/-! ### Floating-point results in registers (46_floating_point.md R502, R506, 10_state.md R31) -/

/-- A double-precision operand that no model fault stops is an even register from 64 on (R31). -/
theorem doubleFault_none {n : Byte} (h : doubleFault n = none) : 64 ≤ n.toNat ∧ n.toNat % 2 = 0 := by
  unfold doubleFault srcFault at h
  split at h
  · simp at h
  next hsrc =>
  split at hsrc
  · simp at hsrc
  next hnum =>
  split_ifs at hsrc h with hcca hodd
  have heven : n.toNat % 2 = 0 := by
    rw [BitVec.getLsbD, Nat.testBit_zero] at hodd
    simpa using hodd
  refine ⟨?_, heven⟩
  rcases numberFault_none hnum with rfl | rfl | rfl | h64
  · exact absurd heven (by decide)
  · exact absurd hcca (by decide)
  · exact absurd heven (by decide)
  · exact h64

/-- A result in a pair of registers: the most significant word in the even register (R31, D7). -/
theorem State.putDouble_result (s : State) {n : Byte} (v : DWord) (h : 64 ≤ n.toNat) (he : n.toNat % 2 = 0) :
    s.FloatResult (s.putDouble n v) .double n v := by
  have hlt := n.isLt
  have hnext : (n + 1).toNat = n.toNat + 1 := by
    rw [BitVec.toNat_add]; exact Nat.mod_eq_of_lt (by simp; omega)
  have hne : n ≠ n + 1 := fun e => by have := congrArg BitVec.toNat e; omega
  have hget : ∀ m, (s.putDouble n v).getGR m =
      if m = n + 1 then v.extractLsb' 0 32 else if m = n then v.extractLsb' 32 32 else s.getGR m := fun m => by
    rw [State.putDouble, State.getGR_putGR _ _ _ _ _ (.inr (.inr (by omega))),
      State.getGR_putGR _ _ _ _ _ (.inr (.inr h))]
  refine ⟨by rw [hget, if_neg hne, if_pos rfl], by simp [hget], fun m hm => ?_⟩
  simp only [List.mem_cons, List.not_mem_nil, or_false, not_or] at hm
  rw [hget, if_neg hm.2, if_neg hm.1]

/-- The destination of a floating-point instruction that nothing stops holds the result. -/
theorem State.putFp_result {s : State} {x : Fmt} {rc : Byte} (v : DWord)
    (h : s.useFault ⟨.c, rc, dstUse x⟩ = none) : s.FloatResult (s.putFp x rc v) x (s.absReg .c rc) v := by
  cases x with
  | single => exact s.putGR_result .fpu _ (State.dst_number h rfl)
  | double =>
    unfold State.useFault at h
    split at h
    · simp at h
    · obtain ⟨h64, heven⟩ := doubleFault_none h
      exact s.putDouble_result v h64 heven

theorem State.putFp_dataOnly (s : State) (x : Fmt) (rc : Byte) (v : DWord) : s.DataOnly (s.putFp x rc v) := by
  cases x with
  | single => exact s.putGR_dataOnly ..
  | double => exact (s.putGR_dataOnly ..).trans (State.putGR_dataOnly ..)

theorem State.putFp_memory (s : State) (x : Fmt) (rc : Byte) (v : DWord) : s.SameMemory (s.putFp x rc v) := by
  cases x <;> exact State.SameMemory.of_eq (by simp [State.putFp, State.putDouble])
    (by simp [State.putFp, State.putDouble]) (by simp [State.putFp, State.putDouble])

/-- What a result in a register says depends on the general registers alone. -/
theorem State.FloatResult.congr {s t s' t' : State} {x : Fmt} {n : Byte} {v : DWord} (h : s.FloatResult t x n v)
    (hs : ∀ m, s'.getGR m = s.getGR m) (ht : ∀ m, t'.getGR m = t.getGR m) : s'.FloatResult t' x n v := by
  cases x <;> simpa only [State.FloatResult, State.ResultIn, State.RegsExcept, hs, ht] using h

/-- What an instruction leaves that writes a floating-point result after a change of FPS alone. -/
theorem State.putFp_advance {s u : State} {x : Fmt} {rc : Byte} (v : DWord) {w : Word}
    (hu : u = { s with sr := { s.sr with fps := w } }) (h : s.useFault ⟨.c, rc, dstUse x⟩ = none) :
    let t := (Done.seq (u.putFp x rc v)).advance
    s.FloatResult t x (s.absReg .c rc) v ∧ s.SameMemory t ∧ s.SameUnits t ∧ t.alu = s.alu ∧
      t.sr = { s.sr with fps := w } := by
  subst hu
  have only := State.putFp_dataOnly { s with sr := { s.sr with fps := w } } x rc v
  have hmem := State.putFp_memory { s with sr := { s.sr with fps := w } } x rc v
  refine ⟨(State.putFp_result (s := { s with sr := { s.sr with fps := w } }) v h).congr (fun _ => rfl) fun _ => rfl,
    hmem, ⟨only.acc, only.tlb, only.tlbUsage⟩, only.alu, only.sr⟩

/-! ### How a floating-point instruction ends (R510, R511) -/

/-- The mask bits are the low six bits of FPE (R70). -/
theorem fieldOf_mask (w : Word) : fieldOf w 0 6 = w &&& 0x3F := by simp [fieldOf]

/-- Where no exception is unmasked, all of them are masked. -/
theorem and_of_and_not_eq_zero {a m : Word} (h : a &&& ~~~m = 0) : a &&& m = a := by
  calc a &&& m = (a &&& m) ||| (a &&& ~~~m) := by rw [h]; simp
    _ = a &&& (m ||| ~~~m) := (BitVec.and_or_distrib_left ..).symm
    _ = a := by rw [show m ||| ~~~m = BitVec.allOnes 32 by simp, BitVec.and_allOnes]

section
variable {s : State} {k : CodeFields} {x : Fmt} {rc fa fb : Byte} {o : FpOutcome}

theorem State.statusAndTrap_completes {v : DWord} (hv : o.result = some v)
    (h : o.status.bits &&& ~~~(s.sr.fpe &&& 0x3F) = 0) :
    s.statusAndTrap k x rc fa fb o = .ok (.seq ((s.setSticky o.status).putFp x rc v)) := by
  have hu : s.unmasked o.status = false := by rw [State.unmasked, fieldOf_mask, h]; rfl
  simp only [State.statusAndTrap, hu, hv]

theorem State.statusAndTrap_traps (h : o.status.bits &&& ~~~(s.sr.fpe &&& 0x3F) ≠ 0 ∨ o.result = none) :
    s.statusAndTrap k x rc fa fb o =
      .error (.trap 22 .next (((s.setSticky o.status).setTrapStatus o.status).trapPointers k rc fa fb)) := by
  have hu : s.unmasked o.status = false → o.result = none := fun hf => h.resolve_left fun hne => by
    rw [State.unmasked, fieldOf_mask, bne_eq_false_iff_eq] at hf
    exact hne hf
  unfold State.statusAndTrap
  dsimp only
  split
  next hf hv => rw [hu hf] at hv; cases hv
  · rfl

/-- R510: with every exception masked the result is written and the exceptions enter the sticky bits. -/
theorem floatCompletes_of {i : Instr} {us : List RegUse}
    (he : exec i s = finish i.opcode (s.guarded false us (s.statusAndTrap k x rc fa fb o)))
    (hm : (⟨.c, rc, dstUse x⟩ : RegUse) ∈ us) : FloatCompletes i us x rc s o := by
  intro hr v hv hmask
  rw [State.statusAndTrap_completes hv hmask] at he
  have only := (s.setSticky o.status).putFp_dataOnly x rc v
  have hbits : o.status.bits &&& fieldOf s.sr.fpe 0 6 = o.status.bits := by
    rw [fieldOf_mask]; exact and_of_and_not_eq_zero hmask
  obtain ⟨hres, hmem, hunits, halu, hsr⟩ :=
    State.putFp_advance (u := s.setSticky o.status) v rfl ((State.regStop_none hr).2 _ hm).2
  refine completes_of he hr only.npc only.cps ⟨hres, hmem, hunits, halu, ?_, ?_⟩
  · rw [State.SameSpecialButFps, hsr]
  · rw [hsr, hbits]

/-- Setting FPS and the indirect pointers, as a floating-point trap does, leaves all that an ordinary trap saves or
looks at. -/
theorem State.trapPointers_trapsAs {u : State} {w v : Word} (hu : u = { s with sr := { s.sr with fps := w } }) :
    s.TrapsAs { u.trapPointers k rc fa fb with sr := { (u.trapPointers k rc fa fb).sr with exop := v } } := by
  subst hu
  constructor
  case general => exact State.sameGeneral_of rfl rfl rfl rfl rfl rfl rfl rfl rfl rfl
  case pcs => exact ⟨rfl, rfl, rfl⟩
  all_goals rfl

/-- A trap of a floating-point instruction that sets the indirect pointers and FPS. -/
theorem State.trapPointers_taken {u : State} {w : Word} (hu : u = { s with sr := { s.sr with fps := w } })
    (ready : s.TrapReady) (op vn : Byte) :
    ∃ t, (u.trapPointers k rc fa fb).takeInstTrap op vn .next = .next t ∧ s.TrapTaken t vn op ∧ t.sr.fps = w ∧
      t.sr.ipc = pointerWord (s.trapNumber .c k.c rc) ∧ t.sr.ipa = pointerWord (s.trapNumber .a false fa) ∧
      t.sr.ipb = pointerWord (s.trapNumber .b k.b fb) := by
  subst hu
  let u : State := { s with sr := { s.sr with fps := w } }
  let v : State :=
    { u.trapPointers k rc fa fb with sr := { (u.trapPointers k rc fa fb).sr with exop := op.setWidth 32 } }
  have hready : (u.trapPointers k rc fa fb).TrapReady := ready
  obtain ⟨x, y, z, hrec⟩ := v.recordPcs_sr (v.npc + 4) v.npc v.pc
  have hsr := v.ordinaryTrap_next_sr vn
  rw [hrec] at hsr
  exact ⟨v.ordinaryTrap vn .next, State.takeInstTrap_ready hready op vn .next,
    (State.trapPointers_trapsAs rfl).taken ready.1 rfl vn, by rw [hsr]; rfl,
    by rw [hsr]; rfl, by rw [hsr]; rfl, by rw [hsr]; rfl⟩

theorem State.pointerFor_trapNumber (s : State) (p : Pos) (f : Byte) :
    s.PointerFor p f (pointerWord (s.trapNumber p false f)) := by
  intro hf
  simp [State.trapNumber, hf, pointerWord]

theorem State.pointerForCode_trapNumber (s : State) (p : Pos) (f : Byte) :
    s.PointerForCode p f (pointerWord (s.trapNumber p true f)) := by
  unfold State.PointerForCode
  split_ifs with h7
  · intro hf
    rw [State.trapNumber, if_neg (by rw [h7]; decide), if_pos (by rw [hf]; rfl)]
    rfl
  · rw [State.trapNumber, if_pos (by rw [Bool.eq_false_iff.2 h7]; rfl)]
    rfl

/-- FPS after a floating-point trap: the masked exceptions are sticky, the trap status bits tell all of them (R510). -/
theorem putField_trapStatus (w t m : Word) (h : t &&& 0x3F = t) :
    putField (w ||| (t &&& fieldOf m 0 6)) 8 6 t = ((w ||| (t &&& m &&& 0x3F)) &&& 0xFFFFC0FF) ||| (t <<< 8) := by
  rw [putField_eq, fieldOf_mask, ← BitVec.and_assoc]
  exact congrArg (fun b : Word => ((w ||| (t &&& m &&& 0x3F)) &&& 0xFFFFC0FF) ||| b <<< 8) h

/-- The six bits of a status. -/
theorem FpStatus.bits_and (t : FpStatus) : t.bits &&& 0x3F = t.bits := by
  obtain ⟨d, x, u, v, r, n⟩ := t
  revert d x u v r n
  decide

/-- R510, R511: with an exception unmasked, or a result that is not written, the trap is taken. -/
theorem floatTraps_of {i : Instr} {us : List RegUse} {P : State → Prop}
    (he : exec i s = finish i.opcode (s.guarded false us (s.statusAndTrap k x rc fa fb o)))
    (hP : ∀ t : State, t.sr.ipc = pointerWord (s.trapNumber .c k.c rc) →
      t.sr.ipa = pointerWord (s.trapNumber .a false fa) → t.sr.ipb = pointerWord (s.trapNumber .b k.b fb) → P t) :
    FloatTraps i us s o P := by
  intro hr ready hwhy
  rw [State.guarded_none _ hr, State.statusAndTrap_traps hwhy, finish_trap] at he
  obtain ⟨t, hnext, htaken, hfps, hc, ha, hb⟩ :=
    State.trapPointers_taken (s := s) (u := (s.setSticky o.status).setTrapStatus o.status) rfl ready i.opcode 22
  exact ⟨t, he.trans hnext, htaken, hP t hc ha hb, hfps.trans (putField_trapStatus _ _ _ o.status.bits_and)⟩

end

end Sys2Proof.Machine

namespace Sys2Proof.Machine

/-! ### The instructions with two operands (R520 to R535) -/

theorem dst_mem_usesFp (x y : Fmt) (rc ra rb : Byte) : (⟨.c, rc, dstUse y⟩ : RegUse) ∈ usesFp x y rc ra rb := by
  simp [usesFp]

section
variable {i : Instr} {x y : Fmt} {rc ra rb : Byte} {o : FpOutcome} {s : State}

theorem fpBinary_completes (he : exec i s = fpBinary i x y rc ra rb (fun _ _ _ => o) s) :
    FloatCompletes i (usesFp x y rc ra rb) y rc s o :=
  floatCompletes_of he (dst_mem_usesFp x y rc ra rb)

theorem fpBinary_traps (he : exec i s = fpBinary i x y rc ra rb (fun _ _ _ => o) s) :
    FloatTraps i (usesFp x y rc ra rb) s o fun t =>
      s.PointerFor .c rc t.sr.ipc ∧ s.PointerFor .a ra t.sr.ipa ∧ s.PointerFor .b rb t.sr.ipb :=
  floatTraps_of he fun t hc ha hb => by
    rw [hc, ha, hb]
    exact ⟨s.pointerFor_trapNumber .c rc, s.pointerFor_trapNumber .a ra, s.pointerFor_trapNumber .b rb⟩

end

/-- Settles O35: each instruction is `fpBinary` with its operation. -/
theorem floatArithmeticCompletes : Obligations.FloatArithmeticCompletes := by
  intro rc ra rb s e f d x y does
  exact ⟨fpBinary_completes rfl, fpBinary_completes rfl, fpBinary_completes rfl, fpBinary_completes rfl,
    fpBinary_completes rfl, fpBinary_completes rfl, fpBinary_completes rfl, fpBinary_completes rfl,
    fpBinary_completes rfl, fpBinary_completes rfl, fpBinary_completes rfl, fpBinary_completes rfl,
    fpBinary_completes rfl, fpBinary_completes rfl, fpBinary_completes rfl⟩

end Sys2Proof.Machine

namespace Sys2Proof.Machine

/-! ### CONVERT, SQRT and MFACC (R550, R551, R554) -/

/-- The environment of CONVERT: RND is the rounding mode, or with RND = 100 FPE.FRM (R550). -/
def State.convertEnv (s : State) (fn : Byte) : FpEnv :=
  { s.fpEnv with
    mode := roundingOf (if fn.toNat / 16 % 8 = 4 then s.sr.fpe.toNat / 2 ^ 6 % 4 else fn.toNat / 16 % 8) }

/-- FPE.FRM (R503). -/
theorem State.fpEnv_mode (s : State) : s.fpEnv.mode = roundingOf (s.sr.fpe.toNat / 2 ^ 6 % 4) :=
  congrArg roundingOf (fieldOf_toNat s.sr.fpe 6 2 (by decide))

/-- FPE.ACF (R505). -/
theorem State.acf_eq (s : State) : s.acf = s.sr.fpe.toNat / 2 ^ 9 % 4 := fieldOf_toNat s.sr.fpe 9 2 (by decide)

theorem State.convertEnv_eq (s : State) (fn : Byte) : ({ s.fpEnv with
    mode := if rndField fn = 4 then s.fpEnv.mode else roundingOf (rndField fn) } : FpEnv) = s.convertEnv fn := by
  unfold State.convertEnv
  rw [s.fpEnv_mode, apply_ite roundingOf]
  rfl

/-- Bit 7 of a byte, UI of CONVERT (R550), as a bit of the word it stands in. -/
theorem bitOf_setWidth_seven (b : Byte) : bitOf (b.setWidth 32) 7 = b.getLsbD 7 := by
  simp [bitOf]

section
variable {rc ra fn : Byte} {s : State}

/-- CONVERT with control fields that are not reserved. -/
theorem exec_convert (hs : fn.toNat % 4 ≠ 3) (hd : fn.toNat / 4 % 4 ≠ 3) (hne : fn.toNat / 4 % 4 ≠ fn.toNat % 4)
    (hr : fn.toNat / 16 % 8 ≤ 4) {o : FpOutcome} (ho : s.converted ra fn = o) :
    exec (.convert rc ra fn) s = finish (Instr.convert rc ra fn).opcode (s.guarded false
      [⟨.a, ra, srcUse (fmtOf (fsField fn))⟩, ⟨.c, rc, dstUse (fmtOf (fdField fn))⟩]
      (s.statusAndTrap .low (fmtOf (fdField fn)) rc ra fn o)) := by
  subst ho
  change execConvert rc ra fn s = _
  unfold execConvert
  rw [if_neg (by simp [fsField, fdField, hs, hd]), if_neg (by simp [fsField, fdField, rndField, hne, Nat.not_lt.2 hr])]

/-- CONVERT from an integer (R550). -/
theorem State.converted_integer (hs : fn.toNat % 4 = 0) : s.converted ra fn =
    (fpConvert (fmtOf (fdField fn)) (s.convertEnv fn) (integerValue (bitOf (fn.setWidth 32) 7) (s.src .a ra))).packed
      (fmtOf (fdField fn)) := by
  unfold State.converted
  dsimp only
  rw [if_pos (show fsField fn = 0 from hs), s.convertEnv_eq, bitOf_setWidth_seven]

/-- CONVERT to an integer (R550). -/
theorem State.converted_toInteger (hs : fn.toNat % 4 ≠ 0) (hd : fn.toNat / 4 % 4 = 0) : s.converted ra fn =
    fpToInteger (bitOf (fn.setWidth 32) 7) (s.convertEnv fn) (s.fpSrc s.fastFloat (fmtOf (fsField fn)) .a ra) := by
  unfold State.converted
  dsimp only
  rw [if_neg (show fsField fn ≠ 0 from hs), if_pos (show fdField fn = 0 from hd), s.convertEnv_eq, bitOf_setWidth_seven]

/-- CONVERT between the floating-point formats (R550). -/
theorem State.converted_float (hs : fn.toNat % 4 ≠ 0) (hd : fn.toNat / 4 % 4 ≠ 0) : s.converted ra fn =
    (fpConvert (fmtOf (fdField fn)) (s.convertEnv fn) (s.fpSrc s.fastFloat (fmtOf (fsField fn)) .a ra)).packed
      (fmtOf (fdField fn)) := by
  unfold State.converted
  dsimp only
  rw [if_neg (show fsField fn ≠ 0 from hs), if_neg (show fdField fn ≠ 0 from hd), s.convertEnv_eq]

/-- SQRT of a format that is not reserved. -/
theorem exec_sqrt (hs : fn.toNat % 4 = 1 ∨ fn.toNat % 4 = 2) :
    exec (.sqrt rc ra fn) s = finish (Instr.sqrt rc ra fn).opcode (s.guarded false
      [⟨.a, ra, srcUse (fmtOf (fsField fn))⟩, ⟨.c, rc, dstUse (fmtOf (fsField fn))⟩]
      (s.statusAndTrap .low (fmtOf (fsField fn)) rc ra fn
        ((fpSqrt (fmtOf (fsField fn)) s.fpEnv (s.fpSrc s.fastFloat (fmtOf (fsField fn)) .a ra)).packed
          (fmtOf (fsField fn))))) := by
  have h03 : fsField fn ≠ 0 ∧ fsField fn ≠ 3 := by unfold fsField; omega
  change execSqrt rc ra fn s = _
  unfold execSqrt
  dsimp only
  rw [if_neg (by simp [h03])]

/-- The control fields of MTACC and MFACC are not reserved (R512). -/
theorem State.fmtReserved_false (hd : fn.toNat / 4 % 4 ≠ 3)
    (ha : s.sr.fpe.toNat / 2 ^ 9 % 4 = 1 ∨ s.sr.fpe.toNat / 2 ^ 9 % 4 = 2) : s.fmtReserved fn = false := by
  have h0 : s.acf ≠ 0 ∧ s.acf ≠ 3 := by rw [s.acf_eq]; omega
  simp [State.fmtReserved, fdField, hd, h0]

theorem State.moveFmt_eq (s : State) (fn : Byte) : s.moveFmt fn =
    fmtOf (if fn.toNat / 4 % 4 = 0 then s.sr.fpe.toNat / 2 ^ 9 % 4 else fn.toNat / 4 % 4) := by
  unfold State.moveFmt fdField
  rw [s.acf_eq]

/-- MFACC with control fields that are not reserved. -/
theorem exec_mfacc (hd : fn.toNat / 4 % 4 ≠ 3)
    (ha : s.sr.fpe.toNat / 2 ^ 9 % 4 = 1 ∨ s.sr.fpe.toNat / 2 ^ 9 % 4 = 2) {m : Fmt} (hm : s.moveFmt fn = m) :
    exec (.mfacc rc ra fn) s = finish (Instr.mfacc rc ra fn).opcode (s.guarded false [⟨.c, rc, dstUse m⟩]
      (s.statusAndTrap .low m rc ra fn
        ((fpConvert m s.fpEnv (unpack .double s.fastFloat (s.getAcc (fn.toNat % 4)))).packed m))) := by
  subst hm
  change execMfacc rc ra fn s = _
  unfold execMfacc
  dsimp only
  rw [if_neg (by simp [State.fmtReserved_false hd ha]), if_neg (by simp [s.acf_eq]; omega)]
  rfl

end

/-- Settles O36: with these control fields the instructions are `statusAndTrap` with the outcome of their operation. -/
theorem floatConversionsComplete : Obligations.FloatConversionsComplete := by
  intro rc ra fn s fs fd rnd ui acf f d m x e converts
  refine ⟨fun hr => ⟨fun hs hd => ?_, fun hs hd => ?_, fun h => ?_⟩, fun hs => ?_, fun hd ha => ?_⟩
  · exact floatCompletes_of (exec_convert (by omega) (by omega) (by omega) hr (State.converted_integer hs))
      (.tail _ (.head _))
  · exact floatCompletes_of (exec_convert (by omega) (by omega) (by omega) hr (State.converted_toInteger (by omega) hd))
      (.tail _ (.head _))
  · exact floatCompletes_of
      (exec_convert (by omega) (by omega) (by omega) hr (State.converted_float (by omega) (by omega)))
      (.tail _ (.head _))
  · exact floatCompletes_of (exec_sqrt hs) (.tail _ (.head _))
  · exact floatCompletes_of (exec_mfacc hd ha (s.moveFmt_eq fn)) (.head _)

/-- The trap of an instruction whose bits 7-0 are a function code (R511, D26). -/
theorem functionCode_traps {i : Instr} {us : List RegUse} {rc ra fn : Byte} {x : Fmt} {o : FpOutcome} {s : State}
    (he : exec i s = finish i.opcode (s.guarded false us (s.statusAndTrap .low x rc ra fn o))) :
    FloatTraps i us s o fun t => s.PointerFor .c rc t.sr.ipc ∧ s.PointerFor .a ra t.sr.ipa ∧
      s.PointerForCode .b fn t.sr.ipb :=
  floatTraps_of he fun t hc ha hb => by
    rw [hc, ha, hb]
    exact ⟨s.pointerFor_trapNumber .c rc, s.pointerFor_trapNumber .a ra, s.pointerForCode_trapNumber .b fn⟩

/-- Settles O38: the same forms as in O35 and O36, with the trap of `statusAndTrap`. -/
theorem floatExceptionsTrap : Obligations.FloatExceptionsTrap := by
  intro rc ra rb fn s e f d x y fs fd rnd ui acf g h m r does codes converts
  refine ⟨fpBinary_traps rfl, fpBinary_traps rfl, fpBinary_traps rfl, fpBinary_traps rfl, fpBinary_traps rfl,
    fpBinary_traps rfl, fpBinary_traps rfl, fpBinary_traps rfl, fpBinary_traps rfl, fpBinary_traps rfl,
    fpBinary_traps rfl, fpBinary_traps rfl, fpBinary_traps rfl, fpBinary_traps rfl, fpBinary_traps rfl,
    fun hr => ⟨fun hs hd => ?_, fun hs hd => ?_, fun hsd => ?_⟩, fun hs => ?_, fun hd ha => ?_⟩
  · exact functionCode_traps (exec_convert (by omega) (by omega) (by omega) hr (State.converted_integer hs))
  · exact functionCode_traps
      (exec_convert (by omega) (by omega) (by omega) hr (State.converted_toInteger (by omega) hd))
  · exact functionCode_traps
      (exec_convert (by omega) (by omega) (by omega) hr (State.converted_float (by omega) (by omega)))
  · exact functionCode_traps (exec_sqrt hs)
  · exact functionCode_traps (exec_mfacc hd ha (s.moveFmt_eq fn))

end Sys2Proof.Machine

namespace Sys2Proof.Machine

/-! ### Reserved control fields (R512) -/

/-- The uses of a multiply-accumulate: RB is none with FUNC[3] = 1 (R540). -/
theorem usesMac_eq (u : Use) (fn ra rb : Byte) :
    usesMac u fn ra rb = if fn.getLsbD 5 then [⟨.a, ra, u⟩] else [⟨.a, ra, u⟩, ⟨.b, rb, u⟩] := by
  unfold usesMac funcBit
  cases fn.getLsbD 5 <;> rfl

theorem reservedField_traps {i : Instr} {us : List RegUse} {vn fc fa fb : Byte} {k : CodeFields} {s : State}
    (ready : s.TrapReady)
    (he : exec i s = finish i.opcode (s.guarded false us (s.reservedField vn k fc fa fb)))
    (hr : s.regStop false us = none) : ∃ t, exec i s = .next t ∧ s.TrapTaken t vn i.opcode ∧ t.sr.fps = s.sr.fps := by
  rw [State.guarded_none _ hr, State.reservedField, finish_trap] at he
  obtain ⟨t, hnext, htaken, hfps, -⟩ := State.trapPointers_taken (s := s) (u := s) rfl ready i.opcode vn
  exact ⟨t, he.trans hnext, htaken, hfps⟩

section
variable {rc ra rb fn : Byte} {s : State}

theorem exec_fmac_reserved (h : s.acf = 0 ∨ s.acf = 3) : exec (.fmac fn ra rb) s = finish (Instr.fmac fn ra rb).opcode
    (s.guarded false (usesMac .number fn ra rb) (s.reservedField 24 .high fn ra rb)) :=
  congrArg (finish _) (if_pos (by simpa using h))

theorem exec_dmac_reserved (h : s.acf = 0 ∨ s.acf = 3) : exec (.dmac fn ra rb) s = finish (Instr.dmac fn ra rb).opcode
    (s.guarded false (usesMac .number fn ra rb) (s.reservedField 25 .high fn ra rb)) :=
  congrArg (finish _) (if_pos (by simpa using h))

theorem exec_convert_reserved (h : fsField fn = 3 ∨ fdField fn = 3) : exec (.convert rc ra fn) s =
    finish (Instr.convert rc ra fn).opcode
      (s.guarded false [⟨.a, ra, .number⟩, ⟨.c, rc, .number⟩] (s.reservedField 36 .low rc ra fn)) :=
  congrArg (finish _) (if_pos (by simpa using h))

theorem exec_sqrt_reserved (h : fsField fn = 0 ∨ fsField fn = 3) : exec (.sqrt rc ra fn) s =
    finish (Instr.sqrt rc ra fn).opcode
      (s.guarded false [⟨.a, ra, .number⟩, ⟨.c, rc, .number⟩] (s.reservedField 37 .low rc ra fn)) :=
  congrArg (finish _) (if_pos (by simpa using h))

theorem exec_classify_reserved (h : fsField fn = 0 ∨ fsField fn = 3) : exec (.classify rc ra fn) s =
    finish (Instr.classify rc ra fn).opcode
      (s.guarded false [⟨.a, ra, .number⟩, ⟨.c, rc, .number⟩] (s.reservedField 38 .low rc ra fn)) :=
  congrArg (finish _) (if_pos (by simpa using h))

theorem exec_mtacc_reserved (h : s.fmtReserved fn = true) : exec (.mtacc rc ra fn) s =
    finish (Instr.mtacc rc ra fn).opcode (s.guarded false [⟨.a, ra, .number⟩] (s.reservedField 40 .low rc ra fn)) :=
  congrArg (finish _) (if_pos h)

theorem exec_mfacc_reserved (h : s.fmtReserved fn = true) : exec (.mfacc rc ra fn) s =
    finish (Instr.mfacc rc ra fn).opcode (s.guarded false [⟨.c, rc, .number⟩] (s.reservedField 41 .low rc ra fn)) :=
  congrArg (finish _) (if_pos h)

end

/-- Settles O39: with a reserved field each instruction is `reservedField` with its vector. -/
theorem reservedControlFieldsTrap : Obligations.ReservedControlFieldsTrap := by
  intro rc ra rb fn s ready fs fd acf mac traps move
  have hmac : usesMac .number fn ra rb = mac := usesMac_eq .number fn ra rb
  refine ⟨fun h => ?_, fun h => reservedField_traps ready (exec_convert_reserved h),
    fun h => ⟨reservedField_traps ready (exec_sqrt_reserved h), reservedField_traps ready (exec_classify_reserved h)⟩,
    fun h => ?_⟩
  · have hacf : s.acf = 0 ∨ s.acf = 3 := by rw [s.acf_eq]; exact h
    rw [← hmac]
    exact ⟨reservedField_traps ready (exec_fmac_reserved hacf), reservedField_traps ready (exec_dmac_reserved hacf)⟩
  · have hmove : s.fmtReserved fn = true := by
      have hfields : fdField fn = 3 ∨ fdField fn = 0 ∧ (s.acf = 0 ∨ s.acf = 3) := by rw [s.acf_eq]; exact h
      simpa [State.fmtReserved] using hfields
    exact ⟨reservedField_traps ready (exec_mtacc_reserved hmove), reservedField_traps ready (exec_mfacc_reserved hmove)⟩

end Sys2Proof.Machine

namespace Sys2Proof.Machine

/-! ### Multiply-accumulate, multiply-sum and MTACC (R513, R540 to R543, R553) -/

/-- An accumulator written, and read again (R33). -/
theorem State.getAcc_putAcc (s : State) {n : Nat} (k : Nat) (v : DWord) (hn : n < 4) :
    (s.putAcc n v).getAcc k = if k = n then v else s.getAcc k := vector_getD_set s.acc n k v 0 hn

section
variable {i : Instr} {us : List RegUse} {rc ra rb fn : Byte} {s : State}

/-- A value put into an accumulator, with its status in the sticky bits whatever the masks (R513). -/
theorem accumulates_completes {n : Nat} {st : FpStatus} {v : DWord} (hn : n < 4)
    (he : exec i s = finish i.opcode (s.guarded false us (.ok (.seq ((s.setAllSticky st).putAcc n v)))))
    (hr : s.regStop false us = none) : Completes i s fun t =>
      t.getAcc n = v ∧ (∀ k < 4, k ≠ n → t.getAcc k = s.getAcc k) ∧ s.RegsExcept t [] ∧ s.SameMemory t ∧
        t.alu = s.alu ∧ s.SameSpecialButFps t ∧ t.sr.fps = s.sr.fps ||| st.bits ∧ t.tlb = s.tlb ∧
        t.tlbUsage = s.tlbUsage := by
  have hget : ∀ k, (Done.seq ((s.setAllSticky st).putAcc n v)).advance.getAcc k = if k = n then v else s.getAcc k :=
    fun k => (s.setAllSticky st).getAcc_putAcc k v hn
  have hsr : (Done.seq ((s.setAllSticky st).putAcc n v)).advance.sr = { s.sr with fps := s.sr.fps ||| st.bits } := by
    rw [Done.advance_seq_sr, State.putAcc_sr, State.setAllSticky]
  exact completes_of he hr (by simp) (by simp) ⟨by rw [hget, if_pos rfl], fun k _ hk => by rw [hget, if_neg hk],
    fun m _ => State.getGR_congr (by simp) (by simp) (by simp) (by simp) m,
    State.SameMemory.of_eq (by simp) (by simp) (by simp), by simp, by rw [State.SameSpecialButFps, hsr],
    by rw [hsr], by simp, by simp⟩

/-- A multiply-sum: the result goes to DEST, its status into the sticky bits whatever the masks (R513). -/
theorem multiplySum_completes {x : Fmt} (he : exec i s = finish i.opcode (s.guarded false (usesFp x x rc ra rb)
      (.ok (.seq (s.multiplySum x rc ra rb))))) (hr : s.regStop false (usesFp x x rc ra rb) = none) :
    let r := fpMac x s.fpEnv.mode (s.fpSrc true x .a ra) (unpack .double true (s.getAcc 0)) (s.fpSrc true x .b rb)
    Completes i s fun t => s.FloatResult t x (s.absReg .c rc) (pack x r.1) ∧ t.acc = s.acc ∧ s.SameMemory t ∧
      t.alu = s.alu ∧ s.SameSpecialButFps t ∧ t.sr.fps = s.sr.fps ||| r.2.bits ∧ t.tlb = s.tlb ∧
      t.tlbUsage = s.tlbUsage := by
  intro r
  have only := (s.setAllSticky r.2).putFp_dataOnly x rc (pack x r.1)
  obtain ⟨hres, hmem, ⟨hacc, htlb, husage⟩, halu, hsr⟩ := State.putFp_advance (u := s.setAllSticky r.2) (pack x r.1) rfl
    ((State.regStop_none hr).2 _ (dst_mem_usesFp x x rc ra rb)).2
  exact completes_of (u := (s.setAllSticky r.2).putFp x rc (pack x r.1)) he hr only.npc only.cps
    ⟨hres, hacc, hmem, halu, by rw [State.SameSpecialButFps, hsr], by rw [hsr], htlb, husage⟩

theorem exec_fmac (h : s.acf = 1 ∨ s.acf = 2) : exec (.fmac fn ra rb) s = finish (Instr.fmac fn ra rb).opcode
    (s.guarded false (usesMac .fpuSrc fn ra rb)
      (.ok (.seq (s.multiplyAccumulate .single (if s.acf = 1 then .single else .double) fn ra rb)))) :=
  congrArg (finish _) (if_neg (by rcases h with h | h <;> simp [h]))

theorem exec_dmac (h : s.acf = 2) : exec (.dmac fn ra rb) s = finish (Instr.dmac fn ra rb).opcode
    (s.guarded false (usesMac .doubleSrc fn ra rb) (.ok (.seq (s.multiplyAccumulate .double .double fn ra rb)))) := by
  change execDmac fn ra rb s = _
  unfold execDmac
  rw [if_neg (by simp [h]), if_neg (by simp [h])]

theorem exec_fmsm (h : s.acf = 1) : exec (.fmsm rc ra rb) s = finish (Instr.fmsm rc ra rb).opcode
    (s.guarded false (usesFp .single .single rc ra rb) (.ok (.seq (s.multiplySum .single rc ra rb)))) :=
  congrArg (fun b => finish _ (s.guarded false _ b)) (if_pos h)

theorem exec_dmsm (h : s.acf = 2) : exec (.dmsm rc ra rb) s = finish (Instr.dmsm rc ra rb).opcode
    (s.guarded false (usesFp .double .double rc ra rb) (.ok (.seq (s.multiplySum .double rc ra rb)))) :=
  congrArg (fun b => finish _ (s.guarded false _ b)) (if_pos h)

/-- MTACC with control fields that are not reserved. -/
theorem exec_mtacc (hd : fn.toNat / 4 % 4 ≠ 3)
    (ha : s.sr.fpe.toNat / 2 ^ 9 % 4 = 1 ∨ s.sr.fpe.toNat / 2 ^ 9 % 4 = 2) {m : Fmt} (hm : s.moveFmt fn = m)
    {r : FpValue × FpStatus} (ht : fpToAcc (fmtOf s.acf) s.fpEnv.mode (s.fpSrc false m .a ra) = r) :
    exec (.mtacc rc ra fn) s = finish (Instr.mtacc rc ra fn).opcode (s.guarded false [⟨.a, ra, srcUse m⟩]
      (.ok (.seq ((s.setAllSticky r.2).putAcc (fn.toNat % 4) (pack .double r.1))))) := by
  subst hm ht
  have h03 : s.acf ≠ 0 ∧ s.acf ≠ 3 := by rw [s.acf_eq]; omega
  change execMtacc rc ra fn s = _
  unfold execMtacc
  dsimp only
  rw [if_neg (by simp [State.fmtReserved_false hd ha]), if_neg (by simp [h03])]
  rfl

end

/-- Settles O40: each form puts the outcome of `fpMac` or `fpToAcc` into its accumulator, or into DEST. -/
theorem accumulationCompletes : Obligations.AccumulationCompletes := by
  intro rc ra rb fn s acf n mode fd neg one zero o2 o3 uses keeps puts sums m
  have hn : n < 4 := Nat.mod_lt _ (by decide)
  have hacf : s.acf = acf := s.acf_eq
  have huses : ∀ u, usesMac u fn ra rb = uses u := fun u => usesMac_eq u fn ra rb
  refine ⟨fun h => ?_, fun h => ?_, fun h => ?_, fun h => ?_, fun h => ?_, fun hd ha => ?_⟩
  · have he := exec_fmac (fn := fn) (ra := ra) (rb := rb) (.inl (hacf.trans h))
    rw [huses, hacf, if_pos h] at he
    exact accumulates_completes hn he
  · have he := exec_fmac (fn := fn) (ra := ra) (rb := rb) (.inr (hacf.trans h))
    rw [huses, hacf, if_neg (by omega)] at he
    exact accumulates_completes hn he
  · have he := exec_dmac (fn := fn) (ra := ra) (rb := rb) (hacf.trans h)
    rw [huses] at he
    exact accumulates_completes hn he
  · exact multiplySum_completes (exec_fmsm (hacf.trans h))
  · exact multiplySum_completes (exec_dmsm (hacf.trans h))
  · exact accumulates_completes hn (exec_mtacc hd ha (s.moveFmt_eq fn) (by rw [hacf]))

end Sys2Proof.Machine

namespace Sys2Proof.Machine

/-! ### CLASS (R552) -/

/-- The row of R552 that a biased exponent below that of infinity selects. -/
theorem classRow_eq {bexp q : Nat} (h : bexp < 2 ^ q) (hne : bexp ≠ 2 ^ q - 1) :
    (if bexp = 0 then 0 else if bexp = 1 then 4 else if bexp = 2 ^ q - 2 then 0xC else 8) =
      if bexp = 0 then 0 else if bexp = 1 then 4 else if bexp < 2 ^ q - 2 then 8 else 12 := by
  split_ifs <;> omega

/-- The sign stands above the five bits of a classification code. -/
theorem sign_or_ofNat (b : Bool) {n : Nat} (h : n < 32) :
    ((if b then 0x20 else 0) ||| BitVec.ofNat 32 n : Word) = BitVec.ofNat 32 (32 * b.toNat + n) := by
  revert n
  cases b <;> decide

/-- The classification code of a pattern whose fraction has `p` bits and whose biased exponent `q`. -/
theorem classCode_eq {f : Fmt} {p q : Nat} (hp : f.precision = p + 1) (hq : f.expBits = q) (w : DWord) :
    classCode f w = BitVec.ofNat 32 (32 * (w.toNat / 2 ^ (p + q) % 2) +
      let bexp := w.toNat / 2 ^ p % 2 ^ q
      let frac := w.toNat % 2 ^ p
      if bexp = 2 ^ q - 1 then (if frac = 0 then 16 else if frac < 2 ^ (p - 1) then 18 else 19)
      else (if bexp = 0 then 0 else if bexp = 1 then 4 else if bexp < 2 ^ q - 2 then 8 else 12) +
        (if frac = 0 then 0 else if frac = 2 ^ p - 1 then 3 else 2)) := by
  have hsign : w.toNat / 2 ^ (p + q) % 2 = (w.getLsbD (p + q)).toNat := by
    rw [BitVec.getLsbD, Nat.testBit_eq_decide_div_mod_eq]
    rcases Nat.mod_two_eq_zero_or_one (w.toNat / 2 ^ (p + q)) with h | h <;> simp [h]
  have hpow : p + 1 - 2 = p - 1 := by omega
  unfold classCode fpFields
  simp only [hp, hq, Nat.add_sub_cancel, hpow]
  have hbexp : w.toNat / 2 ^ p % 2 ^ q < 2 ^ q := Nat.mod_lt _ (Nat.two_pow_pos q)
  rw [hsign, sign_or_ofNat _ (by split_ifs <;> omega)]
  generalize w.toNat / 2 ^ p % 2 ^ q = bexp at hbexp ⊢
  by_cases h : bexp = 2 ^ q - 1
  · rw [if_pos h, if_pos h]
  · rw [if_neg h, if_neg h, classRow_eq hbexp h]

/-- The number that a source pattern is: of a double-precision one the even register holds the most significant word. -/
theorem State.fpBitsOf_toNat (s : State) (x : Fmt) (p : Pos) (f : Byte) : (s.fpBitsOf x p f).toNat =
    let n := s.absReg p f
    if x = .double then (s.getGR n).toNat * 2 ^ 32 + (s.getGR (n + 1)).toNat else (s.getGR n).toNat := by
  cases x with
  | single => exact BitVec.toNat_setWidth_of_le (by decide)
  | double =>
    rw [if_pos rfl]
    exact (BitVec.toNat_append ..).trans
      ((Nat.shiftLeft_add_eq_or_of_lt (BitVec.isLt _) _).symm.trans (by rw [Nat.shiftLeft_eq]))

theorem exec_classify {rc ra fn : Byte} {s : State} (h : fn.toNat % 4 = 1 ∨ fn.toNat % 4 = 2) {f : Fmt}
    (hf : fmtOf (fsField fn) = f) : exec (.classify rc ra fn) s = finish (Instr.classify rc ra fn).opcode
      (s.guarded false [⟨.a, ra, srcUse f⟩, ⟨.c, rc, .dst .fpu⟩]
        (.ok (.seq (s.putGR .fpu (s.absReg .c rc) (classCode f (s.fpBitsOf f .a ra)))))) := by
  subst hf
  have h03 : fsField fn ≠ 0 ∧ fsField fn ≠ 3 := by unfold fsField; omega
  exact congrArg (finish _) (if_neg (by simp [h03]))

/-- Settles O41: the code of the pattern by its fields, of the format that FS names. -/
theorem classifyCompletes : Obligations.ClassifyCompletes := by
  intro rc ra fn s h long n p q w sign bexp frac row column code
  let f : Fmt := if long then .double else .single
  have hf : fmtOf (fsField fn) = f := if_congr decide_eq_true_iff.symm rfl rfl
  have hp : f.precision = p + 1 := (by decide : ∀ b : Bool,
    (if b then Fmt.double else .single).precision = (if b then 52 else 23) + 1) long
  have hq : f.expBits = q := (by decide : ∀ b : Bool,
    (if b then Fmt.double else .single).expBits = if b then 11 else 8) long
  have hw : (s.fpBitsOf f .a ra).toNat = w := by
    rw [s.fpBitsOf_toNat]
    exact if_congr (by simp [f]) rfl rfl
  have hcode : classCode f (s.fpBitsOf f .a ra) = BitVec.ofNat 32 (32 * sign + code) := by
    rw [classCode_eq hp hq, hw]
  rw [← hcode]
  exact plainCompletes_of (exec_classify h hf) (.tail _ (.head _))

end Sys2Proof.Machine

namespace Sys2Proof.Machine

/-! ### Exponents of finite values (46_floating_point.md R501, R509) -/

theorem bitLength_eq {m : Nat} (h : 0 < m) : bitLength m = Nat.log2 m + 1 := if_neg h.ne'

theorem leadingExp_eq {m : Nat} (h : 0 < m) (e : Int) : leadingExp m e = e + Nat.log2 m := by
  rw [leadingExp, bitLength_eq h]; push_cast; ring

/-- A non-zero magnitude lies between the powers of two of its exponent and the next. -/
theorem leadingExp_bounds {m : Nat} (h : 0 < m) (e : Int) :
    (2 : ℝ) ^ leadingExp m e ≤ m * (2 : ℝ) ^ e ∧ m * (2 : ℝ) ^ e < (2 : ℝ) ^ (leadingExp m e + 1) := by
  have hpos : (0 : ℝ) < 2 ^ e := by positivity
  have hlow : (2 : ℝ) ^ Nat.log2 m ≤ m := by exact_mod_cast Nat.log2_self_le h.ne'
  have hhigh : (m : ℝ) < 2 ^ (Nat.log2 m + 1) := by exact_mod_cast Nat.lt_log2_self
  have hsplit : ∀ j : Nat, (2 : ℝ) ^ (e + j) = 2 ^ j * 2 ^ e := fun j => by
    rw [zpow_add₀ two_ne_zero, zpow_natCast, mul_comm]
  rw [leadingExp_eq h, hsplit, add_assoc, ← Nat.cast_succ, hsplit]
  exact ⟨mul_le_mul_of_nonneg_right hlow hpos.le, mul_lt_mul_of_pos_right hhigh hpos⟩

/-- The exponent of a magnitude is below `n` when the magnitude is below `2^n`. -/
theorem leadingExp_lt_iff {m : Nat} (h : 0 < m) (e n : Int) : leadingExp m e < n ↔ m * (2 : ℝ) ^ e < (2 : ℝ) ^ n := by
  obtain ⟨hlow, hhigh⟩ := leadingExp_bounds h e
  constructor
  · intro hn
    exact hhigh.trans_le (zpow_le_zpow_right₀ one_le_two hn)
  · intro hn
    exact (zpow_lt_zpow_iff_right₀ one_lt_two).1 (hlow.trans_lt hn)

/-! ### What rounding delivers (R503) -/

/-- A rounded number is nearer than one unit. -/
theorem IsRounded.close {mode : Rounding} {g : Int} {x y : ℝ} (h : IsRounded mode g x y) : |y - x| < (2 : ℝ) ^ g := by
  obtain ⟨n, -, h⟩ := h
  have hpos : (0 : ℝ) < 2 ^ g := by positivity
  cases mode with
  | nearest => exact h.1.trans_lt (half_lt_self hpos)
  | down => rw [abs_sub_comm, abs_of_nonneg (sub_nonneg.2 h.1)]; exact sub_lt_iff_lt_add'.2 h.2
  | up => rw [abs_of_nonneg (sub_nonneg.2 h.1)]; exact sub_lt_comm.1 h.2
  | zero =>
    obtain ⟨hle, hlt, hsign⟩ := h
    rcases le_total 0 x with hx | hx <;> rcases le_total 0 y with hy | hy <;>
      simp only [abs_of_nonneg, abs_of_nonpos, hx, hy] at hle hlt <;> rw [abs_lt] <;> constructor <;> nlinarith

/-- A multiple of the unit that is nearer than one unit lies between the same multiples of the unit as the number. -/
theorem le_of_near_multiple {g : Int} {x : ℝ} {n a : Int} (h : |n * (2 : ℝ) ^ g - x| < (2 : ℝ) ^ g) :
    (a * (2 : ℝ) ^ g ≤ x → a ≤ n) ∧ (x ≤ a * (2 : ℝ) ^ g → n ≤ a) := by
  have hpos : (0 : ℝ) < 2 ^ g := by positivity
  obtain ⟨hlow, hhigh⟩ := abs_lt.1 h
  constructor <;> intro ha
  · have : (a : ℝ) < n + 1 := lt_of_mul_lt_mul_right (by linarith) hpos.le
    exact Int.lt_add_one_iff.1 (by exact_mod_cast this)
  · have : (n : ℝ) < a + 1 := lt_of_mul_lt_mul_right (by linarith) hpos.le
    exact Int.lt_add_one_iff.1 (by exact_mod_cast this)

theorem roundAt_of_le {g e : Int} (mode : Rounding) (neg : Bool) (m : Nat) (h : g ≤ e) :
    roundAt mode neg m e g = ⟨m, e, false⟩ := if_pos h

/-- The part of a magnitude that is kept and the part that is cut off. -/
theorem roundAt_of_lt {g e : Int} (mode : Rounding) (neg : Bool) (m : Nat) (h : e < g) :
    roundAt mode neg m e g =
      ⟨if roundsAway mode neg (m / 2 ^ (g - e).toNat) (m % 2 ^ (g - e).toNat) (2 ^ ((g - e).toNat - 1)) then
        m / 2 ^ (g - e).toNat + 1 else m / 2 ^ (g - e).toNat, g, m % 2 ^ (g - e).toNat != 0⟩ := if_neg (not_le.2 h)

/-- A power of two as a multiple of a smaller one. -/
theorem zpow_eq_natPow_mul {g e : Int} (h : g ≤ e) : (2 : ℝ) ^ e = (2 ^ (e - g).toNat : Nat) * (2 : ℝ) ^ g := by
  rw [Nat.cast_pow, Nat.cast_ofNat, ← zpow_natCast, ← zpow_add₀ two_ne_zero, Int.toNat_of_nonneg (by omega)]
  congr 1; ring

/-- A rounded magnitude is a multiple of the unit. -/
theorem roundAt_multiple (mode : Rounding) (neg : Bool) (m : Nat) (e g : Int) :
    ∃ n : Nat, ((roundAt mode neg m e g).m : ℝ) * (2 : ℝ) ^ (roundAt mode neg m e g).e = n * (2 : ℝ) ^ g := by
  rcases le_or_gt g e with h | h
  · rw [roundAt_of_le _ _ _ h]
    exact ⟨m * 2 ^ (e - g).toNat, by rw [zpow_eq_natPow_mul h]; push_cast; ring⟩
  · rw [roundAt_of_lt _ _ _ h]
    exact ⟨_, rfl⟩

/-- Nothing cut off is never rounded up. -/
theorem roundsAway_zero (mode : Rounding) (neg : Bool) (q : Nat) {half : Nat} (h : 0 < half) :
    roundsAway mode neg q 0 half = false := by
  cases mode <;> simp [roundsAway, h.ne]

/-- Inexact tells that the rounded magnitude is another. -/
theorem roundAt_inexact (mode : Rounding) (neg : Bool) (m : Nat) (e g : Int) :
    (roundAt mode neg m e g).inexact = true ↔
      ((roundAt mode neg m e g).m : ℝ) * (2 : ℝ) ^ (roundAt mode neg m e g).e ≠ m * (2 : ℝ) ^ e := by
  rcases le_or_gt g e with h | h
  · simp [roundAt_of_le _ _ _ h]
  · have hpos : (2 : ℝ) ^ e ≠ 0 := by positivity
    rw [roundAt_of_lt _ _ _ h, zpow_eq_natPow_mul h.le, ← mul_assoc, ← Nat.cast_mul, Ne, mul_left_inj' hpos,
      Nat.cast_inj, bne_iff_ne]
    have hhalf : 0 < 2 ^ ((g - e).toNat - 1) := Nat.two_pow_pos _
    have hr : m % 2 ^ (g - e).toNat < 2 ^ (g - e).toNat := Nat.mod_lt _ (Nat.two_pow_pos _)
    have hdiv : m / 2 ^ (g - e).toNat * 2 ^ (g - e).toNat + m % 2 ^ (g - e).toNat = m := Nat.div_add_mod' ..
    generalize 2 ^ (g - e).toNat = d at *
    refine not_congr ⟨fun h0 => ?_, fun heq => ?_⟩
    · rw [h0, roundsAway_zero _ _ _ hhalf, if_neg Bool.false_ne_true]
      dsimp only
      omega
    · dsimp only at heq
      split_ifs at heq
      · rw [add_mul] at heq; omega
      · omega

/-! ### Rounding to the precision of a format -/

/-- The unit in the last place of a magnitude (R503). -/
def Fmt.unitExp (f : Fmt) (m : Nat) (e : Int) : Int := leadingExp m e - (f.precision - 1 : Nat)

theorem roundTo_eq (f : Fmt) (mode : Rounding) (neg : Bool) (m : Nat) (e : Int) :
    roundTo f mode neg m e = roundAt mode neg m e (f.unitExp m e) := rfl

theorem signFactor_false : signFactor false = 1 := rfl

theorem signFactor_true : signFactor true = -1 := rfl

theorem signFactor_ne_zero (neg : Bool) : signFactor neg ≠ 0 := by
  cases neg <;> simp [signFactor]

/-- The sign takes no part in a magnitude. -/
theorem abs_signFactor_mul (neg : Bool) (x : ℝ) : |signFactor neg * x| = |x| := by
  cases neg <;> simp [signFactor]

theorem IsRounded.down_le {g : Int} {x y : ℝ} (h : IsRounded .down g x y) : y ≤ x := by
  obtain ⟨-, -, hle, -⟩ := h; exact hle

theorem IsRounded.le_up {g : Int} {x y : ℝ} (h : IsRounded .up g x y) : x ≤ y := by
  obtain ⟨-, -, hle, -⟩ := h; exact hle

/-- To nearest, no other multiple of the unit is nearer, and of two equally near ones the rounded one is even. -/
theorem IsRounded.nearest_best {g : Int} {x y : ℝ} (h : IsRounded .nearest g x y) (k : Int) :
    |y - x| ≤ |k * (2 : ℝ) ^ g - x| ∧
      (|y - x| = |k * (2 : ℝ) ^ g - x| → y ≠ k * (2 : ℝ) ^ g → ∀ j : Int, y = j * (2 : ℝ) ^ g → j % 2 = 0) := by
  obtain ⟨n, hy, hle, htie⟩ := h
  have hpos : (0 : ℝ) < 2 ^ g := by positivity
  have apart : y ≠ k * (2 : ℝ) ^ g → (2 : ℝ) ^ g ≤ |y - x| + |k * (2 : ℝ) ^ g - x| := fun hne => by
    have hnk : n - k ≠ 0 := fun h0 => hne (by rw [hy, sub_eq_zero.1 h0])
    calc (2 : ℝ) ^ g ≤ |((n - k : Int) : ℝ)| * 2 ^ g :=
          le_mul_of_one_le_left hpos.le (by exact_mod_cast Int.one_le_abs hnk)
      _ = |(y - x) - (k * (2 : ℝ) ^ g - x)| := by
          rw [hy, ← abs_of_pos hpos, ← abs_mul, abs_of_pos hpos]; push_cast; congr 1; ring
      _ ≤ |y - x| + |k * (2 : ℝ) ^ g - x| := abs_sub _ _
  refine ⟨?_, fun heq hne j hj => ?_⟩
  · by_cases hk : y = k * (2 : ℝ) ^ g
    · rw [hk]
    · linarith [apart hk]
  · have hjn : j = n := by
      have := mul_right_cancel₀ hpos.ne' (hj.symm.trans hy)
      exact_mod_cast this
    rw [hjn]
    exact htie (le_antisymm hle (by linarith [apart hne]))

theorem rationalOf_cast (m : Nat) (e : Int) : ((rationalOf m e : ℚ) : ℝ) = m * (2 : ℝ) ^ e := by
  simp [rationalOf]

/-- Settles O42: what `roundAt_isRounded` says of the signed numbers, said of their magnitudes over the rationals. -/
theorem roundingIsCorrect : Obligations.RoundingIsCorrect := by
  intro f mode neg m e hm r g x y unit
  have hround := roundAt_isRounded mode neg m e g
  obtain ⟨n, hn⟩ := roundAt_multiple mode neg m e g
  have hinexact := roundAt_inexact mode neg m e g
  have hx : ((x : ℚ) : ℝ) = m * (2 : ℝ) ^ e := rationalOf_cast ..
  have hy : ((y : ℚ) : ℝ) = (roundAt mode neg m e g).m * (2 : ℝ) ^ (roundAt mode neg m e g).e := rationalOf_cast ..
  have hunit : ∀ k, ((unit k : ℚ) : ℝ) = k * (2 : ℝ) ^ g := fun k => rationalOf_cast ..
  rw [mul_assoc, mul_assoc, ← hx, ← hy] at hround
  rw [← hx, ← hy] at hinexact
  rw [← hy, ← hunit] at hn
  have hdiff : ∀ a : ℝ, |signFactor neg * a - signFactor neg * x| = |a - x| := fun a => by
    rw [← mul_sub, abs_signFactor_mul]
  let signed (k : Nat) : Int := if neg then -k else k
  have hsigned : ∀ k, (signed k : ℝ) * (2 : ℝ) ^ g = signFactor neg * (unit k : ℚ) := fun k => by
    rw [hunit]
    cases neg <;> simp [signed, signFactor]
  refine ⟨⟨n, by exact_mod_cast hn⟩, ?_, ?_, ?_, ?_, ?_⟩
  · rw [show r.inexact = true ↔ _ from hinexact, Ne, Ne, Rat.cast_inj]
  · have hclose := hround.close
    rw [hdiff, ← one_mul ((2 : ℝ) ^ g), ← Nat.cast_one, ← hunit] at hclose
    exact_mod_cast hclose
  · rintro rfl k
    have hbest := hround.nearest_best (signed k)
    rw [hsigned, hdiff, hdiff] at hbest
    obtain ⟨hle, htie⟩ := hbest
    refine ⟨by exact_mod_cast hle, fun heq hne j hj => ?_⟩
    have heven := htie (by exact_mod_cast congrArg (Rat.cast (K := ℝ)) heq)
      (fun h => hne (by exact_mod_cast mul_left_cancel₀ (signFactor_ne_zero neg) h)) (signed j) (by rw [hsigned, hj])
    simp only [signed] at heven
    split_ifs at heven <;> omega
  · rintro (rfl | ⟨rfl, rfl⟩ | ⟨rfl, rfl⟩)
    · obtain ⟨-, -, hle, -⟩ := hround
      rw [abs_signFactor_mul, abs_signFactor_mul] at hle
      have hy0 : (0 : ℝ) ≤ y := by rw [hy]; positivity
      have hx0 : (0 : ℝ) ≤ x := by rw [hx]; positivity
      rw [abs_of_nonneg hy0, abs_of_nonneg hx0] at hle
      exact_mod_cast hle
    · have hle := hround.down_le
      rw [signFactor_false, one_mul, one_mul] at hle
      exact_mod_cast hle
    · have hle := hround.le_up
      rw [signFactor_true, neg_one_mul, neg_one_mul, neg_le_neg_iff] at hle
      exact_mod_cast hle
  · rintro (⟨rfl, rfl⟩ | ⟨rfl, rfl⟩)
    · have hle := hround.down_le
      rw [signFactor_true, neg_one_mul, neg_one_mul, neg_le_neg_iff] at hle
      exact_mod_cast hle
    · have hle := hround.le_up
      rw [signFactor_false, one_mul, one_mul] at hle
      exact_mod_cast hle

end Sys2Proof.Machine

namespace Sys2Proof.Machine

/-! ### Bit patterns by their fields (46_floating_point.md R500, R501) -/

/-- The formats' parameters: an integer bit and a fraction, and a bias that is half the range of exponents. -/
theorem Fmt.two_pow_expBits (f : Fmt) : 2 ^ f.expBits = 2 * (f.bias + 1) := by cases f <;> rfl

theorem Fmt.width_le (f : Fmt) : f.precision + f.expBits ≤ 64 := by cases f <;> decide

theorem Fmt.precision_pos (f : Fmt) : 3 ≤ f.precision := by cases f <;> decide

theorem Fmt.bias_pos (f : Fmt) : 1 ≤ f.bias := by cases f <;> decide

/-- The number of a pattern with given fields. -/
theorem fpBits_toNat {f : Fmt} {neg : Bool} {bexp frac : Nat} (hb : bexp < 2 ^ f.expBits)
    (hf : frac < 2 ^ (f.precision - 1)) : (fpBits f neg bexp frac).toNat =
      (neg.toNat * 2 ^ f.expBits + bexp) * 2 ^ (f.precision - 1) + frac := by
  have hsign : (if neg then 2 ^ (f.precision - 1 + f.expBits) else 0) =
      neg.toNat * 2 ^ f.expBits * 2 ^ (f.precision - 1) := by
    cases neg <;> simp [pow_add, mul_comm]
  have hlt : (neg.toNat * 2 ^ f.expBits + bexp) * 2 ^ (f.precision - 1) + frac < 2 ^ 64 := by
    have hneg : neg.toNat ≤ 1 := by cases neg <;> decide
    calc (neg.toNat * 2 ^ f.expBits + bexp) * 2 ^ (f.precision - 1) + frac
        < (neg.toNat * 2 ^ f.expBits + bexp + 1) * 2 ^ (f.precision - 1) := by rw [add_mul _ 1]; omega
      _ ≤ (2 * 2 ^ f.expBits) * 2 ^ (f.precision - 1) := Nat.mul_le_mul_right _ (by nlinarith)
      _ = 2 ^ (f.precision + f.expBits) := by
          rw [← pow_succ', ← pow_add]; congr 1; have := f.precision_pos; omega
      _ ≤ 2 ^ 64 := Nat.pow_le_pow_right (by decide) f.width_le
  rw [fpBits, hsign, BitVec.toNat_ofNat, ← add_mul, Nat.mod_eq_of_lt hlt]

/-- The fields of a pattern are those it is made of. -/
theorem fpFields_fpBits {f : Fmt} {neg : Bool} {bexp frac : Nat} (hb : bexp < 2 ^ f.expBits)
    (hf : frac < 2 ^ (f.precision - 1)) : fpFields f (fpBits f neg bexp frac) = ⟨neg, bexp, frac⟩ := by
  have hp : 0 < 2 ^ (f.precision - 1) := Nat.two_pow_pos _
  have he : 0 < 2 ^ f.expBits := Nat.two_pow_pos _
  have hlow : ((neg.toNat * 2 ^ f.expBits + bexp) * 2 ^ (f.precision - 1) + frac) / 2 ^ (f.precision - 1) =
      neg.toNat * 2 ^ f.expBits + bexp := by
    rw [add_comm, Nat.add_mul_div_right _ _ hp, Nat.div_eq_of_lt hf, zero_add]
  have hsign : (neg.toNat * 2 ^ f.expBits + bexp) / 2 ^ f.expBits = neg.toNat := by
    rw [add_comm, Nat.add_mul_div_right _ _ he, Nat.div_eq_of_lt hb, zero_add]
  have hbexp : (neg.toNat * 2 ^ f.expBits + bexp) % 2 ^ f.expBits = bexp := by
    rw [Nat.mul_add_mod_self_right, Nat.mod_eq_of_lt hb]
  have hfrac : ((neg.toNat * 2 ^ f.expBits + bexp) * 2 ^ (f.precision - 1) + frac) % 2 ^ (f.precision - 1) = frac := by
    rw [Nat.mul_add_mod_self_right, Nat.mod_eq_of_lt hf]
  unfold fpFields
  rw [BitVec.getLsbD, Nat.testBit_eq_decide_div_mod_eq, pow_add, ← Nat.div_div_eq_div_mul, fpBits_toNat hb hf, hlow,
    hsign, hbexp, hfrac]
  cases neg <;> rfl

theorem fpFields_lt (f : Fmt) (w : DWord) :
    (fpFields f w).bexp < 2 ^ f.expBits ∧ (fpFields f w).frac < 2 ^ (f.precision - 1) :=
  ⟨Nat.mod_lt _ (Nat.two_pow_pos _), Nat.mod_lt _ (Nat.two_pow_pos _)⟩

/-- A pattern of a format is made of its fields. -/
theorem fpBits_fpFields {f : Fmt} {w : DWord} (h : w.toNat < 2 ^ (f.precision + f.expBits)) :
    fpBits f (fpFields f w).neg (fpFields f w).bexp (fpFields f w).frac = w := by
  obtain ⟨hb, hf⟩ := fpFields_lt f w
  have hp := f.precision_pos
  have hsign : (fpFields f w).neg.toNat = w.toNat / 2 ^ (f.precision - 1) / 2 ^ f.expBits := by
    have hlt : w.toNat / 2 ^ (f.precision - 1 + f.expBits) < 2 := by
      rw [Nat.div_lt_iff_lt_mul (Nat.two_pow_pos _), ← pow_succ']
      exact h.trans_le (Nat.pow_le_pow_right (by decide) (by omega))
    rw [Nat.div_div_eq_div_mul, ← pow_add, fpFields, BitVec.getLsbD, Nat.testBit_eq_decide_div_mod_eq,
      Nat.mod_eq_of_lt hlt]
    rcases Nat.lt_or_ge 0 (w.toNat / 2 ^ (f.precision - 1 + f.expBits)) with h0 | h0
    · rw [show w.toNat / 2 ^ (f.precision - 1 + f.expBits) = 1 by omega]; rfl
    · rw [Nat.le_zero.1 h0]; rfl
  apply BitVec.eq_of_toNat_eq
  rw [fpBits_toNat hb hf, hsign]
  change (_ / 2 ^ f.expBits * 2 ^ f.expBits + w.toNat / 2 ^ (f.precision - 1) % 2 ^ f.expBits) * _ + w.toNat % _ = _
  rw [Nat.div_add_mod', Nat.div_add_mod']

/-! ### Unpacking by the biased exponent (R500, R501) -/

section
variable {f : Fmt} {flush : Bool} {w : DWord} {neg : Bool} {bexp frac : Nat}

theorem Fmt.two_le_maxExp (f : Fmt) : 2 ≤ 2 ^ f.expBits - 1 := by
  have := f.two_pow_expBits; have := f.bias_pos; omega

theorem unpack_inf (h : fpFields f w = ⟨neg, 2 ^ f.expBits - 1, 0⟩) : unpack f flush w = .inf neg := by
  simp [unpack, h]

theorem unpack_nan (h : fpFields f w = ⟨neg, 2 ^ f.expBits - 1, frac⟩) (hf : frac ≠ 0) :
    unpack f flush w = .nan (frac < 2 ^ (f.precision - 2)) := by
  simp [unpack, h, hf]

theorem unpack_denormal (h : fpFields f w = ⟨neg, 0, frac⟩) :
    unpack f flush w = .fin neg (if flush then 0 else frac) (f.minExp - (f.precision - 1 : Nat)) := by
  have := f.two_le_maxExp
  unfold unpack
  rw [h]
  dsimp only
  rw [if_neg (by omega), if_pos rfl]

theorem unpack_normal (h : fpFields f w = ⟨neg, bexp, frac⟩) (h0 : 0 < bexp) (h1 : bexp < 2 ^ f.expBits - 1) :
    unpack f flush w =
      .fin neg (2 ^ (f.precision - 1) + frac) ((bexp : Int) - f.bias - (f.precision - 1 : Nat)) := by
  unfold unpack
  rw [h]
  dsimp only
  rw [if_neg h1.ne, if_neg h0.ne']

end

/-! ### Packing by the exponent (R500, R501) -/

theorem bitLength_eq_of_bounds {m n : Nat} (h : 2 ^ n ≤ m) (h' : m < 2 ^ (n + 1)) : bitLength m = n + 1 := by
  have hm : m ≠ 0 := ((Nat.two_pow_pos n).trans_le h).ne'
  rw [bitLength, if_neg hm, (Nat.log2_eq_iff hm).2 ⟨h, h'⟩]

/-- A significand to the precision of a format. -/
def Fmt.significand (f : Fmt) (m : Nat) : Nat :=
  if bitLength m ≤ f.precision then m * 2 ^ (f.precision - bitLength m) else m / 2 ^ (bitLength m - f.precision)

section
variable {f : Fmt} {neg : Bool} {m : Nat} {e : Int}

theorem pack_zero : pack f (.fin neg 0 e) = fpBits f neg 0 0 := rfl

theorem pack_denormal (h : 0 < m) (hk : leadingExp m e < f.minExp) :
    pack f (.fin neg m e) = fpBits f neg 0 (m * 2 ^ (e - (f.minExp - (f.precision - 1 : Nat))).toNat) := by
  unfold pack
  dsimp only
  rw [if_neg h.ne', if_pos hk]

theorem pack_normal (h : 0 < m) (hk : f.minExp ≤ leadingExp m e) : pack f (.fin neg m e) =
    fpBits f neg (leadingExp m e + f.bias).toNat (f.significand m - 2 ^ (f.precision - 1)) := by
  unfold pack
  dsimp only
  rw [if_neg h.ne', if_neg (not_lt.2 hk)]
  rfl

end

/-- Packing undoes unpacking. -/
theorem pack_unpack {f : Fmt} {w : DWord} (h : w.toNat < 2 ^ (f.precision + f.expBits))
    (hn : (unpack f false w).isNaN = false) : pack f (unpack f false w) = w := by
  have hw := fpBits_fpFields h
  obtain ⟨hb, hf⟩ := fpFields_lt f w
  have hp := f.precision_pos
  generalize hx : fpFields f w = x at hw hb hf
  obtain ⟨neg, bexp, frac⟩ := x
  dsimp only at hw hb hf
  rcases Nat.lt_or_ge bexp (2 ^ f.expBits - 1) with hfin | hinf
  · rcases Nat.eq_zero_or_pos bexp with rfl | h0
    · rw [unpack_denormal hx, if_neg Bool.false_ne_true]
      rcases Nat.eq_zero_or_pos frac with rfl | hpos
      · exact hw
      · have hlog : Nat.log2 frac < f.precision - 1 := (Nat.log2_lt hpos.ne').2 hf
        rw [pack_denormal hpos (by rw [leadingExp_eq hpos]; omega), sub_self, Int.toNat_zero, pow_zero, mul_one]
        exact hw
    · have hlength : bitLength (2 ^ (f.precision - 1) + frac) = f.precision := by
        rw [bitLength_eq_of_bounds (n := f.precision - 1) (by omega) (by rw [pow_succ]; omega)]; omega
      have hk : leadingExp (2 ^ (f.precision - 1) + frac) ((bexp : Int) - f.bias - (f.precision - 1 : Nat)) =
          bexp - f.bias := by
        rw [leadingExp, hlength]; omega
      rw [unpack_normal hx h0 hfin, pack_normal (by positivity) (by rw [hk, Fmt.minExp]; omega), hk,
        Fmt.significand, hlength, if_pos le_rfl, Nat.sub_self, pow_zero, mul_one, Nat.add_sub_cancel_left,
        sub_add_cancel, Int.toNat_natCast]
      exact hw
  · obtain rfl : bexp = 2 ^ f.expBits - 1 := by omega
    rcases Nat.eq_zero_or_pos frac with rfl | hpos
    · rw [unpack_inf hx]
      exact hw
    · rw [unpack_nan hx hpos.ne'] at hn
      cases hn

/-- Settles O43: packing undoes unpacking, in both formats. -/
theorem patternsRoundTrip : Obligations.PatternsRoundTrip :=
  ⟨fun _ h hn => pack_unpack h hn, fun w hn => pack_unpack (f := .double) w.isLt hn⟩

end Sys2Proof.Machine

namespace Sys2Proof.Machine

/-! ### The quotient and the square root that are rounded (46_floating_point.md R503, R526, R527, R551) -/

theorem lt_two_pow_bitLength (m : Nat) : m < 2 ^ bitLength m := by
  unfold bitLength
  split_ifs with h
  · subst h; decide
  · exact Nat.lt_log2_self

/-- The bits of the integer square root below the known ones. -/
theorem rootBits_spec (m k r : Nat) (hlow : r * r ≤ m) (hhigh : m < (r + 2 ^ k) * (r + 2 ^ k)) :
    rootBits m k r * rootBits m k r ≤ m ∧ m < (rootBits m k r + 1) * (rootBits m k r + 1) := by
  induction k generalizing r with
  | zero => exact ⟨hlow, hhigh⟩
  | succ k ih =>
    unfold rootBits
    split_ifs with h
    · exact ih (r + 2 ^ k) h (by rwa [add_assoc, ← mul_two, ← pow_succ])
    · exact ih r hlow (not_le.1 h)

theorem integerRoot_spec (m : Nat) :
    integerRoot m * integerRoot m ≤ m ∧ m < (integerRoot m + 1) * (integerRoot m + 1) := by
  refine rootBits_spec m (bitLength m) 0 (Nat.zero_le m) ?_
  rw [zero_add]
  exact (lt_two_pow_bitLength m).trans_le (Nat.le_mul_of_pos_left _ (Nat.two_pow_pos _))

/-- A number with a last bit that says whether something was left: even, it is twice the part that is known, odd, its
neighbours are twice that part and twice the next. -/
theorem sticky_cases (n : Nat) (exact : Prop) [Decidable exact] :
    (exact ∧ 2 * n + (if exact then 0 else 1) = 2 * n ∧ (2 * n + if exact then 0 else 1) % 2 = 0) ∨
    (¬ exact ∧ 2 * n + (if exact then 0 else 1) = 2 * n + 1 ∧ (2 * n + if exact then 0 else 1) % 2 ≠ 0) := by
  by_cases h : exact
  · left; rw [if_pos h]; exact ⟨h, rfl, by omega⟩
  · right; rw [if_neg h]; exact ⟨h, rfl, by omega⟩

theorem rationalOf_double (n : Nat) (e : Int) : rationalOf (2 * n) (e - 1) = rationalOf n e := by
  unfold rationalOf
  rw [zpow_sub_one₀ two_ne_zero]
  push_cast; ring

theorem rationalOf_strictMono {m n : Nat} (e : Int) (h : m < n) : rationalOf m e < rationalOf n e :=
  mul_lt_mul_of_pos_right (by exact_mod_cast h) (by positivity)

/-- A scaled magnitude is the same number. -/
theorem rationalOf_shift (m k : Nat) (e : Int) : rationalOf (m * 2 ^ k) (e - k) = rationalOf m e := by
  unfold rationalOf
  rw [zpow_sub₀ two_ne_zero, zpow_natCast]
  have : (2 : ℚ) ^ k ≠ 0 := by positivity
  push_cast; field_simp

section
variable {f : Fmt} {ma mb : Nat} {ea eb : Int}

/-- The bits that a quotient is scaled by. -/
def Fmt.quotientScale (f : Fmt) (mb : Nat) : Nat := f.precision + 3 + bitLength mb

/-- A quotient of scaled magnitudes. -/
theorem rationalOf_div (hb : 0 < mb) (k : Nat) : rationalOf ma ea / rationalOf mb eb =
    ((ma * 2 ^ k : Nat) : ℚ) / mb * 2 ^ (ea - eb - k) := by
  have hmb : (mb : ℚ) ≠ 0 := by exact_mod_cast hb.ne'
  rw [← rationalOf_shift ma k ea]
  unfold rationalOf
  rw [show ea - eb - k = (ea - k) - eb by ring, zpow_sub₀ two_ne_zero _ eb]
  field_simp

theorem quotient_eq : quotient f ma mb ea eb =
    (2 * (ma * 2 ^ f.quotientScale mb / mb) + (if ma * 2 ^ f.quotientScale mb % mb = 0 then 0 else 1),
      ea - eb - f.quotientScale mb - 1) := rfl

theorem le_quotient (ha : 0 < ma) (hb : 0 < mb) : 2 ^ (f.precision + 2) ≤ (quotient f ma mb ea eb).1 := by
  have hscale : 2 ^ (f.precision + 3) ≤ ma * 2 ^ f.quotientScale mb / mb := by
    rw [Nat.le_div_iff_mul_le hb, Fmt.quotientScale, pow_add _ _ (bitLength mb)]
    calc 2 ^ (f.precision + 3) * mb ≤ 2 ^ (f.precision + 3) * 2 ^ bitLength mb :=
          Nat.mul_le_mul_left _ (lt_two_pow_bitLength mb).le
      _ ≤ ma * (2 ^ (f.precision + 3) * 2 ^ bitLength mb) := Nat.le_mul_of_pos_left _ ha
  have hpow : 2 ^ (f.precision + 2) ≤ 2 ^ (f.precision + 3) := Nat.pow_le_pow_right (by decide) (by omega)
  rw [quotient_eq]
  dsimp only
  omega

/-- A quotient with an even last bit is exact; with an odd one it lies between its neighbours. -/
theorem quotient_faithful (hb : 0 < mb) :
    let q := quotient f ma mb ea eb
    let z := rationalOf ma ea / rationalOf mb eb
    if q.1 % 2 = 0 then rationalOf q.1 q.2 = z
    else rationalOf (q.1 - 1) q.2 < z ∧ z < rationalOf (q.1 + 1) q.2 := by
  intro q z
  have hz : z = _ := rationalOf_div hb (f.quotientScale mb)
  have hq : q = _ := quotient_eq
  have hmb : (0 : ℚ) < mb := by exact_mod_cast hb
  have hpos : (0 : ℚ) < 2 ^ (ea - eb - f.quotientScale mb) := by positivity
  have hdiv := Nat.div_add_mod' (ma * 2 ^ f.quotientScale mb) mb
  have hmod := Nat.mod_lt (ma * 2 ^ f.quotientScale mb) hb
  rw [hz, hq]
  dsimp only
  generalize ma * 2 ^ f.quotientScale mb = n at *
  rcases sticky_cases (n / mb) (n % mb = 0) with ⟨h, heq, heven⟩ | ⟨h, heq, hodd⟩
  · rw [if_pos heven, heq, rationalOf_double, rationalOf]
    congr 1
    rw [eq_div_iff hmb.ne']
    exact_mod_cast (by omega : n / mb * mb = n)
  · rw [if_neg hodd, heq, Nat.add_sub_cancel, show 2 * (n / mb) + 1 + 1 = 2 * (n / mb + 1) by ring, rationalOf_double,
      rationalOf_double]
    refine ⟨mul_lt_mul_of_pos_right ?_ hpos, mul_lt_mul_of_pos_right ?_ hpos⟩
    · rw [lt_div_iff₀ hmb]
      exact_mod_cast (by omega : n / mb * mb < n)
    · rw [div_lt_iff₀ hmb]
      exact_mod_cast (by rw [add_mul]; omega : n < (n / mb + 1) * mb)

/-- The bits that a magnitude is scaled by before its square root is taken. -/
def Fmt.rootScale (f : Fmt) (e : Int) : Nat := 2 * (f.precision + 3) + (e % 2).toNat

theorem squareRoot_eq : squareRoot f ma ea =
    (2 * integerRoot (ma * 2 ^ f.rootScale ea) + (if integerRoot (ma * 2 ^ f.rootScale ea) *
      integerRoot (ma * 2 ^ f.rootScale ea) = ma * 2 ^ f.rootScale ea then 0 else 1),
      (ea - f.rootScale ea) / 2 - 1) := rfl

theorem le_squareRoot (ha : 0 < ma) : 2 ^ (f.precision + 2) ≤ (squareRoot f ma ea).1 := by
  have hroot : 2 ^ (f.precision + 3) ≤ integerRoot (ma * 2 ^ f.rootScale ea) := by
    have hscale : 2 ^ (f.precision + 3) * 2 ^ (f.precision + 3) ≤ ma * 2 ^ f.rootScale ea := by
      rw [← pow_add, Fmt.rootScale]
      exact (Nat.pow_le_pow_right (by decide) (by omega)).trans (Nat.le_mul_of_pos_left _ ha)
    have hlt := hscale.trans_lt (integerRoot_spec (ma * 2 ^ f.rootScale ea)).2
    exact Nat.lt_succ_iff.1 (Nat.mul_self_lt_mul_self_iff.1 hlt)
  have hpow : 2 ^ (f.precision + 2) ≤ 2 ^ (f.precision + 3) := Nat.pow_le_pow_right (by decide) (by omega)
  rw [squareRoot_eq]
  dsimp only
  omega

/-- The square of a magnitude with half an exponent. -/
theorem rationalOf_sq (n : Nat) (e : Int) : rationalOf n e ^ 2 = rationalOf (n * n) (2 * e) := by
  unfold rationalOf
  rw [mul_pow, ← zpow_natCast ((2 : ℚ) ^ e), ← zpow_mul, mul_comm e]
  push_cast
  ring

/-- A square root with an even last bit is exact; with an odd one it lies between its neighbours. -/
theorem squareRoot_faithful :
    let r := squareRoot f ma ea
    if r.1 % 2 = 0 then rationalOf r.1 r.2 ^ 2 = rationalOf ma ea
    else rationalOf (r.1 - 1) r.2 ^ 2 < rationalOf ma ea ∧ rationalOf ma ea < rationalOf (r.1 + 1) r.2 ^ 2 := by
  intro r
  have hr : r = _ := squareRoot_eq
  have hhalf : 2 * ((ea - f.rootScale ea) / 2) = ea - f.rootScale ea := by
    unfold Fmt.rootScale
    omega
  obtain ⟨hlow, hhigh⟩ := integerRoot_spec (ma * 2 ^ f.rootScale ea)
  rw [hr, ← rationalOf_shift ma (f.rootScale ea) ea]
  dsimp only
  generalize (ea - f.rootScale ea) / 2 = half at hhalf ⊢
  rw [← hhalf]
  generalize ma * 2 ^ f.rootScale ea = n at *
  rcases sticky_cases (integerRoot n) (integerRoot n * integerRoot n = n) with ⟨h, heq, heven⟩ | ⟨h, heq, hodd⟩
  · rw [if_pos heven, heq, rationalOf_double, rationalOf_sq, h]
  · rw [if_neg hodd, heq, Nat.add_sub_cancel, show 2 * integerRoot n + 1 + 1 = 2 * (integerRoot n + 1) by ring,
      rationalOf_double, rationalOf_double, rationalOf_sq, rationalOf_sq]
    exact ⟨rationalOf_strictMono _ (lt_of_le_of_ne hlow h), rationalOf_strictMono _ hhigh⟩

end

/-- Settles O44: the last bit tells of the remainder, and the operands are scaled by enough bits. -/
theorem quotientAndRootAreFaithful : Obligations.QuotientAndRootAreFaithful := fun _ _ _ _ _ ha hb =>
  ⟨quotient_faithful hb, le_quotient ha hb, squareRoot_faithful, le_squareRoot ha⟩

end Sys2Proof.Machine

namespace Sys2Proof.Machine

/-! ### A magnitude that rounds like the exact one (46_floating_point.md R503) -/

/-- A magnitude stands for `x` where it is rounded: it is `x`, or it has more bits than the format holds and a last bit
that is 1, and `x` lies between its neighbours. -/
def Fmt.Stands (f : Fmt) (m : Nat) (e : Int) (x : ℝ) : Prop :=
  m * (2 : ℝ) ^ e = x ∨
    m % 2 = 1 ∧ 2 ^ (f.precision + 2) ≤ m ∧ (m - 1 : ℝ) * (2 : ℝ) ^ e < x ∧ x < (m + 1 : ℝ) * (2 : ℝ) ^ e

/-- Two numbers lie on the same side of every multiple of half a unit, and on none. -/
def SameSide (g : Int) (x x' : ℝ) : Prop :=
  ∀ n : Int, n * (2 : ℝ) ^ (g - 1) < x ∧ n * (2 : ℝ) ^ (g - 1) < x' ∨
    x < n * (2 : ℝ) ^ (g - 1) ∧ x' < n * (2 : ℝ) ^ (g - 1)

theorem SameSide.neg {g : Int} {x x' : ℝ} (h : SameSide g x x') : SameSide g (-x) (-x') := fun n => by
  have := h (-n)
  push_cast at this
  rcases this with ⟨h1, h2⟩ | ⟨h1, h2⟩
  · right; constructor <;> linarith
  · left; constructor <;> linarith

theorem SameSide.signFactor_mul {g : Int} {x x' : ℝ} (h : SameSide g x x') (neg : Bool) :
    SameSide g (signFactor neg * x) (signFactor neg * x') := by
  cases neg with
  | false => simpa only [signFactor_false, one_mul] using h
  | true => simpa only [signFactor_true, neg_one_mul] using h.neg

theorem SameSide.lt_iff {g : Int} {x x' : ℝ} (h : SameSide g x x') (n : Int) :
    (n * (2 : ℝ) ^ (g - 1) ≤ x → n * (2 : ℝ) ^ (g - 1) < x') ∧
      (x ≤ n * (2 : ℝ) ^ (g - 1) → x' < n * (2 : ℝ) ^ (g - 1)) := by
  rcases h n with ⟨h1, h2⟩ | ⟨h1, h2⟩
  · exact ⟨fun _ => h2, fun h => absurd h1 (not_lt.2 h)⟩
  · exact ⟨fun h => absurd h1 (not_lt.2 h), fun _ => h2⟩

/-- Two numbers on the same sides are on the same side of every half unit counted from a multiple of the unit. -/
theorem SameSide.half_units {g : Int} {x x' y : ℝ} (h : SameSide g x x') {n : Int} (hy : y = n * (2 : ℝ) ^ g)
    (k : Int) :
    (y + k * ((2 : ℝ) ^ g / 2) ≤ x → y + k * ((2 : ℝ) ^ g / 2) < x') ∧
      (x ≤ y + k * ((2 : ℝ) ^ g / 2) → x' < y + k * ((2 : ℝ) ^ g / 2)) := by
  have hunit : (2 : ℝ) ^ g = 2 * 2 ^ (g - 1) := by rw [zpow_sub_one₀ two_ne_zero]; ring
  have hpoint : y + k * ((2 : ℝ) ^ g / 2) = ((2 * n + k : Int) : ℝ) * 2 ^ (g - 1) := by
    rw [hy, hunit]; push_cast; ring
  rw [hpoint]
  exact h.lt_iff _

/-- What rounds one of two numbers on the same sides rounds the other. -/
theorem IsRounded.transfer {mode : Rounding} {g : Int} {x x' y : ℝ} (h : IsRounded mode g x y) (hs : SameSide g x x') :
    IsRounded mode g x' y := by
  obtain ⟨n, hy, h⟩ := h
  have hm2 := hs.half_units hy (-2)
  have hm1 := hs.half_units hy (-1)
  have h0 := hs.half_units hy 0
  have h1 := hs.half_units hy 1
  have h2 := hs.half_units hy 2
  have hz := hs.lt_iff 0
  push_cast at hm2 hm1 h0 h1 h2 hz
  refine ⟨n, hy, ?_⟩
  cases mode with
  | nearest =>
    obtain ⟨hle, -⟩ := h
    obtain ⟨hlow, hhigh⟩ := abs_le.1 hle
    have hlow' := h1.2 (by linarith)
    have hhigh' := hm1.1 (by linarith)
    have hlt : |y - x'| < 2 ^ g / 2 := abs_lt.2 ⟨by linarith, by linarith⟩
    exact ⟨hlt.le, fun heq => absurd heq hlt.ne⟩
  | down =>
    obtain ⟨hle, hlt⟩ := h
    have hle' := h0.1 (by linarith)
    have hlt' := h2.2 (by linarith)
    exact ⟨by linarith, by linarith⟩
  | up =>
    obtain ⟨hle, hlt⟩ := h
    have hle' := h0.2 (by linarith)
    have hlt' := hm2.1 (by linarith)
    exact ⟨by linarith, by linarith⟩
  | zero =>
    obtain ⟨hle, hlt, hsign⟩ := h
    simp only [zero_mul] at hz
    rcases le_or_gt x 0 with hx | hx
    · have hx' := hz.2 hx
      have hx0 : x < 0 := hx.lt_of_ne fun h => absurd (hz.1 h.ge) (not_lt.2 hx'.le)
      have hy0 : y ≤ 0 := nonpos_of_mul_nonneg_left hsign hx0
      rw [abs_of_nonpos hy0, abs_of_nonpos hx] at hle hlt
      have hle' := h0.2 (by linarith)
      have hlt' := hm2.1 (by linarith)
      rw [abs_of_nonpos hy0, abs_of_neg hx']
      exact ⟨by linarith, by linarith, mul_nonneg_of_nonpos_of_nonpos hy0 hx'.le⟩
    · have hx' := hz.1 hx.le
      have hy0 : 0 ≤ y := nonneg_of_mul_nonneg_left hsign hx
      rw [abs_of_nonneg hy0, abs_of_pos hx] at hle hlt
      have hle' := h0.1 (by linarith)
      have hlt' := h2.2 (by linarith)
      rw [abs_of_nonneg hy0, abs_of_pos hx']
      exact ⟨by linarith, by linarith, mul_nonneg hy0 hx'.le⟩

/-- A magnitude with bits below those that are kept is on the same sides as every number between its neighbours. -/
theorem sameSide_of_odd {m : Nat} {e g : Int} {x : ℝ} (hodd : m % 2 = 1) (hlow : (m - 1 : ℝ) * (2 : ℝ) ^ e < x)
    (hhigh : x < (m + 1 : ℝ) * (2 : ℝ) ^ e) (hg : e + 2 ≤ g) : SameSide g (m * (2 : ℝ) ^ e) x := by
  intro n
  have hpos : (0 : ℝ) < 2 ^ e := by positivity
  obtain ⟨j, hj⟩ : ∃ j : Int, n * (2 : ℝ) ^ (g - 1) = ((2 * j : Int) : ℝ) * (2 : ℝ) ^ e := by
    refine ⟨n * (2 ^ (g - 1 - (e + 1)).toNat : Nat), ?_⟩
    rw [zpow_eq_natPow_mul (show e + 1 ≤ g - 1 by omega), zpow_add_one₀ two_ne_zero]
    push_cast; ring
  rw [hj]
  rcases lt_or_ge (2 * j) (m : Int) with h | h
  · have hle : ((2 * j : Int) : ℝ) ≤ m - 1 := by exact_mod_cast (by omega : 2 * j ≤ (m : Int) - 1)
    left
    constructor <;> nlinarith
  · have hle : (m : ℝ) + 1 ≤ ((2 * j : Int) : ℝ) := by exact_mod_cast (by omega : (m : Int) + 1 ≤ 2 * j)
    right
    constructor <;> nlinarith

section
variable {f : Fmt} {m : Nat} {e : Int} {x : ℝ}

/-- The exact number lies between the powers of two that its magnitude lies between. -/
theorem Fmt.Stands.bounds (h : f.Stands m e x) (hm : 0 < m) :
    (2 : ℝ) ^ leadingExp m e ≤ x ∧ x < (2 : ℝ) ^ (leadingExp m e + 1) := by
  rcases h with h | ⟨hodd, hbits, hlow, hhigh⟩
  · rw [← h]; exact leadingExp_bounds hm e
  · have hpos : (0 : ℝ) < 2 ^ e := by positivity
    have hlog : f.precision + 2 ≤ Nat.log2 m := (Nat.le_log2 hm.ne').2 hbits
    have heven : ∀ k : Nat, f.precision + 2 ≤ k → 2 ^ k % 2 = 0 := fun k hk => by
      rw [show k = k - 1 + 1 by omega, pow_succ, Nat.mul_mod_left]
    have hl := Nat.log2_self_le hm.ne'
    have hu : m < 2 ^ (Nat.log2 m + 1) := Nat.lt_log2_self
    have hel := heven (Nat.log2 m) hlog
    have heu := heven (Nat.log2 m + 1) (by omega)
    have hsplit : ∀ j : Nat, (2 : ℝ) ^ (e + j) = (2 ^ j : Nat) * 2 ^ e := fun j => by
      rw [zpow_add₀ two_ne_zero, zpow_natCast, mul_comm]; push_cast; rfl
    rw [leadingExp_eq hm, hsplit, add_assoc, ← Nat.cast_succ, hsplit]
    have h1 : ((2 ^ Nat.log2 m : Nat) : ℝ) ≤ m - 1 := by
      rw [le_sub_iff_add_le]; exact_mod_cast (by omega : 2 ^ Nat.log2 m + 1 ≤ m)
    have h2 : (m : ℝ) + 1 ≤ (2 ^ (Nat.log2 m + 1) : Nat) := by
      exact_mod_cast (by omega : m + 1 ≤ 2 ^ (Nat.log2 m + 1))
    exact ⟨(mul_le_mul_of_nonneg_right h1 hpos.le).trans hlow.le,
      hhigh.trans_le (mul_le_mul_of_nonneg_right h2 hpos.le)⟩

theorem Fmt.Stands.pos (h : f.Stands m e x) (hm : 0 < m) : 0 < x :=
  lt_of_lt_of_le (by positivity) (h.bounds hm).1

/-- Rounding the magnitude rounds the number it stands for, and inexact tells the difference from that. -/
theorem Fmt.Stands.rounded (h : f.Stands m e x) (hm : 0 < m) (mode : Rounding) (neg : Bool) {g : Int}
    (hg : f.unitExp m e ≤ g) :
    let r := roundAt mode neg m e g
    IsRounded mode g (signFactor neg * x) (signFactor neg * (r.m * (2 : ℝ) ^ r.e)) ∧
      (r.inexact = true ↔ r.m * (2 : ℝ) ^ r.e ≠ x) := by
  intro r
  have hround := roundAt_isRounded mode neg m e g
  have hinexact := roundAt_inexact mode neg m e g
  rw [mul_assoc, mul_assoc] at hround
  rcases h with rfl | ⟨hodd, hbits, hlow, hhigh⟩
  · exact ⟨hround, hinexact⟩
  · have hlog : f.precision + 2 ≤ Nat.log2 m := (Nat.le_log2 hm.ne').2 hbits
    rw [Fmt.unitExp, leadingExp_eq hm] at hg
    have side := sameSide_of_odd hodd hlow hhigh (show e + 2 ≤ g by omega)
    refine ⟨hround.transfer (side.signFactor_mul neg), hinexact.trans ?_⟩
    obtain ⟨n, hn⟩ := roundAt_multiple mode neg m e g
    have hhalf : (n : ℝ) * 2 ^ g = ((2 * n : Int) : ℝ) * 2 ^ (g - 1) := by
      rw [zpow_sub_one₀ two_ne_zero]; push_cast; ring
    rw [hn, hhalf]
    rcases side (2 * n) with ⟨h1, h2⟩ | ⟨h1, h2⟩
    · exact iff_of_true h1.ne h2.ne
    · exact iff_of_true h1.ne' h2.ne'

end

end Sys2Proof.Machine

namespace Sys2Proof.Machine

/-! ### The pattern of a value that a format holds (46_floating_point.md R500, R501) -/

/-- A single-precision pattern is a word. -/
theorem fpBits_lt_of_single (neg : Bool) {f : Fmt} {bexp frac : Nat} (hb : bexp < 2 ^ f.expBits)
    (hf : frac < 2 ^ (f.precision - 1)) : f = .single → (fpBits f neg bexp frac).toNat < 2 ^ 32 := by
  rintro rfl
  rw [fpBits_toNat hb hf]
  simp only [Fmt.expBits, Fmt.precision] at hb hf ⊢
  have hneg : neg.toNat ≤ 1 := by cases neg <;> decide
  omega

/-- The significand of a format has its precision. -/
theorem Fmt.significand_bounds (f : Fmt) {m : Nat} (h : 0 < m) :
    2 ^ (f.precision - 1) ≤ f.significand m ∧ f.significand m < 2 ^ f.precision := by
  have hp := f.precision_pos
  have hlow : 2 ^ (bitLength m - 1) ≤ m := by rw [bitLength_eq h]; exact Nat.log2_self_le h.ne'
  have hhigh := lt_two_pow_bitLength m
  have hpos : 1 ≤ bitLength m := by rw [bitLength_eq h]; omega
  unfold Fmt.significand
  split_ifs with hle
  · constructor
    · calc 2 ^ (f.precision - 1) = 2 ^ (bitLength m - 1) * 2 ^ (f.precision - bitLength m) := by
            rw [← pow_add]; congr 1; omega
        _ ≤ _ := Nat.mul_le_mul_right _ hlow
    · calc m * 2 ^ (f.precision - bitLength m) < 2 ^ bitLength m * 2 ^ (f.precision - bitLength m) :=
            Nat.mul_lt_mul_of_pos_right hhigh (Nat.two_pow_pos _)
        _ = 2 ^ f.precision := by rw [← pow_add]; congr 1; omega
  · constructor
    · rw [Nat.le_div_iff_mul_le (Nat.two_pow_pos _), ← pow_add]
      exact (Nat.pow_le_pow_right (by decide) (by omega)).trans hlow
    · rw [Nat.div_lt_iff_lt_mul (Nat.two_pow_pos _), ← pow_add]
      exact hhigh.trans_le (Nat.pow_le_pow_right (by decide) (by omega))

/-- A magnitude has `p` significant bits at most: it is a multiple of a power of two by fewer than `2^p`. -/
def Fmt.Precise (f : Fmt) (x : ℝ) : Prop := ∃ (n : Nat) (k : Int), n < 2 ^ f.precision ∧ x = n * (2 : ℝ) ^ k

/-- The significand of a magnitude with few enough bits loses none of them. -/
theorem Fmt.significand_value {f : Fmt} {m : Nat} {e : Int} (h : 0 < m) (hx : f.Precise (m * (2 : ℝ) ^ e)) :
    (f.significand m : ℝ) * (2 : ℝ) ^ (leadingExp m e - (f.precision - 1 : Nat)) = m * (2 : ℝ) ^ e := by
  have hp := f.precision_pos
  have hpos : 1 ≤ bitLength m := by rw [bitLength_eq h]; omega
  unfold Fmt.significand
  split_ifs with hle
  · rw [zpow_eq_natPow_mul (show leadingExp m e - (f.precision - 1 : Nat) ≤ e by unfold leadingExp; omega),
      show (e - (leadingExp m e - (f.precision - 1 : Nat))).toNat = f.precision - bitLength m by
        unfold leadingExp; omega]
    push_cast; ring
  · obtain ⟨n, k, hn, hnk⟩ := hx
    have hk : e + (bitLength m - f.precision : Nat) ≤ k := by
      have h1 := (leadingExp_bounds h e).1
      have h2 : (m : ℝ) * 2 ^ e < 2 ^ (f.precision + k) := by
        rw [hnk, zpow_add₀ two_ne_zero, zpow_natCast]
        exact mul_lt_mul_of_pos_right (by exact_mod_cast hn) (by positivity)
      have h3 := (zpow_lt_zpow_iff_right₀ one_lt_two).1 (h1.trans_lt h2)
      unfold leadingExp at h3
      omega
    have hm : m = n * 2 ^ (k - e).toNat := by
      have he : (2 : ℝ) ^ e ≠ 0 := by positivity
      rw [zpow_eq_natPow_mul (show e ≤ k by omega), ← mul_assoc] at hnk
      exact_mod_cast mul_right_cancel₀ he hnk
    have hdvd : 2 ^ (bitLength m - f.precision) ∣ m :=
      (Nat.pow_dvd_pow 2 (by omega)).trans (hm ▸ Nat.dvd_mul_left _ n)
    rw [zpow_eq_natPow_mul (show e ≤ leadingExp m e - (f.precision - 1 : Nat) by unfold leadingExp; omega),
      show (leadingExp m e - (f.precision - 1 : Nat) - e).toNat = bitLength m - f.precision by unfold leadingExp; omega,
      ← mul_assoc, ← Nat.cast_mul, Nat.div_mul_cancel hdvd]

/-- A magnitude that a format holds: zero, a denormalized number as a multiple of the smallest unit, or a number with
the format's precision between its smallest normalized and its largest number. -/
def Fmt.Holds (f : Fmt) (m : Nat) (e : Int) : Prop :=
  m = 0 ∨ (leadingExp m e < f.minExp ∧ f.minExp - (f.precision - 1 : Nat) ≤ e) ∨
    (f.minExp ≤ leadingExp m e ∧ leadingExp m e ≤ f.bias ∧ f.Precise (m * (2 : ℝ) ^ e))

theorem pattern_inf (f : Fmt) (neg : Bool) : f.Pattern (pack f (.inf neg)) (· = .inf neg) := by
  have hb : 2 ^ f.expBits - 1 < 2 ^ f.expBits := Nat.sub_lt (Nat.two_pow_pos _) one_pos
  exact ⟨fpBits_lt_of_single neg hb (Nat.two_pow_pos _), unpack_inf (fpFields_fpBits hb (Nat.two_pow_pos _))⟩

/-- The pattern of a number that the format holds stands for it. -/
theorem Fmt.Holds.pattern {f : Fmt} {m : Nat} {e : Int} (h : f.Holds m e) (neg : Bool) :
    f.Pattern (pack f (.fin neg m e)) (·.Is neg (signFactor neg * (m * (2 : ℝ) ^ e))) := by
  have he : 0 < 2 ^ f.expBits := Nat.two_pow_pos _
  have hp := f.precision_pos
  rcases Nat.eq_zero_or_pos m with rfl | hm
  · rw [pack_zero]
    refine ⟨fpBits_lt_of_single neg he (Nat.two_pow_pos _), 0, _,
      unpack_denormal (fpFields_fpBits he (Nat.two_pow_pos _)), ?_⟩
    simp
  rcases h with h0 | ⟨hk, hgrid⟩ | ⟨hlow, hhigh, hprecise⟩
  · omega
  · have hfrac : m * 2 ^ (e - (f.minExp - (f.precision - 1 : Nat))).toNat < 2 ^ (f.precision - 1) := by
      rw [leadingExp_eq hm] at hk
      calc m * 2 ^ (e - (f.minExp - (f.precision - 1 : Nat))).toNat
          < 2 ^ (Nat.log2 m + 1) * 2 ^ (e - (f.minExp - (f.precision - 1 : Nat))).toNat :=
            Nat.mul_lt_mul_of_pos_right Nat.lt_log2_self (Nat.two_pow_pos _)
        _ ≤ 2 ^ (f.precision - 1) := by
            rw [← pow_add]; exact Nat.pow_le_pow_right (by decide) (by omega)
    rw [pack_denormal hm hk]
    refine ⟨fpBits_lt_of_single neg he hfrac, _, _, unpack_denormal (fpFields_fpBits he hfrac), ?_⟩
    rw [if_neg Bool.false_ne_true, zpow_eq_natPow_mul hgrid]
    push_cast; ring
  · obtain ⟨hs1, hs2⟩ := f.significand_bounds hm
    have hfrac : f.significand m - 2 ^ (f.precision - 1) < 2 ^ (f.precision - 1) := by
      rw [show f.precision = f.precision - 1 + 1 by omega, pow_succ] at hs2
      omega
    have hexp := f.two_pow_expBits
    have hk : 0 < leadingExp m e + f.bias := by rw [Fmt.minExp] at hlow; omega
    have hb : (leadingExp m e + f.bias).toNat < 2 ^ f.expBits - 1 := by omega
    have hvalue := Fmt.significand_value hm hprecise
    rw [pack_normal hm hlow]
    refine ⟨fpBits_lt_of_single neg (by omega) hfrac, _, _,
      unpack_normal (fpFields_fpBits (by omega) hfrac) (by omega) hb, ?_⟩
    rw [Nat.add_sub_cancel' hs1, ← hvalue, Int.toNat_of_nonneg hk.le, add_sub_cancel_right, mul_assoc]

end Sys2Proof.Machine

namespace Sys2Proof.Machine

/-! ### The output stages (46_floating_point.md R509, R513, R553) -/

/-- The magnitude that rounding delivers. -/
noncomputable def Rounded.value (r : Rounded) : ℝ := r.m * (2 : ℝ) ^ r.e

theorem Rounded.value_nonneg (r : Rounded) : 0 ≤ r.value := by unfold Rounded.value; positivity

/-- A rounded magnitude lies between the multiples of the unit that the magnitude lies between. -/
theorem roundAt_between (mode : Rounding) (neg : Bool) (m : Nat) (e g : Int) :
    ∃ n : Nat, (roundAt mode neg m e g).value = n * (2 : ℝ) ^ g ∧
      ∀ a : Nat, (a * (2 : ℝ) ^ g ≤ m * (2 : ℝ) ^ e → a ≤ n) ∧ (m * (2 : ℝ) ^ e ≤ a * (2 : ℝ) ^ g → n ≤ a) := by
  obtain ⟨n, hn⟩ := roundAt_multiple mode neg m e g
  have hclose := (roundAt_isRounded mode neg m e g).close
  rw [mul_assoc, mul_assoc, ← mul_sub, abs_signFactor_mul, hn] at hclose
  refine ⟨n, hn, fun a => ?_⟩
  have hside := le_of_near_multiple (n := n) (a := a) hclose
  exact_mod_cast hside

section
variable {f : Fmt} {m : Nat} {e : Int}

/-- A magnitude rounded to a format lies between the powers of two that the magnitude lies between. -/
theorem roundTo_bounds (f : Fmt) (hm : 0 < m) (mode : Rounding) (neg : Bool) :
    (2 : ℝ) ^ leadingExp m e ≤ (roundTo f mode neg m e).value ∧
      (roundTo f mode neg m e).value ≤ (2 : ℝ) ^ (leadingExp m e + 1) ∧ f.Precise (roundTo f mode neg m e).value := by
  have hp := f.precision_pos
  obtain ⟨n, hn, hside⟩ := roundAt_between mode neg m e (f.unitExp m e)
  obtain ⟨hlow, hhigh⟩ := leadingExp_bounds hm e
  have hpow : ∀ j : Nat, (2 : ℝ) ^ (f.unitExp m e + j) = (2 ^ j : Nat) * 2 ^ f.unitExp m e := fun j => by
    rw [zpow_add₀ two_ne_zero, zpow_natCast, mul_comm]; push_cast; rfl
  have h1 : leadingExp m e = f.unitExp m e + (f.precision - 1 : Nat) := by unfold Fmt.unitExp; omega
  have h2 : leadingExp m e + 1 = f.unitExp m e + f.precision := by unfold Fmt.unitExp; omega
  have hpos : (0 : ℝ) < 2 ^ f.unitExp m e := by positivity
  rw [roundTo_eq, hn]
  rw [h1, hpow] at hlow
  rw [h2, hpow] at hhigh
  have hmin := (hside _).1 hlow
  have hmax := (hside _).2 hhigh.le
  refine ⟨?_, ?_, ?_⟩
  · rw [h1, hpow]
    exact mul_le_mul_of_nonneg_right (by exact_mod_cast hmin) hpos.le
  · rw [h2, hpow]
    exact mul_le_mul_of_nonneg_right (by exact_mod_cast hmax) hpos.le
  · rcases hmax.lt_or_eq with hlt | heq
    · exact ⟨n, _, hlt, rfl⟩
    · exact ⟨1, f.unitExp m e + f.precision, Nat.one_lt_two_pow (by omega), by rw [heq, hpow, Nat.cast_one, one_mul]⟩

theorem roundTo_pos (f : Fmt) (hm : 0 < m) (mode : Rounding) (neg : Bool) : 0 < (roundTo f mode neg m e).m := by
  have h := (roundTo_bounds (e := e) f hm mode neg).1
  rw [Rounded.value] at h
  by_contra h0
  rw [Nat.eq_zero_of_not_pos h0, Nat.cast_zero, zero_mul] at h
  exact absurd h (not_le.2 (by positivity))

theorem Fmt.largest_eq (f : Fmt) : ((f.largest : ℚ) : ℝ) =
    (2 ^ f.precision - 1 : Nat) * (2 : ℝ) ^ (f.bias - (f.precision - 1 : Nat) : Int) := by
  have hcast : (f.bias - (f.precision - 1 : Nat) : Int) = (f.bias - (f.precision - 1) : Nat) := by cases f <;> rfl
  rw [hcast, zpow_natCast, Fmt.largest, Nat.cast_sub Nat.one_le_two_pow]
  push_cast; rfl

/-- A number with the precision of a format is above its largest number from the next power of two on. -/
theorem Fmt.Precise.largest_lt_iff {x : ℝ} (h : f.Precise x) :
    ((f.largest : ℚ) : ℝ) < x ↔ (2 : ℝ) ^ (f.bias + 1 : Int) ≤ x := by
  have hp := f.precision_pos
  have hpos : (0 : ℝ) < 2 ^ (f.bias - (f.precision - 1 : Nat) : Int) := by positivity
  have htop : (2 : ℝ) ^ (f.bias + 1 : Int) =
      (2 ^ f.precision : Nat) * 2 ^ (f.bias - (f.precision - 1 : Nat) : Int) := by
    rw [zpow_eq_natPow_mul (show (f.bias - (f.precision - 1 : Nat) : Int) ≤ f.bias + 1 by omega)]
    congr 3; omega
  rw [f.largest_eq, htop]
  constructor
  · contrapose!
    intro hlt
    obtain ⟨n, k, hn, rfl⟩ := h
    rcases le_total k (f.bias - (f.precision - 1 : Nat) : Int) with hk | hk
    · exact mul_le_mul (by exact_mod_cast Nat.le_sub_one_of_lt hn) (zpow_le_zpow_right₀ one_le_two hk) (by positivity)
        (by positivity)
    · rw [zpow_eq_natPow_mul hk, ← mul_assoc, ← Nat.cast_mul] at hlt ⊢
      have hnat : n * 2 ^ (k - (f.bias - (f.precision - 1 : Nat) : Int)).toNat < 2 ^ f.precision := by
        exact_mod_cast lt_of_mul_lt_mul_right hlt hpos.le
      exact mul_le_mul_of_nonneg_right (by exact_mod_cast Nat.le_sub_one_of_lt hnat) hpos.le
  · refine fun hle => lt_of_lt_of_le (mul_lt_mul_of_pos_right ?_ hpos) hle
    exact_mod_cast Nat.sub_lt (Nat.two_pow_pos _) one_pos

theorem overflows_iff (f : Fmt) (hm : 0 < m) (mode : Rounding) (neg : Bool) :
    overflows f (roundTo f mode neg m e) = true ↔ ((f.largest : ℚ) : ℝ) < (roundTo f mode neg m e).value := by
  obtain ⟨-, -, hprecise⟩ := roundTo_bounds (e := e) f hm mode neg
  rw [hprecise.largest_lt_iff, overflows, decide_eq_true_iff, ← not_lt, Rounded.value,
    ← leadingExp_lt_iff (roundTo_pos f hm mode neg)]
  omega

theorem Fmt.Stands.isTiny_iff {x : ℝ} (h : f.Stands m e x) (hm : 0 < m) :
    isTiny f m e = true ↔ x < (2 : ℝ) ^ f.minExp := by
  obtain ⟨hlow, hhigh⟩ := h.bounds hm
  rw [isTiny, decide_eq_true_iff]
  constructor
  · intro hk
    exact hhigh.trans_le (zpow_le_zpow_right₀ one_le_two hk)
  · intro hx
    exact (zpow_lt_zpow_iff_right₀ one_lt_two).1 (hlow.trans_lt hx)

/-- A tiny number does not overflow. -/
theorem overflows_of_isTiny (hm : 0 < m) (mode : Rounding) (neg : Bool) (h : isTiny f m e = true) :
    overflows f (roundTo f mode neg m e) = false := by
  obtain ⟨-, hhigh, hprecise⟩ := roundTo_bounds (e := e) f hm mode neg
  rw [Bool.eq_false_iff, Ne, overflows_iff f hm, hprecise.largest_lt_iff, not_le]
  refine hhigh.trans_lt (zpow_lt_zpow_right₀ one_lt_two ?_)
  have := f.bias_pos
  rw [isTiny, decide_eq_true_iff, Fmt.minExp] at h
  omega

/-- A number rounded to a format, neither too large nor tiny, is held by it. -/
theorem roundTo_holds (hm : 0 < m) (mode : Rounding) (neg : Bool) (ho : overflows f (roundTo f mode neg m e) = false)
    (ht : isTiny f m e = false) : f.Holds (roundTo f mode neg m e).m (roundTo f mode neg m e).e := by
  obtain ⟨hlow, -, hprecise⟩ := roundTo_bounds (e := e) f hm mode neg
  have hr := roundTo_pos (e := e) f hm mode neg
  rw [overflows, decide_eq_false_iff_not, not_lt] at ho
  rw [isTiny, decide_eq_false_iff_not, not_lt] at ht
  refine .inr (.inr ⟨?_, ho, hprecise⟩)
  by_contra hlt
  have := (leadingExp_lt_iff hr _ _).1 (not_le.1 hlt)
  exact absurd (hlow.trans_lt this) (not_lt.2 (zpow_le_zpow_right₀ one_le_two ht))

/-- A tiny number rounded to the smallest unit of a format is held by it. -/
theorem roundAt_holds (hm : 0 < m) (mode : Rounding) (neg : Bool) (ht : isTiny f m e = true) :
    f.Holds (roundAt mode neg m e (f.minExp - (f.precision - 1 : Nat))).m
      (roundAt mode neg m e (f.minExp - (f.precision - 1 : Nat))).e := by
  obtain ⟨n, hn, hside⟩ := roundAt_between mode neg m e (f.minExp - (f.precision - 1 : Nat))
  have hge : f.minExp - (f.precision - 1 : Nat) ≤ (roundAt mode neg m e (f.minExp - (f.precision - 1 : Nat))).e := by
    rcases le_or_gt (f.minExp - (f.precision - 1 : Nat)) e with h | h
    · rw [roundAt_of_le _ _ _ h]; exact h
    · rw [roundAt_of_lt _ _ _ h]
  generalize roundAt mode neg m e (f.minExp - (f.precision - 1 : Nat)) = d at *
  rcases Nat.eq_zero_or_pos d.m with h0 | hd
  · exact .inl h0
  rcases lt_or_ge (leadingExp d.m d.e) f.minExp with hlt | hle
  · exact .inr (.inl ⟨hlt, hge⟩)
  · have hmin : (2 : ℝ) ^ f.minExp = (2 ^ (f.precision - 1) : Nat) * 2 ^ (f.minExp - (f.precision - 1 : Nat)) := by
      rw [zpow_eq_natPow_mul (show f.minExp - (f.precision - 1 : Nat) ≤ f.minExp by omega)]
      congr 3; omega
    rw [isTiny, decide_eq_true_iff, leadingExp_lt_iff hm, hmin] at ht
    have hvalue : d.value ≤ 2 ^ f.minExp := by
      rw [hn, hmin]
      exact mul_le_mul_of_nonneg_right (by exact_mod_cast (hside _).2 ht.le) (by positivity)
    have hb := f.bias_pos
    have hexp : leadingExp d.m d.e < f.minExp + 1 := (leadingExp_lt_iff hd _ _).2
      (hvalue.trans_lt (zpow_lt_zpow_right₀ one_lt_two (by omega)))
    have heq : d.value = 2 ^ f.minExp :=
      le_antisymm hvalue ((zpow_le_zpow_right₀ one_le_two hle).trans (leadingExp_bounds hd _).1)
    refine .inr (.inr ⟨hle, by rw [Fmt.minExp] at hexp; omega, 1, f.minExp, Nat.one_lt_two_pow ?_, ?_⟩)
    · have := f.precision_pos; omega
    · rw [Nat.cast_one, one_mul]; exact heq

end

end Sys2Proof.Machine

namespace Sys2Proof.Machine

/-! ### What the output stages deliver (46_floating_point.md R509, R513, R553) -/

theorem decide_signFactor_mul_neg (neg : Bool) {x : ℝ} (h : 0 < x) : decide (signFactor neg * x < 0) = neg := by
  cases neg
  · simp [signFactor, h.le]
  · simp [signFactor, h]

theorem signFactor_mul_inj (neg : Bool) {x y : ℝ} : signFactor neg * x = signFactor neg * y ↔ x = y :=
  mul_right_inj' (signFactor_ne_zero neg)

theorem FpStatus.none_tells : FpStatus.none.Tells False False False False False False := by
  simp [FpStatus.Tells, FpStatus.none]

theorem FpValue.is_zero (neg : Bool) : (FpValue.fin neg 0 0).Is neg 0 := ⟨0, 0, rfl, by simp⟩

section
variable {f : Fmt} {P : FpValue → Prop}

/-- A value delivered without an exception, by its pattern. -/
theorem exactly_packed {v : FpValue} (h : f.Pattern (pack f v) P) : f.Exactly ((exactly v).packed f) P :=
  ⟨⟨_, rfl, h⟩, FpStatus.none_tells⟩

theorem exactly_inf (f : Fmt) (neg : Bool) : f.Exactly ((exactly (.inf neg)).packed f) (· = .inf neg) :=
  exactly_packed (pattern_inf f neg)

theorem pattern_zero (f : Fmt) (neg : Bool) : f.Pattern (pack f (.fin neg 0 0)) (·.Is neg 0) := by
  simpa using (show f.Holds 0 0 from .inl rfl).pattern neg

theorem exactly_zero (f : Fmt) (neg : Bool) : f.Exactly ((exactly (.fin neg 0 0)).packed f) (·.Is neg 0) :=
  exactly_packed (pattern_zero f neg)

end

/-! ### Overflow (R509) -/

section
variable (f : Fmt) (mode : Rounding) (neg : Bool)

theorem overflowValue_eq : overflowValue f mode neg =
    if mode = .nearest ∨ mode = .up ∧ neg = false ∨ mode = .down ∧ neg = true then .inf neg
    else .fin neg (2 ^ f.precision - 1) (f.bias - (f.precision - 1 : Nat) : Int) := by
  cases mode <;> cases neg <;> rfl

theorem overflowValue_is : f.OverflowIs mode neg (overflowValue f mode neg) := by
  rw [overflowValue_eq, Fmt.OverflowIs]
  split_ifs
  · rfl
  · exact ⟨_, _, rfl, by rw [f.largest_eq, mul_assoc]⟩

theorem largest_holds : f.Holds (2 ^ f.precision - 1) (f.bias - (f.precision - 1 : Nat) : Int) := by
  have hp := f.precision_pos
  have hpow : 2 ^ f.precision = 2 * 2 ^ (f.precision - 1) := by rw [← pow_succ']; congr 1; omega
  have hpos := Nat.two_pow_pos (f.precision - 1)
  have hlength : bitLength (2 ^ f.precision - 1) = f.precision := by
    rw [bitLength_eq_of_bounds (n := f.precision - 1) (by omega) (by rw [pow_succ]; omega)]; omega
  have hk : leadingExp (2 ^ f.precision - 1) (f.bias - (f.precision - 1 : Nat) : Int) = f.bias := by
    rw [leadingExp, hlength]; omega
  refine .inr (.inr ⟨by rw [hk, Fmt.minExp]; have := f.bias_pos; omega, hk.le, _, _, by omega, rfl⟩)

theorem overflowValue_pattern : f.Pattern (pack f (overflowValue f mode neg)) (f.OverflowIs mode neg) := by
  rw [overflowValue_eq]
  unfold Fmt.OverflowIs
  split_ifs
  · exact pattern_inf f neg
  · rw [f.largest_eq]
    exact (largest_holds f).pattern neg

end

/-! ### The rows of R509 -/

section
variable {f : Fmt} {env : FpEnv} {neg : Bool} {m : Nat} {e : Int} {x : ℝ}

theorem outputStage_overflow (hm : 0 < m) (ho : overflows f (roundTo f env.mode neg m e) = true) :
    outputStage f env neg m e =
      if env.mask.v then ⟨some (overflowValue f env.mode neg), { FpStatus.none with v := true, x := true }⟩
      else ⟨none, { FpStatus.none with v := true, x := (roundTo f env.mode neg m e).inexact }⟩ := by
  unfold outputStage
  dsimp only
  rw [if_neg hm.ne', if_pos ho]

theorem outputStage_tiny (hm : 0 < m) (ht : isTiny f m e = true) : outputStage f env neg m e =
    let d := roundAt env.mode neg m e (f.minExp - (f.precision - 1 : Nat))
    if env.ff then ⟨if env.mask.u then some (.fin neg 0 0) else none, { FpStatus.none with u := true, x := true }⟩
    else if env.mask.u then ⟨some (.fin neg d.m d.e), { FpStatus.none with u := d.inexact, x := d.inexact }⟩
    else ⟨none, { FpStatus.none with u := true, x := (roundTo f env.mode neg m e).inexact }⟩ := by
  unfold outputStage
  dsimp only
  rw [if_neg hm.ne', if_neg (by rw [overflows_of_isTiny hm _ _ ht]; exact Bool.false_ne_true), if_pos ht]

theorem outputStage_ordinary (hm : 0 < m) (ho : overflows f (roundTo f env.mode neg m e) = false)
    (ht : isTiny f m e = false) : outputStage f env neg m e =
      let r := roundTo f env.mode neg m e
      if r.inexact then ⟨if env.mask.x then some (.fin neg r.m r.e) else none, { FpStatus.none with x := true }⟩
      else exactly (.fin neg r.m r.e) := by
  unfold outputStage
  dsimp only
  rw [if_neg hm.ne', if_neg (by rw [ho]; exact Bool.false_ne_true), if_neg (by rw [ht]; exact Bool.false_ne_true)]

/-- The number that rounding to the format delivers for `x`. -/
theorem Fmt.Stands.rounds (h : f.Stands m e x) (hm : 0 < m) (mode : Rounding) (neg : Bool) :
    f.Rounds mode (signFactor neg * x) (signFactor neg * (roundTo f mode neg m e).value) ∧
      ((roundTo f mode neg m e).inexact = true ↔
        signFactor neg * (roundTo f mode neg m e).value ≠ signFactor neg * x) := by
  obtain ⟨hlow, hhigh⟩ := h.bounds hm
  obtain ⟨hround, hinexact⟩ := h.rounded hm mode neg le_rfl
  refine ⟨⟨leadingExp m e, ?_, ?_, hround⟩, hinexact.trans (signFactor_mul_inj neg).not.symm⟩
  · rwa [abs_signFactor_mul, abs_of_pos (h.pos hm)]
  · rwa [abs_signFactor_mul, abs_of_pos (h.pos hm)]

/-- When a result is too large, and when it is tiny (R509). -/
theorem Fmt.Stands.range_iff (h : f.Stands m e x) (hm : 0 < m) (mode : Rounding) (neg : Bool) :
    (((f.largest : ℚ) : ℝ) < |signFactor neg * (roundTo f mode neg m e).value| ↔
      overflows f (roundTo f mode neg m e) = true) ∧
    (|signFactor neg * x| < (2 : ℝ) ^ f.minExp ↔ isTiny f m e = true) := by
  rw [abs_signFactor_mul, abs_signFactor_mul, abs_of_pos (h.pos hm), abs_of_nonneg (Rounded.value_nonneg _),
    h.isTiny_iff hm, overflows_iff f hm]
  exact ⟨Iff.rfl, Iff.rfl⟩

/-- The output stage delivers the rows of R509 for the number that its magnitude stands for. -/
theorem outputStage_delivers (h : f.Stands m e x) (hm : 0 < m) :
    f.Delivers env neg (signFactor neg * x) ((outputStage f env neg m e).packed f) := by
  obtain ⟨hrounds, hinexact⟩ := h.rounds hm env.mode neg
  obtain ⟨hlarge, htiny⟩ := h.range_iff hm env.mode neg
  have hgrid : isTiny f m e = true → f.unitExp m e ≤ f.minExp - (f.precision - 1 : Nat) := fun ht => by
    rw [isTiny, decide_eq_true_iff] at ht
    rw [Fmt.unitExp]
    omega
  refine ⟨_, hrounds, ?_⟩
  rw [hlarge, htiny]
  generalize hO : outputStage f env neg m e = o
  intro gives tiny large
  refine ⟨fun ho hv => ?_, fun ho hv => ?_, fun ht hff => ?_, fun ht hff hu => ?_, fun ht hff hu => ?_, fun ho ht => ?_⟩
  · rw [outputStage_overflow hm ho, if_pos hv] at hO
    subst hO
    exact ⟨⟨_, rfl, overflowValue_pattern f env.mode neg⟩, by simp [FpStatus.Tells, FpAnswer.packed, FpStatus.none]⟩
  · rw [outputStage_overflow hm ho, hv, if_neg Bool.false_ne_true] at hO
    subst hO
    exact ⟨rfl, by simp [FpStatus.Tells, FpAnswer.packed, FpStatus.none, hinexact]⟩
  · rw [outputStage_tiny hm ht, hff, if_pos rfl] at hO
    subst hO
    refine ⟨by simp [FpStatus.Tells, FpAnswer.packed, FpStatus.none], ?_⟩
    split_ifs with hu
    · exact ⟨_, by rw [if_pos hu]; rfl, pattern_zero f neg⟩
    · rfl
  · obtain ⟨hround, hdiffers⟩ := h.rounded hm env.mode neg (hgrid ht)
    rw [outputStage_tiny hm ht, hff, if_neg Bool.false_ne_true, if_pos hu] at hO
    subst hO
    refine ⟨_, hround, ⟨_, rfl, (roundAt_holds hm env.mode neg ht).pattern neg⟩, ?_⟩
    rw [Ne, signFactor_mul_inj]
    simp [FpStatus.Tells, FpAnswer.packed, FpStatus.none, hdiffers]
  · rw [outputStage_tiny hm ht, hff, hu, if_neg Bool.false_ne_true, if_neg Bool.false_ne_true] at hO
    subst hO
    exact ⟨rfl, by simp [FpStatus.Tells, FpAnswer.packed, FpStatus.none, hinexact]⟩
  · rw [Bool.not_eq_true] at ho ht
    have hpattern := (roundTo_holds hm env.mode neg ho ht).pattern neg
    rw [outputStage_ordinary hm ho ht] at hO
    dsimp only at hO
    cases hx : (roundTo f env.mode neg m e).inexact
    · have heq := not_not.1 (mt hinexact.2 (Bool.eq_false_iff.1 hx))
      rw [hx, if_neg Bool.false_ne_true] at hO
      subst hO
      exact ⟨by simp [heq, exactly, FpStatus.Tells, FpAnswer.packed, FpStatus.none], fun _ => ⟨_, rfl, hpattern⟩,
        fun hne => absurd heq hne⟩
    · have hne := hinexact.1 hx
      rw [hx, if_pos rfl] at hO
      subst hO
      refine ⟨by simp [hne, FpStatus.Tells, FpAnswer.packed, FpStatus.none], fun hmask => ?_, fun _ hmask => ?_⟩
      · exact ⟨_, by rw [if_pos (hmask.resolve_left hne)]; rfl, hpattern⟩
      · rw [hmask, if_neg Bool.false_ne_true]; rfl

/-- The result of an operation with the exact value `x` (R509). -/
theorem outputStage_results {neg' : Bool} {y : ℝ} (hy : y = signFactor neg * x)
    (h : m = 0 ∧ x = 0 ∨ 0 < m ∧ f.Stands m e x) (h0 : m = 0 → neg = neg') :
    f.Results env neg' y ((outputStage f env neg m e).packed f) := by
  subst hy
  rcases h with ⟨rfl, rfl⟩ | ⟨hm, hs⟩
  · refine ⟨fun _ => ?_, fun hne => absurd (mul_zero _) hne⟩
    rw [← h0 rfl]
    exact exactly_zero f neg
  · have hx := hs.pos hm
    refine ⟨fun h => absurd h (mul_ne_zero (signFactor_ne_zero neg) hx.ne'), fun _ => ?_⟩
    rw [decide_signFactor_mul_neg neg hx]
    exact outputStage_delivers hs hm

end

/-! ### The rows of R513 and R553 -/

section
variable {f : Fmt} {mode : Rounding} {neg : Bool} {m : Nat} {e : Int}

theorem flushingStage_overflow (hm : 0 < m) (ho : overflows f (roundTo f mode neg m e) = true) :
    flushingStage f mode neg m e = (overflowValue f mode neg, { FpStatus.none with v := true, x := true }) := by
  unfold flushingStage
  dsimp only
  rw [if_neg hm.ne', if_pos ho]

theorem flushingStage_tiny (hm : 0 < m) (ht : isTiny f m e = true) :
    flushingStage f mode neg m e = (.fin neg 0 0, { FpStatus.none with u := true, x := true }) := by
  unfold flushingStage
  dsimp only
  rw [if_neg hm.ne', if_neg (by rw [overflows_of_isTiny hm _ _ ht]; exact Bool.false_ne_true), if_pos ht]

theorem flushingStage_ordinary (hm : 0 < m) (ho : overflows f (roundTo f mode neg m e) = false)
    (ht : isTiny f m e = false) : flushingStage f mode neg m e =
      let r := roundTo f mode neg m e
      (.fin neg r.m r.e, { FpStatus.none with x := r.inexact }) := by
  unfold flushingStage
  dsimp only
  rw [if_neg hm.ne', if_neg (by rw [ho]; exact Bool.false_ne_true), if_neg (by rw [ht]; exact Bool.false_ne_true)]

/-- The flushing output stage delivers the rows of R513 for its magnitude. -/
theorem flushingStage_flushes {neg' : Bool} (h0 : m = 0 → neg = neg') :
    f.Flushes mode neg' (signFactor neg * (m * (2 : ℝ) ^ e)) True (flushingStage f mode neg m e).1
      (flushingStage f mode neg m e).2 := by
  rcases Nat.eq_zero_or_pos m with rfl | hm
  · rw [Nat.cast_zero, zero_mul, mul_zero, ← h0 rfl]
    exact ⟨fun _ => ⟨FpValue.is_zero neg, FpStatus.none_tells⟩, fun hne => absurd rfl hne⟩
  · have hs : f.Stands m e (m * (2 : ℝ) ^ e) := .inl rfl
    have hx := hs.pos hm
    obtain ⟨hrounds, hinexact⟩ := hs.rounds hm mode neg
    obtain ⟨hlarge, htiny⟩ := hs.range_iff hm mode neg
    refine ⟨fun h => absurd h (mul_ne_zero (signFactor_ne_zero neg) hx.ne'), fun _ => ⟨_, hrounds, ?_⟩⟩
    rw [decide_signFactor_mul_neg neg hx, hlarge, htiny]
    refine ⟨fun ho => ?_, fun ht => ?_, fun ho ht => ?_⟩
    · rw [flushingStage_overflow hm ho]
      exact ⟨overflowValue_is f mode neg, by simp [FpStatus.Tells, FpStatus.none]⟩
    · rw [flushingStage_tiny hm ht]
      exact ⟨FpValue.is_zero neg, by simp [FpStatus.Tells, FpStatus.none]⟩
    · rw [Bool.not_eq_true] at ho ht
      rw [flushingStage_ordinary hm ho ht]
      refine ⟨⟨_, _, rfl, (mul_assoc ..).symm⟩, ?_⟩
      rw [← hinexact]
      simp [FpStatus.Tells, FpStatus.none]

/-- The multiply-accumulate group does not report X (R513). -/
theorem FpStatus.Tells.dropX {t : FpStatus} {d x u v r n : Prop} (h : t.Tells d x u v r n) :
    ({ t with x := false } : FpStatus).Tells d False u v r n := by
  obtain ⟨hd, -, hrest⟩ := h
  exact ⟨hd, by simp, hrest⟩

theorem Fmt.Flushes.dropX {x : ℝ} {P : Prop} {v : FpValue} {t : FpStatus} (h : f.Flushes mode neg x P v t) :
    f.Flushes mode neg x False v { t with x := false } := by
  obtain ⟨hzero, hne⟩ := h
  refine ⟨fun h0 => ⟨(hzero h0).1, (hzero h0).2.dropX⟩, fun h0 => ?_⟩
  obtain ⟨r, hr, hlarge, htiny, hother⟩ := hne h0
  refine ⟨r, hr, fun h => ⟨(hlarge h).1, (hlarge h).2.dropX⟩, fun h => ⟨(htiny h).1, (htiny h).2.dropX⟩, fun h h' => ?_⟩
  rw [false_and]
  exact ⟨(hother h h').1, (hother h h').2.dropX⟩

end

end Sys2Proof.Machine

namespace Sys2Proof.Machine

/-! ### Finite values and their signs (46_floating_point.md R501, R503) -/

/-- A finite value by its fields. -/
theorem FpValue.Is.fields {a : FpValue} {neg : Bool} {x : ℝ} (h : a.Is neg x) :
    ∃ (m : Nat) (e : Int), a = .fin neg m e ∧ x = signFactor neg * (m * (2 : ℝ) ^ e) := by
  obtain ⟨m, e, ha, hx⟩ := h
  exact ⟨m, e, ha, by rw [hx, mul_assoc]⟩

theorem magnitude_eq_zero {neg : Bool} {m : Nat} {e : Int} : signFactor neg * (m * (2 : ℝ) ^ e) = 0 ↔ m = 0 := by
  have : (2 : ℝ) ^ e ≠ 0 := by positivity
  simp [signFactor_ne_zero, this]

theorem signFactor_xor (a b : Bool) : signFactor (a ^^ b) = signFactor a * signFactor b := by
  cases a <;> cases b <;> simp [signFactor]

theorem signFactor_div (a b : Bool) : signFactor a / signFactor b = signFactor (a ^^ b) := by
  cases a <;> cases b <;> norm_num [signFactor]

theorem signFactor_not (a : Bool) : signFactor (!a) = -signFactor a := by
  cases a <;> simp [signFactor]

theorem FpValue.Is.negate {a : FpValue} {neg : Bool} {x : ℝ} (h : a.Is neg x) : a.negate.Is (!neg) (-x) := by
  obtain ⟨m, e, rfl, rfl⟩ := h
  exact ⟨m, e, rfl, by rw [signFactor_not]; ring⟩

/-- A finite value as a multiple of a smaller power of two. -/
theorem scaled_value {neg : Bool} {m : Nat} {e g : Int} (h : g ≤ e) :
    (scaled neg m e g : ℝ) * (2 : ℝ) ^ g = signFactor neg * (m * (2 : ℝ) ^ e) := by
  rw [zpow_eq_natPow_mul h, scaled]
  cases neg <;> simp [signFactor] <;> ring

/-- The exact sum, and its sign if it is zero (R503). -/
theorem exactSum_spec (mode : Rounding) (na : Bool) (ma : Nat) (ea : Int) (nb : Bool) (mb : Nat) (eb : Int) :
    let t := exactSum mode na ma ea nb mb eb
    signFactor na * (ma * (2 : ℝ) ^ ea) + signFactor nb * (mb * (2 : ℝ) ^ eb) =
        signFactor t.1 * (t.2.1 * (2 : ℝ) ^ t.2.2) ∧
      (t.2.1 = 0 → t.1 = if na = nb then na else decide (mode = .down)) := by
  rw [← scaled_value (min_le_left ea eb), ← scaled_value (min_le_right ea eb), ← add_mul, ← Int.cast_add, exactSum]
  dsimp only
  generalize scaled na ma ea (min ea eb) + scaled nb mb eb (min ea eb) = t
  rcases eq_or_ne t 0 with rfl | h0
  · rw [if_pos rfl]
    exact ⟨by simp, fun _ => rfl⟩
  · rw [if_neg h0]
    have hsigned : signFactor (decide (t < 0)) * (t.natAbs : ℝ) = t := by
      rw [Nat.cast_natAbs]
      rcases lt_or_ge t 0 with h | h
      · rw [decide_eq_true h, abs_of_neg h, signFactor_true]; push_cast; ring
      · rw [decide_eq_false (not_lt.2 h), abs_of_nonneg h, signFactor_false, one_mul]
    exact ⟨by rw [← mul_assoc, hsigned], fun hz => absurd (Int.natAbs_eq_zero.1 hz) h0⟩

/-! ### The operands that are no finite numbers (R508) -/

theorem pack_nan (f : Fmt) (k : Bool) : pack f (.nan k) = quietNaN f := by cases f <;> rfl

section
variable {f : Fmt} {P : Prop}

theorem invalidAnswer_packed (h : P) : f.NotANumber (invalidAnswer.packed f) P :=
  ⟨congrArg some (pack_nan f false), by simp [FpAnswer.packed, invalidAnswer, FpStatus.Tells, FpStatus.none, h]⟩

theorem reservedAnswer_packed (h : ¬ P) : f.NotANumber (reservedAnswer.packed f) P :=
  ⟨congrArg some (pack_nan f false), by simp [FpAnswer.packed, reservedAnswer, FpStatus.Tells, FpStatus.none, h]⟩

theorem FpValue.isSNaN_iff (a : FpValue) : a.isSNaN = true ↔ a = .nan true := by
  cases a <;> simp [FpValue.isSNaN]

/-- With a NaN among the operands the answer is AQNaN, invalid if one of them is signaling. -/
theorem nanAnswer_of_isNaN {xs : List FpValue} (h : ∃ x ∈ xs, x.isNaN = true) :
    ∃ r, nanAnswer xs = some r ∧ f.NotANumber (r.packed f) (.nan true ∈ xs) := by
  have hs : xs.any FpValue.isSNaN = true ↔ .nan true ∈ xs := by
    simp [FpValue.isSNaN_iff]
  have hn : xs.any FpValue.isNaN = true := by simpa using h
  unfold nanAnswer
  by_cases hsnan : xs.any FpValue.isSNaN = true
  · rw [if_pos hsnan]
    exact ⟨_, rfl, invalidAnswer_packed (hs.1 hsnan)⟩
  · rw [if_neg hsnan, if_pos hn]
    exact ⟨_, rfl, reservedAnswer_packed (mt hs.2 hsnan)⟩

end

section
variable {f : Fmt} {env : FpEnv} {a b : FpValue}

/-- An operation that looks for NaNs first. -/
theorem notANumber_of_nanAnswer {op : FpAnswer} {rest : FpAnswer} {xs : List FpValue} {P : Prop}
    (hop : op = match nanAnswer xs with | some x => x | none => rest) (h : ∃ x ∈ xs, x.isNaN = true)
    (hP : .nan true ∈ xs ↔ P) : f.NotANumber (op.packed f) P := by
  obtain ⟨r, hr, hnan⟩ := nanAnswer_of_isNaN (f := f) h
  rw [hop, hr, ← hP]
  exact hnan

theorem isNaN_pair (h : a.isNaN = true ∨ b.isNaN = true) : ∃ x ∈ [a, b], x.isNaN = true := by
  rcases h with h | h
  · exact ⟨a, .head _, h⟩
  · exact ⟨b, .tail _ (.head _), h⟩

theorem snan_pair : .nan true ∈ [a, b] ↔ a = .nan true ∨ b = .nan true := by
  simp [eq_comm]

theorem fpAdd_nan (h : a.isNaN = true ∨ b.isNaN = true) :
    f.NotANumber ((fpAdd f env a b).packed f) (a = .nan true ∨ b = .nan true) :=
  notANumber_of_nanAnswer rfl (isNaN_pair h) snan_pair

theorem fpMul_nan (h : a.isNaN = true ∨ b.isNaN = true) :
    f.NotANumber ((fpMul f env a b).packed f) (a = .nan true ∨ b = .nan true) :=
  notANumber_of_nanAnswer rfl (isNaN_pair h) snan_pair

theorem fpDiv_nan (h : a.isNaN = true ∨ b.isNaN = true) :
    f.NotANumber ((fpDiv f env a b).packed f) (a = .nan true ∨ b = .nan true) :=
  notANumber_of_nanAnswer rfl (isNaN_pair h) snan_pair

theorem fpSqrt_nan (k : Bool) : f.NotANumber ((fpSqrt f env (.nan k)).packed f) (k = true) :=
  notANumber_of_nanAnswer rfl ⟨_, .head _, rfl⟩ (by simp [eq_comm])

theorem fpConvert_nan (k : Bool) : f.NotANumber ((fpConvert f env (.nan k)).packed f) (k = true) :=
  notANumber_of_nanAnswer rfl ⟨_, .head _, rfl⟩ (by simp [eq_comm])

/-! ### Finite operands (R503, R509) -/

/-- An exact result. -/
theorem outputStage_exact {neg neg' : Bool} {m : Nat} {e : Int} {y : ℝ} (hy : y = signFactor neg * (m * (2 : ℝ) ^ e))
    (h0 : m = 0 → neg = neg') : f.Results env neg' y ((outputStage f env neg m e).packed f) := by
  refine outputStage_results hy ?_ h0
  rcases Nat.eq_zero_or_pos m with rfl | hm
  · left; simp
  · exact .inr ⟨hm, .inl rfl⟩

theorem fpAdd_finite {na nb : Bool} {x y : ℝ} (ha : a.Is na x) (hb : b.Is nb y) :
    f.Results env (if na = nb then na else decide (env.mode = .down)) (x + y) ((fpAdd f env a b).packed f) := by
  obtain ⟨ma, ea, rfl, rfl⟩ := ha.fields
  obtain ⟨mb, eb, rfl, rfl⟩ := hb.fields
  obtain ⟨hsum, hsign⟩ := exactSum_spec env.mode na ma ea nb mb eb
  exact outputStage_exact hsum hsign

theorem fpMul_finite {na nb : Bool} {x y : ℝ} (ha : a.Is na x) (hb : b.Is nb y) :
    f.Results env (na ^^ nb) (x * y) ((fpMul f env a b).packed f) := by
  obtain ⟨ma, ea, rfl, rfl⟩ := ha.fields
  obtain ⟨mb, eb, rfl, rfl⟩ := hb.fields
  refine outputStage_exact ?_ fun _ => rfl
  rw [signFactor_xor, zpow_add₀ two_ne_zero]
  push_cast; ring

/-- A quotient or a root, said to be faithful over the rationals, stands for the real number. -/
theorem Fmt.Stands.of_faithful {n : Nat} {e : Int} {x : ℝ} (hbits : 2 ^ (f.precision + 2) ≤ n)
    (heven : n % 2 = 0 → n * (2 : ℝ) ^ e = x)
    (hodd : n % 2 ≠ 0 → ((n - 1 : Nat) : ℝ) * (2 : ℝ) ^ e < x ∧ x < ((n + 1 : Nat) : ℝ) * (2 : ℝ) ^ e) :
    f.Stands n e x := by
  by_cases h : n % 2 = 0
  · exact .inl (heven h)
  · obtain ⟨hlow, hhigh⟩ := hodd h
    rw [Nat.cast_sub (by omega)] at hlow
    push_cast at hlow hhigh
    exact .inr ⟨by omega, hbits, hlow, hhigh⟩

theorem quotient_stands {ma mb : Nat} {ea eb : Int} (ha : 0 < ma) (hb : 0 < mb) :
    f.Stands (quotient f ma mb ea eb).1 (quotient f ma mb ea eb).2 ((ma * (2 : ℝ) ^ ea) / (mb * (2 : ℝ) ^ eb)) := by
  have h := quotient_faithful (f := f) (ma := ma) (ea := ea) (eb := eb) hb
  rw [← rationalOf_cast, ← rationalOf_cast, ← Rat.cast_div]
  refine .of_faithful (le_quotient ha hb) (fun heven => ?_) fun hodd => ?_
  · rw [if_pos heven] at h
    rw [← h, rationalOf_cast]
  · rw [if_neg hodd] at h
    rw [← rationalOf_cast, ← rationalOf_cast]
    exact_mod_cast h

theorem squareRoot_stands {m : Nat} {e : Int} (hm : 0 < m) :
    f.Stands (squareRoot f m e).1 (squareRoot f m e).2 (Real.sqrt (m * (2 : ℝ) ^ e)) := by
  have h := squareRoot_faithful (f := f) (ma := m) (ea := e)
  have nonneg : ∀ (n : Nat) (k : Int), (0 : ℝ) ≤ n * (2 : ℝ) ^ k := fun n k => by positivity
  refine .of_faithful (le_squareRoot hm) (fun heven => ?_) fun hodd => ?_
  · rw [if_pos heven] at h
    rw [← rationalOf_cast m e, ← h, Rat.cast_pow, rationalOf_cast, Real.sqrt_sq (nonneg _ _)]
  · rw [if_neg hodd] at h
    rw [Real.lt_sqrt (nonneg _ _), Real.sqrt_lt' (by positivity), ← rationalOf_cast, ← rationalOf_cast,
      ← rationalOf_cast]
    exact_mod_cast h

theorem fpDiv_finite {na nb : Bool} {x y : ℝ} (ha : a.Is na x) (hb : b.Is nb y) (hy : y ≠ 0) :
    f.Results env (na ^^ nb) (x / y) ((fpDiv f env a b).packed f) := by
  obtain ⟨ma, ea, rfl, rfl⟩ := ha.fields
  obtain ⟨mb, eb, rfl, rfl⟩ := hb.fields
  have hmb : mb ≠ 0 := mt magnitude_eq_zero.2 hy
  rcases Nat.eq_zero_or_pos ma with rfl | hma
  · have hop : fpDiv f env (.fin na 0 ea) (.fin nb mb eb) = exactly (.fin (na ^^ nb) 0 0) := if_neg hmb
    rw [hop]
    exact ⟨fun _ => exactly_zero f _, fun h => absurd (by simp) h⟩
  · have hop : fpDiv f env (.fin na ma ea) (.fin nb mb eb) =
        outputStage f env (na ^^ nb) (quotient f ma mb ea eb).1 (quotient f ma mb ea eb).2 :=
      (if_neg hmb).trans (if_neg hma.ne')
    have hmb' := Nat.pos_of_ne_zero hmb
    rw [hop]
    refine outputStage_results ?_ (.inr ⟨(Nat.two_pow_pos _).trans_le (le_quotient hma hmb'), quotient_stands hma hmb'⟩)
      fun _ => rfl
    rw [← signFactor_div, mul_div_mul_comm]

theorem fpConvert_finite {na : Bool} {x : ℝ} (ha : a.Is na x) : f.Results env na x ((fpConvert f env a).packed f) := by
  obtain ⟨m, e, rfl, rfl⟩ := ha.fields
  exact outputStage_exact rfl fun _ => rfl

theorem fpSqrt_finite {na : Bool} {x : ℝ} (ha : a.Is na x) :
    (x < 0 → f.NotANumber ((fpSqrt f env a).packed f) True) ∧
      (0 ≤ x → f.Results env na (Real.sqrt x) ((fpSqrt f env a).packed f)) := by
  obtain ⟨m, e, rfl, rfl⟩ := ha.fields
  rcases Nat.eq_zero_or_pos m with rfl | hm
  · have hop : fpSqrt f env (.fin na 0 e) = exactly (.fin na 0 0) := rfl
    rw [hop]
    exact ⟨fun h => absurd h (by simp), fun _ => ⟨fun _ => exactly_zero f na, fun h => absurd (by simp) h⟩⟩
  · have hpos : (0 : ℝ) < m * 2 ^ e := by positivity
    cases na
    · have hop : fpSqrt f env (.fin false m e) = outputStage f env false (squareRoot f m e).1 (squareRoot f m e).2 :=
        if_neg hm.ne'
      rw [hop, signFactor_false, one_mul]
      refine ⟨fun h => absurd h (not_lt.2 hpos.le), fun _ => outputStage_results (by rw [signFactor_false, one_mul])
        (.inr ⟨(Nat.two_pow_pos _).trans_le (le_squareRoot hm), squareRoot_stands hm⟩) fun _ => rfl⟩
    · have hop : fpSqrt f env (.fin true m e) = invalidAnswer := if_neg hm.ne'
      rw [hop, signFactor_true, neg_one_mul]
      exact ⟨fun _ => invalidAnswer_packed trivial, fun h => absurd h (not_le.2 (neg_neg_of_pos hpos))⟩

end

end Sys2Proof.Machine

namespace Sys2Proof.Machine

/-! ### Infinities and zeros (46_floating_point.md R508) -/

section
variable {f : Fmt} {env : FpEnv} {a b : FpValue} {na nb : Bool} {x y : ℝ}

theorem fpAdd_inf_inf : if na = nb then f.Exactly ((fpAdd f env (.inf na) (.inf nb)).packed f) (· = .inf na)
    else f.NotANumber ((fpAdd f env (.inf na) (.inf nb)).packed f) True := by
  have hop : fpAdd f env (.inf na) (.inf nb) = if na = nb then exactly (.inf na) else invalidAnswer := rfl
  rw [hop]
  split_ifs
  · exact exactly_inf f na
  · exact invalidAnswer_packed trivial

theorem fpAdd_inf_finite (hb : b.Is nb y) : f.Exactly ((fpAdd f env (.inf na) b).packed f) (· = .inf na) := by
  obtain ⟨mb, eb, rfl, -⟩ := hb
  exact exactly_inf f na

theorem fpAdd_finite_inf (ha : a.Is na x) : f.Exactly ((fpAdd f env a (.inf nb)).packed f) (· = .inf nb) := by
  obtain ⟨ma, ea, rfl, -⟩ := ha
  exact exactly_inf f nb

theorem fpMul_inf_inf : f.Exactly ((fpMul f env (.inf na) (.inf nb)).packed f) (· = .inf (na ^^ nb)) :=
  exactly_inf f (na ^^ nb)

/-- A product with an infinity: invalid if the other factor is zero. -/
theorem infinite_product {zero : Prop} [Decidable zero] {neg : Bool} : if zero then
    f.NotANumber ((if zero then invalidAnswer else exactly (.inf neg)).packed f) True
    else f.Exactly ((if zero then invalidAnswer else exactly (.inf neg)).packed f) (· = .inf neg) := by
  split_ifs
  · exact invalidAnswer_packed trivial
  · exact exactly_inf f neg

theorem FpValue.isZero_fin (neg : Bool) (m : Nat) (e : Int) : (FpValue.fin neg m e).isZero = true ↔ m = 0 := beq_iff_eq

theorem fpMul_inf_finite (hb : b.Is nb y) : if y = 0 then f.NotANumber ((fpMul f env (.inf na) b).packed f) True
    else f.Exactly ((fpMul f env (.inf na) b).packed f) (· = .inf (na ^^ nb)) := by
  obtain ⟨mb, eb, rfl, rfl⟩ := hb.fields
  have hop : fpMul f env (.inf na) (.fin nb mb eb) =
      if (FpValue.fin nb mb eb).isZero = true then invalidAnswer else exactly (.inf (na ^^ nb)) := rfl
  simp only [hop, FpValue.isZero_fin, magnitude_eq_zero]
  exact infinite_product

theorem fpMul_finite_inf (ha : a.Is na x) : if x = 0 then f.NotANumber ((fpMul f env a (.inf nb)).packed f) True
    else f.Exactly ((fpMul f env a (.inf nb)).packed f) (· = .inf (na ^^ nb)) := by
  obtain ⟨ma, ea, rfl, rfl⟩ := ha.fields
  have hop : fpMul f env (.fin na ma ea) (.inf nb) =
      if ((FpValue.fin na ma ea).isZero || false) = true then invalidAnswer else exactly (.inf (na ^^ nb)) := rfl
  simp only [hop, Bool.or_false, FpValue.isZero_fin, magnitude_eq_zero]
  exact infinite_product

theorem fpDiv_inf_inf : f.NotANumber ((fpDiv f env (.inf na) (.inf nb)).packed f) True := invalidAnswer_packed trivial

theorem fpDiv_inf_finite (hb : b.Is nb y) :
    f.Exactly ((fpDiv f env (.inf na) b).packed f) (· = .inf (na ^^ nb)) := by
  obtain ⟨mb, eb, rfl, -⟩ := hb
  exact exactly_inf f (na ^^ nb)

theorem fpDiv_finite_inf (ha : a.Is na x) :
    f.Exactly ((fpDiv f env a (.inf nb)).packed f) (·.Is (na ^^ nb) 0) := by
  obtain ⟨ma, ea, rfl, -⟩ := ha
  exact exactly_zero f (na ^^ nb)

theorem fpDiv_by_zero (ha : a.Is na x) (hb : b.Is nb 0) :
    (x = 0 → f.NotANumber ((fpDiv f env a b).packed f) True) ∧
      (x ≠ 0 → (∃ v, ((fpDiv f env a b).packed f).result = some v ∧ f.Pattern v (· = .inf (na ^^ nb))) ∧
        ((fpDiv f env a b).packed f).status.Tells True False False False False False) := by
  obtain ⟨ma, ea, rfl, rfl⟩ := ha.fields
  obtain ⟨mb, eb, rfl, hmb⟩ := hb.fields
  obtain rfl : mb = 0 := magnitude_eq_zero.1 hmb.symm
  have hop : fpDiv f env (.fin na ma ea) (.fin nb 0 eb) =
      if ma = 0 then invalidAnswer else ⟨some (.inf (na ^^ nb)), { FpStatus.none with d := true }⟩ := rfl
  rw [hop, magnitude_eq_zero]
  constructor
  · intro h0
    rw [if_pos h0]
    exact invalidAnswer_packed trivial
  · intro h0
    rw [if_neg (by rwa [Ne, magnitude_eq_zero] at h0)]
    exact ⟨⟨_, rfl, pattern_inf f _⟩, by simp [FpAnswer.packed, FpStatus.Tells, FpStatus.none]⟩

theorem fpConvert_inf : f.Exactly ((fpConvert f env (.inf na)).packed f) (· = .inf na) := exactly_inf f na

theorem fpSqrt_inf : if na then f.NotANumber ((fpSqrt f env (.inf na)).packed f) True
    else f.Exactly ((fpSqrt f env (.inf na)).packed f) (· = .inf false) := by
  cases na
  · exact exactly_inf f false
  · exact invalidAnswer_packed trivial

end

/-! ### Integers (R550, D24) -/

theorem integerValue_is (unsigned : Bool) (w : Word) :
    if unsigned then (integerValue unsigned w).Is false w.toNat
    else (integerValue unsigned w).Is (decide (w.toInt < 0)) w.toInt := by
  cases unsigned
  · refine ⟨w.toInt.natAbs, 0, rfl, ?_⟩
    rcases lt_or_ge w.toInt 0 with h | h
    · rw [decide_eq_true h, signFactor_true, Nat.cast_natAbs, abs_of_neg h]; simp
    · rw [decide_eq_false (not_lt.2 h), signFactor_false, Nat.cast_natAbs, abs_of_nonneg h]; simp
  · exact ⟨w.toNat, 0, rfl, by simp [signFactor]⟩

/-- The smallest integer of each kind (R550). -/
def integerLow (unsigned : Bool) : Int := if unsigned then 0 else -2 ^ 31

/-- The largest integer of each kind (R550). -/
def integerHigh (unsigned : Bool) : Int := if unsigned then 2 ^ 32 - 1 else 2 ^ 31 - 1

/-- The word that an overflow delivers below, and above. -/
def integerBound (unsigned below : Bool) : Word :=
  if below then (if unsigned then 0 else 0x80000000) else if unsigned then 0xFFFFFFFF else 0x7FFFFFFF

/-- The integer that a number is rounded to. -/
def roundedInteger (mode : Rounding) (neg : Bool) (m : Nat) (e : Int) : Int :=
  let r := roundAt mode neg m e 0
  let n : Nat := r.m * 2 ^ r.e.toNat
  if neg then -n else n

theorem roundAt_zero_magnitude (mode : Rounding) (neg : Bool) (e g : Int) : (roundAt mode neg 0 e g).m = 0 := by
  rcases le_or_gt g e with h | h
  · rw [roundAt_of_le _ _ _ h]
  · rw [roundAt_of_lt _ _ _ h]
    dsimp only
    rw [Nat.zero_mod, roundsAway_zero _ _ _ (Nat.two_pow_pos _), if_neg Bool.false_ne_true, Nat.zero_div]

theorem roundedInteger_spec (mode : Rounding) (neg : Bool) (m : Nat) (e : Int) :
    IsRounded mode 0 (signFactor neg * (m * (2 : ℝ) ^ e)) (roundedInteger mode neg m e) ∧
      ((roundAt mode neg m e 0).inexact = true ↔
        (roundedInteger mode neg m e : ℝ) ≠ signFactor neg * (m * (2 : ℝ) ^ e)) := by
  have hround := roundAt_isRounded mode neg m e 0
  have hinexact := roundAt_inexact mode neg m e 0
  have he : 0 ≤ (roundAt mode neg m e 0).e := by
    rcases le_or_gt 0 e with h | h
    · rw [roundAt_of_le _ _ _ h]; exact h
    · rw [roundAt_of_lt _ _ _ h]
  have hvalue : (roundedInteger mode neg m e : ℝ) =
      signFactor neg * ((roundAt mode neg m e 0).m * (2 : ℝ) ^ (roundAt mode neg m e 0).e) := by
    rw [roundedInteger, zpow_eq_natPow_mul he, sub_zero]
    cases neg <;> simp [signFactor]
  rw [mul_assoc, mul_assoc] at hround
  rw [hvalue, Ne, signFactor_mul_inj]
  exact ⟨hround, hinexact⟩

section
variable {unsigned neg : Bool} {env : FpEnv} {m : Nat} {e : Int}

/-- CONVERT of a number that is not a negative one for an unsigned integer: the three overflows, then the integer. -/
theorem fpToInteger_finite_eq (hneg : unsigned = true → neg = true → m = 0) :
    fpToInteger unsigned env (.fin neg m e) =
      let i := roundedInteger env.mode neg m e
      let r := roundAt env.mode neg m e 0
      if i < integerLow unsigned ∨ integerHigh unsigned < i then
        integerOverflow env (integerBound unsigned (decide (i < integerLow unsigned)))
      else ⟨if r.inexact && !env.mask.x then none else some ((BitVec.ofInt 32 i).setWidth 64),
        { FpStatus.none with x := r.inexact }⟩ := by
  have hguard : (unsigned && neg && m != 0) = false := by
    cases unsigned <;> cases neg <;> simp_all
  have hzero : unsigned = true → neg = true →
      (roundAt env.mode neg m e 0).m * 2 ^ (roundAt env.mode neg m e 0).e.toNat = 0 :=
    fun hu hn => by rw [hneg hu hn, roundAt_zero_magnitude, Nat.zero_mul]
  unfold fpToInteger roundedInteger
  dsimp only
  rw [hguard, if_neg Bool.false_ne_true]
  generalize (roundAt env.mode neg m e 0).m * 2 ^ (roundAt env.mode neg m e 0).e.toNat = n at hzero ⊢
  have hword : (if neg then -(BitVec.ofNat 32 n) else BitVec.ofNat 32 n) =
      BitVec.ofInt 32 (if neg then -(n : Int) else n) := by
    cases neg
    · simp
    · simp [BitVec.ofInt_neg]
  rw [hword]
  simp only [integerLow, integerHigh, integerBound]
  cases unsigned <;> cases neg <;>
    simp only [Bool.false_and, Bool.true_and, Bool.and_false, Bool.not_true, Bool.not_false, Bool.false_eq_true,
      if_true, if_false, decide_eq_true_eq]
  · by_cases h : 2 ^ 31 ≤ n
    · rw [if_pos h, if_pos (by omega), if_neg (by omega)]
    · have hin : ¬ ((n : Int) < -2 ^ 31 ∨ 2 ^ 31 - 1 < (n : Int)) := by omega
      rw [if_neg h, if_neg hin]
  · by_cases h : 2 ^ 31 < n
    · rw [if_pos h, if_pos (by omega), if_pos (by omega)]
    · have hin : ¬ (-(n : Int) < -2 ^ 31 ∨ 2 ^ 31 - 1 < -(n : Int)) := by omega
      rw [if_neg h, if_neg hin]
  · by_cases h : 2 ^ 32 ≤ n
    · rw [if_pos h, if_pos (by omega), if_neg (by omega)]
    · have hin : ¬ ((n : Int) < 0 ∨ 2 ^ 32 - 1 < (n : Int)) := by omega
      rw [if_neg h, if_neg hin]
  · obtain rfl := hzero rfl rfl
    have hin : ¬ (-((0 : Nat) : Int) < 0 ∨ 2 ^ 32 - 1 < -((0 : Nat) : Int)) := by decide
    rw [if_neg (by decide), if_neg hin]

end

/-- CONVERT of a NaN or an infinity to an integer. -/
theorem fpToInteger_inf (unsigned : Bool) (env : FpEnv) (neg : Bool) :
    fpToInteger unsigned env (.inf neg) = integerInvalid (integerBound unsigned neg) false := by
  cases unsigned <;> cases neg <;> rfl

section
variable {unsigned na : Bool} {env : FpEnv} {a : FpValue} {x : ℝ}

theorem fpToInteger_negative (ha : a.Is na x) (hu : unsigned = true) (hx : x < 0) :
    fpToInteger unsigned env a = integerInvalid 0 false := by
  obtain ⟨m, e, rfl, rfl⟩ := ha.fields
  have hm : m ≠ 0 := fun h => by rw [magnitude_eq_zero.2 h] at hx; exact lt_irrefl _ hx
  cases na
  · rw [signFactor_false, one_mul] at hx
    exact absurd hx (not_lt.2 (by positivity))
  · subst hu
    simp [fpToInteger, hm]

/-- CONVERT of a finite number to an integer: the number rounded, or what an overflow delivers (R550, D24). -/
theorem fpToInteger_finite (ha : a.Is na x) (hu : unsigned = false ∨ 0 ≤ x) :
    ∃ i : Int, IsRounded env.mode 0 x i ∧
      (integerLow unsigned ≤ i → i ≤ integerHigh unsigned →
        (fpToInteger unsigned env a).status.Tells False ((i : ℝ) ≠ x) False False False False ∧
        ((i : ℝ) = x ∨ env.mask.x = true →
          (fpToInteger unsigned env a).result = some ((BitVec.ofInt 32 i).setWidth 64)) ∧
        ((i : ℝ) ≠ x → env.mask.x = false → (fpToInteger unsigned env a).result = none)) ∧
      (i < integerLow unsigned ∨ integerHigh unsigned < i →
        (fpToInteger unsigned env a).status.Tells False False False False False True ∧
        (fpToInteger unsigned env a).result = if env.mask.v then
          some ((integerBound unsigned (decide (i < integerLow unsigned))).setWidth 64) else none) := by
  obtain ⟨m, e, rfl, rfl⟩ := ha.fields
  obtain ⟨hround, hinexact⟩ := roundedInteger_spec env.mode na m e
  have hneg : unsigned = true → na = true → m = 0 := fun hun hn => by
    have hx := hu.resolve_left (by rw [hun]; decide)
    by_contra hm
    rw [hn, signFactor_true, neg_one_mul] at hx
    have : (0 : ℝ) < m * 2 ^ e := mul_pos (by exact_mod_cast Nat.pos_of_ne_zero hm) (by positivity)
    linarith
  have heq := fpToInteger_finite_eq (env := env) (e := e) hneg
  refine ⟨_, hround, fun hlow hhigh => ?_, fun hover => ?_⟩
  · rw [heq, ← hinexact]
    dsimp only
    rw [if_neg (not_or.2 ⟨not_lt.2 hlow, not_lt.2 hhigh⟩)]
    refine ⟨by simp [FpStatus.Tells, FpStatus.none], fun h => ?_, fun hx hmask => ?_⟩
    · have hmasked : ((roundAt env.mode na m e 0).inexact && !env.mask.x) = false := by
        rcases h with h | h
        · rw [Bool.eq_false_iff.2 (mt hinexact.1 (not_not.2 h)), Bool.false_and]
        · rw [h, Bool.not_true, Bool.and_false]
      rw [hmasked, if_neg Bool.false_ne_true]
    · rw [hx, hmask, Bool.not_false, Bool.and_true, if_pos rfl]
  · rw [heq]
    dsimp only
    rw [if_pos hover]
    exact ⟨by simp [integerOverflow, FpStatus.Tells, FpStatus.none], rfl⟩

end

end Sys2Proof.Machine

namespace Sys2Proof.Machine

/-! ### Comparisons (46_floating_point.md R508 (d), (e), R529) -/

theorem FpValue.At.isNaN {a : FpValue} {u : EReal} (h : a.At u) : a.isNaN = false := by
  rcases h with ⟨rfl, -⟩ | ⟨rfl, -⟩ | ⟨neg, x, ⟨m, e, rfl, -⟩, -⟩ <;> rfl

/-- The order of finite values, scaled to one exponent. -/
theorem below_finite (na nb : Bool) (ma mb : Nat) (ea eb : Int) :
    (FpValue.fin na ma ea).below (.fin nb mb eb) = true ↔
      signFactor na * (ma * (2 : ℝ) ^ ea) < signFactor nb * (mb * (2 : ℝ) ^ eb) := by
  have hpos : (0 : ℝ) < 2 ^ min ea eb := by positivity
  rw [← scaled_value (min_le_left ea eb), ← scaled_value (min_le_right ea eb), mul_lt_mul_iff_left₀ hpos, Int.cast_lt]
  exact decide_eq_true_iff

/-- `below` is the order of the extended reals. -/
theorem below_iff {a b : FpValue} {u v : EReal} (ha : a.At u) (hb : b.At v) : a.below b = true ↔ u < v := by
  rcases ha with ⟨rfl, rfl⟩ | ⟨rfl, rfl⟩ | ⟨na, x, ha, rfl⟩ <;>
    rcases hb with ⟨rfl, rfl⟩ | ⟨rfl, rfl⟩ | ⟨nb, y, hb, rfl⟩
  · simp [FpValue.below]
  · simp [FpValue.below]
  · obtain ⟨mb, eb, rfl, -⟩ := hb
    simp [FpValue.below]
  · simp [FpValue.below]
  · simp [FpValue.below]
  · obtain ⟨mb, eb, rfl, -⟩ := hb
    simp [FpValue.below, EReal.bot_lt_coe]
  · obtain ⟨ma, ea, rfl, -⟩ := ha
    simp [FpValue.below, EReal.coe_lt_top]
  · obtain ⟨ma, ea, rfl, -⟩ := ha
    simp [FpValue.below]
  · obtain ⟨ma, ea, rfl, rfl⟩ := ha.fields
    obtain ⟨mb, eb, rfl, rfl⟩ := hb.fields
    rw [below_finite, EReal.coe_lt_coe_iff]

theorem equals_iff {a b : FpValue} {u v : EReal} (ha : a.At u) (hb : b.At v) : a.equals b = true ↔ u = v := by
  rw [FpValue.equals, Bool.and_eq_true, Bool.not_eq_true', Bool.not_eq_true', ← Bool.not_eq_true, ← Bool.not_eq_true,
    below_iff ha hb, below_iff hb ha, not_lt, not_lt, le_antisymm_iff]
  exact and_comm

section
variable {rel : FpValue → FpValue → Bool} {invalid : FpValue → Bool} {a b : FpValue}

theorem fpCompare_nan {P : Prop} (h : a.isNaN = true ∨ b.isNaN = true)
    (hinvalid : (invalid a || invalid b) = true ↔ P) :
    (fpCompare rel invalid a b).result = some 0 ∧
      (fpCompare rel invalid a b).status.Tells False False False False False P := by
  have hnan : (a.isNaN || b.isNaN) = true := by simpa using h
  exact ⟨by rw [fpCompare, hnan]; rfl, by simpa [fpCompare, FpStatus.Tells, FpStatus.none] using hinvalid⟩

theorem fpCompare_at {u v : EReal} {holds : Prop} (ha : a.At u) (hb : b.At v)
    (hinvalid : ∀ x : FpValue, x.isNaN = false → invalid x = false) (hrel : rel a b = true ↔ holds) :
    (fpCompare rel invalid a b).status.Tells False False False False False False ∧
      (holds → (fpCompare rel invalid a b).result = some 0x80000000) ∧
      (¬ holds → (fpCompare rel invalid a b).result = some 0) := by
  refine ⟨?_, fun h => ?_, fun h => ?_⟩
  · simp [fpCompare, FpStatus.Tells, FpStatus.none, hinvalid a ha.isNaN, hinvalid b hb.isNaN]
  · rw [fpCompare, ha.isNaN, hb.isNaN, hrel.2 h]; rfl
  · rw [fpCompare, ha.isNaN, hb.isNaN, Bool.eq_false_iff.2 (mt hrel.1 h)]; rfl

end

theorem isSNaN_of_isNaN {x : FpValue} (h : x.isNaN = false) : x.isSNaN = false := by
  cases x with
  | nan k => cases h
  | inf neg => rfl
  | fin neg m e => rfl

/-! ### The multiply-accumulate group and MTACC (R508 (j), (k), R513, R553) -/

section
variable {f : Fmt} {mode : Rounding} {a b c : FpValue} {x y z : ℝ}

theorem fpMac_nan (h : (a.isNaN = true ∨ b.isNaN = true) ∨ c.isNaN = true) :
    (fpMac f mode a b c).1 = .nan false ∧ (fpMac f mode a b c).2.Tells False False False False True
      ((a = .nan true ∨ b = .nan true) ∨ c = .nan true) := by
  have hs : (a.isSNaN || b.isSNaN || c.isSNaN) = true ↔ (a = .nan true ∨ b = .nan true) ∨ c = .nan true := by
    simp [FpValue.isSNaN_iff]
  have hn : (a.isNaN || b.isNaN || c.isNaN) = true := by simpa using h
  unfold fpMac
  by_cases hsnan : (a.isSNaN || b.isSNaN || c.isSNaN) = true
  · rw [if_pos hsnan, ← hs]
    exact ⟨rfl, by simp [FpStatus.Tells, FpStatus.none, hsnan]⟩
  · rw [if_neg hsnan, if_pos hn, ← hs]
    exact ⟨rfl, by simp [FpStatus.Tells, FpStatus.none, hsnan]⟩

/-- A multiply-accumulate of a factor that is infinite. -/
theorem fpMac_infinite (ha : a.isNaN = false) (hb : b.isNaN = false) (hc : c.isNaN = false)
    (hinf : (a = .inf false ∨ a = .inf true) ∨ b = .inf false ∨ b = .inf true) : fpMac f mode a b c =
      if a.isZero || b.isZero || c = .inf (!(a.sign ^^ b.sign)) then
        (.nan false, { FpStatus.none with r := true, n := true })
      else (.inf (a.sign ^^ b.sign), FpStatus.none) := by
  unfold fpMac
  rw [if_neg (by simp [isSNaN_of_isNaN, ha, hb, hc]), if_neg (by simp [ha, hb, hc])]
  rcases hinf with (rfl | rfl) | (rfl | rfl)
  · rfl
  · rfl
  · cases a <;> rfl
  · cases a <;> rfl

/-- The sign of a number, and whether it is zero. -/
theorem FpValue.sign_isZero {sa : Bool} (h : a = .inf sa ∨ a.Is sa x) :
    a.isNaN = false ∧ a.sign = sa ∧ (a.isZero = true ↔ a.Is sa 0) := by
  rcases h with rfl | ⟨m, e, rfl, -⟩
  · exact ⟨rfl, rfl, ⟨fun h => (by cases h), fun ⟨_, _, h, _⟩ => (by cases h)⟩⟩
  · refine ⟨rfl, rfl, (FpValue.isZero_fin sa m e).trans ⟨?_, fun h => ?_⟩⟩
    · rintro rfl
      exact ⟨0, e, rfl, by simp⟩
    · obtain ⟨_, _, heq, h0⟩ := h.fields
      cases heq
      exact magnitude_eq_zero.1 h0.symm

theorem fpMac_inf {sa sb : Bool} (hc : c.isNaN = false)
    (hinf : (a = .inf false ∨ a = .inf true) ∨ b = .inf false ∨ b = .inf true)
    (ha : a = .inf sa ∨ a.Is sa x) (hb : b = .inf sb ∨ b.Is sb y) :
    let bad := a.Is sa 0 ∨ b.Is sb 0 ∨ c = .inf (!(sa ^^ sb))
    (bad → (fpMac f mode a b c).1 = .nan false ∧ (fpMac f mode a b c).2.Tells False False False False True True) ∧
      (¬ bad → (fpMac f mode a b c).1 = .inf (sa ^^ sb) ∧
        (fpMac f mode a b c).2.Tells False False False False False False) := by
  intro bad
  obtain ⟨hna, hsa, hza⟩ := FpValue.sign_isZero ha
  obtain ⟨hnb, hsb, hzb⟩ := FpValue.sign_isZero hb
  have hbad : (a.isZero || b.isZero || c = .inf (!(sa ^^ sb))) = true ↔ bad := by
    rw [Bool.or_eq_true, Bool.or_eq_true, hza, hzb, decide_eq_true_iff, or_assoc]
  rw [fpMac_infinite hna hnb hc hinf, hsa, hsb]
  refine ⟨fun h => ?_, fun h => ?_⟩
  · rw [if_pos (hbad.2 h)]
    exact ⟨rfl, by simp [FpStatus.Tells, FpStatus.none]⟩
  · rw [if_neg (mt hbad.1 h)]
    exact ⟨rfl, FpStatus.none_tells⟩

theorem fpMac_finite_inf {na nb nc : Bool} (ha : a.Is na x) (hb : b.Is nb y) :
    (fpMac f mode a b (.inf nc)).1 = .inf nc ∧
      (fpMac f mode a b (.inf nc)).2.Tells False False False False False False := by
  obtain ⟨ma, ea, rfl, -⟩ := ha
  obtain ⟨mb, eb, rfl, -⟩ := hb
  exact ⟨rfl, FpStatus.none_tells⟩

theorem fpMac_finite {na nb nc : Bool} (ha : a.Is na x) (hb : b.Is nb y) (hc : c.Is nc z) :
    f.Flushes mode (if (na ^^ nb) = nc then na ^^ nb else decide (mode = .down)) (x * y + z) False
      (fpMac f mode a b c).1 (fpMac f mode a b c).2 := by
  obtain ⟨ma, ea, rfl, rfl⟩ := ha.fields
  obtain ⟨mb, eb, rfl, rfl⟩ := hb.fields
  obtain ⟨mc, ec, rfl, rfl⟩ := hc.fields
  have hop : fpMac f mode (.fin na ma ea) (.fin nb mb eb) (.fin nc mc ec) =
      macFinite f mode (na ^^ nb) (ma * mb) (ea + eb) nc mc ec := rfl
  obtain ⟨hsum, hsign⟩ := exactSum_spec mode (na ^^ nb) (ma * mb) (ea + eb) nc mc ec
  have hproduct : signFactor na * (ma * (2 : ℝ) ^ ea) * (signFactor nb * (mb * (2 : ℝ) ^ eb)) =
      signFactor (na ^^ nb) * ((ma * mb : Nat) * (2 : ℝ) ^ (ea + eb)) := by
    rw [signFactor_xor, zpow_add₀ two_ne_zero]; push_cast; ring
  rw [hop, hproduct, hsum]
  exact (flushingStage_flushes hsign).dropX

theorem fpToAcc_nan (k : Bool) : (fpToAcc f mode (.nan k)).1 = .nan false ∧
    (fpToAcc f mode (.nan k)).2.Tells False False False False True (k = true) :=
  ⟨rfl, by simp [fpToAcc, FpStatus.Tells, FpStatus.none]⟩

theorem fpToAcc_inf (neg : Bool) : (fpToAcc f mode (.inf neg)).1 = .inf neg ∧
    (fpToAcc f mode (.inf neg)).2.Tells False False False False False False := ⟨rfl, FpStatus.none_tells⟩

theorem fpToAcc_finite {na : Bool} (ha : a.Is na x) :
    f.Flushes mode na x True (fpToAcc f mode a).1 (fpToAcc f mode a).2 := by
  obtain ⟨m, e, rfl, rfl⟩ := ha.fields
  exact flushingStage_flushes fun _ => rfl

end

/-! ### Patterns of values, bits of a status (R500, R501, R510) -/

theorem Fmt.le_double {f g : Fmt} (h : g = f ∨ g = .double) :
    f.precision ≤ g.precision ∧ g.minExp ≤ f.minExp ∧ f.bias ≤ g.bias := by
  rcases h with rfl | rfl
  · exact ⟨le_rfl, le_rfl, le_rfl⟩
  · cases f <;> decide

theorem abs_magnitude (neg : Bool) (m : Nat) (e : Int) : |signFactor neg * (m * (2 : ℝ) ^ e)| = m * (2 : ℝ) ^ e := by
  rw [abs_signFactor_mul, abs_of_nonneg (by positivity)]

/-- A number that is its own rounding has the precision of the format. -/
theorem Fmt.Rounds.precise {f : Fmt} {x : ℝ} (h : f.Rounds .zero x x) : f.Precise |x| := by
  obtain ⟨k, -, hhigh, n, hn, -⟩ := h
  have hpos : (0 : ℝ) < 2 ^ (k - (f.precision - 1 : Nat)) := by positivity
  have hp := f.precision_pos
  have habs : |x| = n.natAbs * (2 : ℝ) ^ (k - (f.precision - 1 : Nat)) := by
    rw [hn, abs_mul, abs_of_pos hpos, Nat.cast_natAbs, Int.cast_abs]
  refine ⟨n.natAbs, _, ?_, habs⟩
  rw [habs, zpow_eq_natPow_mul (show k - (f.precision - 1 : Nat) ≤ k + 1 by omega),
    show (k + 1 - (k - (f.precision - 1 : Nat))).toNat = f.precision by omega] at hhigh
  exact_mod_cast lt_of_mul_lt_mul_right hhigh hpos.le

/-- A finite number that a format holds, in that format or in double-precision. -/
theorem pattern_of_precise {f g : Fmt} (hg : g = f ∨ g = .double) {a : FpValue} {na : Bool} {x : ℝ} (ha : a.Is na x)
    (hx : x = 0 ∨ f.Rounds .zero x x ∧ (2 : ℝ) ^ f.minExp ≤ |x| ∧ |x| ≤ ((f.largest : ℚ) : ℝ)) :
    g.Pattern (pack g a) (·.Is na x) := by
  obtain ⟨hprec, hmin, hbias⟩ := Fmt.le_double hg
  obtain ⟨m, e, rfl, rfl⟩ := ha.fields
  refine Fmt.Holds.pattern ?_ na
  rcases Nat.eq_zero_or_pos m with h0 | hm
  · exact .inl h0
  obtain ⟨hround, hlow, hhigh⟩ := hx.resolve_left (mt magnitude_eq_zero.1 hm.ne')
  have hprecise := hround.precise
  rw [abs_magnitude] at hlow hhigh hprecise
  have htop := mt hprecise.largest_lt_iff.2 (not_lt.2 hhigh)
  obtain ⟨n, k, hn, hnk⟩ := hprecise
  refine .inr (.inr ⟨?_, ?_, n, k, hn.trans_le (Nat.pow_le_pow_right (by decide) hprec), hnk⟩)
  · by_contra hlt
    have hlt' := (leadingExp_lt_iff hm e _).1 (not_le.1 hlt)
    exact absurd (hlow.trans_lt hlt') (not_lt.2 (zpow_le_zpow_right₀ one_le_two hmin))
  · have := (leadingExp_lt_iff hm e _).2 (not_le.1 htop)
    omega

theorem FpStatus.bits_spec (t : FpStatus) : t.bits.toNat < 64 ∧ bitOf t.bits 0 = t.n ∧ bitOf t.bits 1 = t.r ∧
    bitOf t.bits 2 = t.v ∧ bitOf t.bits 3 = t.u ∧ bitOf t.bits 4 = t.x ∧ bitOf t.bits 5 = t.d := by
  obtain ⟨d, x, u, v, r, n⟩ := t
  revert d x u v r n
  decide

/-! ### All exceptions masked (R510) -/

section
variable {f : Fmt} {env : FpEnv}

theorem outputStage_isSome (hm : env.mask = ⟨true, true, true, true, true, true⟩) (neg : Bool) (m : Nat) (e : Int) :
    (outputStage f env neg m e).result.isSome = true := by
  unfold outputStage
  dsimp only
  simp only [hm, if_true]
  split_ifs <;> rfl

theorem nanAnswer_isSome {xs : List FpValue} {r : FpAnswer} (h : nanAnswer xs = some r) : r.result.isSome = true := by
  unfold nanAnswer at h
  split_ifs at h <;> cases h <;> rfl

theorem fpAdd_isSome (hm : env.mask = ⟨true, true, true, true, true, true⟩) (a b : FpValue) :
    (fpAdd f env a b).result.isSome = true := by
  unfold fpAdd
  split
  · exact nanAnswer_isSome ‹_›
  · split
    · split_ifs <;> rfl
    · rfl
    · rfl
    · exact outputStage_isSome hm ..
    · rfl

theorem fpMul_isSome (hm : env.mask = ⟨true, true, true, true, true, true⟩) (a b : FpValue) :
    (fpMul f env a b).result.isSome = true := by
  unfold fpMul
  split
  · exact nanAnswer_isSome ‹_›
  · split
    · exact outputStage_isSome hm ..
    · split_ifs <;> rfl

theorem fpDiv_isSome (hm : env.mask = ⟨true, true, true, true, true, true⟩) (a b : FpValue) :
    (fpDiv f env a b).result.isSome = true := by
  unfold fpDiv
  split
  · exact nanAnswer_isSome ‹_›
  · dsimp only
    split
    · split_ifs
      · rfl
      · rfl
      · rfl
      · exact outputStage_isSome hm ..
    · rfl
    · rfl
    · rfl

theorem fpSqrt_isSome (hm : env.mask = ⟨true, true, true, true, true, true⟩) (a : FpValue) :
    (fpSqrt f env a).result.isSome = true := by
  unfold fpSqrt
  split
  · exact nanAnswer_isSome ‹_›
  · split
    · split_ifs
      · rfl
      · rfl
      · exact outputStage_isSome hm ..
    · split_ifs <;> rfl

theorem fpConvert_isSome (hm : env.mask = ⟨true, true, true, true, true, true⟩) (a : FpValue) :
    (fpConvert f env a).result.isSome = true := by
  unfold fpConvert
  split
  · exact nanAnswer_isSome ‹_›
  · split
    · exact outputStage_isSome hm ..
    · rfl

theorem fpToInteger_isSome (hm : env.mask = ⟨true, true, true, true, true, true⟩) (unsigned : Bool) (a : FpValue) :
    (fpToInteger unsigned env a).result.isSome = true := by
  unfold fpToInteger
  split
  · rfl
  · rfl
  · dsimp only
    simp only [hm, integerOverflow, Bool.not_true, Bool.and_false, Bool.false_eq_true, if_true, if_false]
    split_ifs <;> rfl

end

end Sys2Proof.Machine

namespace Sys2Proof.Machine

/-! ### Unpacking by the fields, and what every operation delivers (46_floating_point.md R500 to R513, R550, R553) -/

theorem Fmt.fields_eq (f : Fmt) : f.precision = (if f = .single then 23 else 52) + 1 ∧
    f.expBits = (if f = .single then 8 else 11) ∧ f.bias = if f = .single then 127 else 1023 := by
  cases f <;> exact ⟨rfl, rfl, rfl⟩

/-- Unpacking by the fields of a pattern (R500, R501, R504 (1)). -/
theorem unpack_spec {f : Fmt} {p q bias : Nat} (hp : f.precision = p + 1) (hq : f.expBits = q) (hbias : f.bias = bias)
    (flush : Bool) (d : DWord) :
    let sign := d.getLsbD (p + q)
    let bexp := d.toNat / 2 ^ p % 2 ^ q
    let frac := d.toNat % 2 ^ p
    let v := unpack f flush d
    (bexp = 2 ^ q - 1 → v = if frac = 0 then .inf sign else .nan (frac < 2 ^ (p - 1))) ∧
    (bexp = 0 → v.Is sign (signFactor sign * (if flush then 0 else frac : Nat) * (2 : ℝ) ^ (1 - bias - p : Int))) ∧
    (0 < bexp → bexp < 2 ^ q - 1 →
      v.Is sign (signFactor sign * (2 ^ p + frac : Nat) * (2 : ℝ) ^ (bexp - bias - p : Int))) := by
  intro sign bexp frac v
  have hfields : fpFields f d = ⟨sign, bexp, frac⟩ := by
    unfold fpFields
    rw [hp, hq, Nat.add_sub_cancel]
  refine ⟨fun h => ?_, fun h => ?_, fun h0 h1 => ?_⟩
  · rw [h, ← hq] at hfields
    split_ifs with hfrac
    · rw [hfrac] at hfields
      exact unpack_inf hfields
    · have hv := unpack_nan (flush := flush) hfields hfrac
      rwa [hp] at hv
  · rw [h] at hfields
    have hv := unpack_denormal (flush := flush) hfields
    rw [Fmt.minExp, hp, hbias] at hv
    exact ⟨_, _, hv, rfl⟩
  · rw [← hq] at h1
    have hv := unpack_normal (flush := flush) hfields h0 h1
    rw [hp, hbias] at hv
    exact ⟨_, _, hv, rfl⟩

theorem integerInvalid_spec {o : FpOutcome} {w : Word} {r : Bool} {P : Prop} (h : o = integerInvalid w r)
    (hP : r = true ↔ P) : o.result = some (w.setWidth 64) ∧ o.status.Tells False False False False P True := by
  subst h
  exact ⟨rfl, by simp [integerInvalid, FpStatus.Tells, FpStatus.none, hP]⟩

/-- Settles O37: each group of clauses by the lemmas on its operation. -/
theorem floatOperationsAreCorrect : Obligations.FloatOperationsAreCorrect := by
  intro f e s a b c na nb nc unsigned x y z w p q bias n infinite snan isnan nans sum product ratio root same int
    compared mac toAcc
  obtain ⟨hp, hq, hbias⟩ := f.fields_eq
  refine ⟨⟨hp, hbias, by rw [Fmt.minExp, hbias]⟩, unpack_spec hp hq hbias, fun flush k r => ⟨rfl, rfl⟩,
    ⟨s.fpEnv_mode, rfl, rfl, rfl, rfl, rfl, rfl⟩, FpValue.Is.negate, ?_, ?_, ?_, ?_, ?_, ?_, integerValue_is unsigned w,
    ?_, ?_, ?_, ?_, ?_, FpStatus.bits_spec, ?_⟩
  · rintro rfl; rfl
  · rintro k rfl; rfl
  · refine ⟨fpAdd_nan, ?_, ?_, ?_, fpAdd_finite⟩
    · rintro rfl rfl; exact fpAdd_inf_inf
    · rintro rfl; exact fpAdd_inf_finite
    · rintro ha rfl; exact fpAdd_finite_inf ha
  · refine ⟨fpMul_nan, ?_, ?_, ?_, fpMul_finite⟩
    · rintro rfl rfl; exact fpMul_inf_inf
    · rintro rfl; exact fpMul_inf_finite
    · rintro ha rfl; exact fpMul_finite_inf ha
  · refine ⟨fpDiv_nan, ?_, ?_, ?_, fun ha hb => (fpDiv_by_zero ha hb).1, fun ha hb => (fpDiv_by_zero ha hb).2,
      fpDiv_finite⟩
    · rintro rfl rfl; exact fpDiv_inf_inf
    · rintro rfl; exact fpDiv_inf_finite
    · rintro ha rfl; exact fpDiv_finite_inf ha
  · refine ⟨?_, ?_, fun ha => ⟨fpConvert_finite ha, fpSqrt_finite ha⟩⟩
    · rintro k rfl; exact ⟨fpSqrt_nan k, fpConvert_nan k⟩
    · rintro rfl; exact ⟨fpConvert_inf, fpSqrt_inf⟩
  · intro largest smallest low high invalid
    refine ⟨?_, ?_, fun ha hu hx => ?_, fun ha hu => ?_⟩
    · rintro k rfl
      exact integerInvalid_spec (w := 0) rfl (by decide)
    · rintro rfl
      exact integerInvalid_spec (fpToInteger_inf unsigned e na) (by decide)
    · exact integerInvalid_spec (fpToInteger_negative ha hu hx) (by decide)
    · obtain ⟨i, hround, hwithin, hover⟩ := fpToInteger_finite (env := e) ha hu
      refine ⟨i, hround, hwithin, fun h => ⟨(hover h).1, (hover h).2.trans ?_⟩⟩
      simp only [integerBound, decide_eq_true_eq]
      rfl
  · refine ⟨⟨fun h => fpCompare_nan h ?_,
        fun u v hu hv => fpCompare_at hu hv (fun _ => isSNaN_of_isNaN) (equals_iff hu hv)⟩,
      ⟨fun h => fpCompare_nan h ?_, fun u v hu hv => fpCompare_at hu hv (fun _ => id) (below_iff hv hu)⟩,
      ⟨fun h => fpCompare_nan h ?_, fun u v hu hv => fpCompare_at hu hv (fun _ => id) ?_⟩⟩
    · rw [Bool.or_eq_true, FpValue.isSNaN_iff, FpValue.isSNaN_iff]
    · simpa using h
    · simpa using h
    · rw [Bool.not_eq_true', ← Bool.not_eq_true, below_iff hu hv]; exact not_lt
  · refine ⟨fpMac_nan, fun hab hc hinf sa sb => fpMac_inf hc hinf, ?_, fpMac_finite⟩
    rintro ha hb rfl
    exact fpMac_finite_inf ha hb
  · refine ⟨?_, ?_, fpToAcc_finite⟩
    · rintro k rfl; exact fpToAcc_nan k
    · rintro rfl; exact fpToAcc_inf na
  · exact fun g hg => ⟨pack_nan g unsigned, pattern_inf g na, pattern_of_precise hg⟩
  · exact fun hm => ⟨fpAdd_isSome hm a b, fpAdd_isSome hm a b.negate, fpMul_isSome hm a b, fpDiv_isSome hm a b,
      fpSqrt_isSome hm a, fpConvert_isSome hm a, fpConvert_isSome hm _, fpToInteger_isSome hm unsigned a⟩

end Sys2Proof.Machine

namespace Sys2Proof.Machine

/-! ### EMULATE (48_miscellaneous.md R601) -/

/-- The state that EMULATE traps in: IPA and IPB set, IPC a free value (log entry 37). -/
def State.emulatePointers (s : State) (ra rb : Byte) : State :=
  { s with
    sr := { s.sr with
      ipa := pointerWord (s.absReg .a ra), ipb := pointerWord (s.absReg .b rb), ipc := Config.freeWord s.fresh &&& 0x3FC }
    fresh := s.fresh + 1 }

theorem opcode_emulate (vn ra rb : Byte) : (Instr.emulate vn ra rb).opcode = 0xD7 := opcode_wordOf rfl

theorem exec_emulate (vn ra rb : Byte) (s : State) : exec (.emulate vn ra rb) s = finish 0xD7
    (s.guarded (s.user && decide (vn.toNat < 64)) [⟨.a, ra, .number⟩, ⟨.b, rb, .number⟩]
      (.error (.trap vn .next (s.emulatePointers ra rb)))) := by
  rw [← opcode_emulate vn ra rb]; rfl

/-- The state that the trap of EMULATE is entered from: the Exception Opcode is set too. -/
def State.emulateTrapping (s : State) (ra rb : Byte) : State :=
  { s.emulatePointers ra rb with sr := { (s.emulatePointers ra rb).sr with exop := (0xD7#8).setWidth 32 } }

/-- The pointers and the Exception Opcode are nothing that an ordinary trap saves, looks at or leaves alone. -/
theorem State.emulateTrapping_trapsAs (s : State) (ra rb : Byte) : s.TrapsAs (s.emulateTrapping ra rb) where
  pc := rfl
  npc := rfl
  cps := rfl
  cur := rfl
  fzWindow := rfl
  alu := rfl
  idmem := rfl
  cfg := rfl
  vab := rfl
  pcs := ⟨rfl, rfl, rfl⟩
  general := State.sameGeneral_of rfl rfl rfl rfl rfl rfl rfl rfl rfl rfl

/-- What an ordinary trap of kind Next leaves of the special registers: all but the counters and OPS. -/
theorem State.ordinaryTrap_next_special (s : State) (vn : Byte) : ∃ x y z ops, (s.ordinaryTrap vn .next).sr =
    { s.sr with
      pc0 := x, pc1 := y, pc2 := z, spc0 := s.npc + 4, spc1 := s.npc, spc2 := s.pc, ops := ops } := by
  obtain ⟨x, y, z, hrec⟩ := s.recordPcs_sr (s.npc + 4) s.npc s.pc
  exact ⟨x, y, z, _, by rw [State.ordinaryTrap_next_sr, hrec]⟩

/-- A Protection Violation of an instruction's own rule comes before its register fields. -/
theorem State.guarded_protected {s : State} {prot : Bool} (h : prot = true) (us : List RegUse) (body : Except Stop Done) :
    s.guarded prot us body = .error (.trap 5 .curr s) := by
  simp [State.guarded, State.regStop, h]

/-- Settles O16: the Protection Violation by its guard, the trap VN in the state with the pointers set. -/
theorem emulateTraps : Obligations.EmulateTraps := by
  intro vn ra rb s
  refine ⟨fun hu hv => ?denied, fun hallowed ready hr => ?traps⟩
  case denied =>
    rw [exec_emulate, State.guarded_protected (by simp [hu, hv]), finish_trap]
  case traps =>
    have hprot : (s.user && decide (vn.toNat < 64)) = false := by
      rcases hallowed with hu | hv
      · simp [hu]
      · simp [Nat.not_lt.2 hv]
    have hready : (s.emulatePointers ra rb).TrapReady := ready
    have htrap : exec (.emulate vn ra rb) s = .next ((s.emulateTrapping ra rb).ordinaryTrap vn .next) := by
      rw [exec_emulate, hprot, State.guarded_none _ hr, finish_trap]
      exact State.takeInstTrap_ready hready 0xD7 vn .next
    obtain ⟨x, y, z, ops, hsr⟩ := (s.emulateTrapping ra rb).ordinaryTrap_next_special vn
    exact ⟨_, htrap, (s.emulateTrapping_trapsAs ra rb).taken ready.1 rfl vn, congrArg SpecialRegs.ipa hsr,
      congrArg SpecialRegs.ipb hsr⟩

/-! ### CLZ (48_miscellaneous.md R600) -/

/-- The leading zeros of the low `n` bits, by the position of their most significant 1. -/
theorem leadingZeros_eq (w : Word) (n : Nat) : leadingZeros w n =
    if w.toNat % 2 ^ n = 0 then n else n - 1 - Nat.log2 (w.toNat % 2 ^ n) := by
  induction n with
  | zero => simp [leadingZeros, Nat.mod_one]
  | succ n ih =>
    have hbit : w.getLsbD n = decide (w.toNat / 2 ^ n % 2 = 1) := Nat.testBit_eq_decide_div_mod_eq
    have hlow : w.toNat % 2 ^ n < 2 ^ n := Nat.mod_lt _ (Nat.two_pow_pos n)
    rw [leadingZeros, ih, hbit, Nat.mod_pow_succ]
    rcases Nat.mod_two_eq_zero_or_one (w.toNat / 2 ^ n) with h | h
    · rw [h, Nat.mul_zero, Nat.add_zero, if_neg (by decide)]
      by_cases h0 : w.toNat % 2 ^ n = 0
      · rw [if_pos h0, if_pos h0, Nat.add_comm]
      · have hlog : Nat.log2 (w.toNat % 2 ^ n) < n := (Nat.log2_lt h0).2 hlow
        rw [if_neg h0, if_neg h0]
        omega
    · have hlog : Nat.log2 (w.toNat % 2 ^ n + 2 ^ n) = n :=
        (Nat.log2_eq_iff (by omega)).2 ⟨by omega, by rw [Nat.pow_succ]; omega⟩
      simp [h, hlog]

/-- The leading zeros of a word: 32 of zero. -/
theorem leadingZeros_word (w : Word) : leadingZeros w 32 = if w = 0#32 then 32 else 31 - Nat.log2 w.toNat := by
  have hzero : w = 0#32 ↔ w.toNat = 0 := by rw [← BitVec.toNat_inj]; rfl
  rw [leadingZeros_eq, Nat.mod_eq_of_lt w.isLt]
  simp only [hzero]

/-! ### INV and HALT (48_miscellaneous.md R603, R607) -/

/-- An instruction without register fields, in a mode that may execute it, which changes nothing that a program sees. -/
theorem completes_plainly {i : Instr} {prot : Bool} {s u : State} {P : State → Prop} (hprot : prot = false)
    (he : exec i s = finish i.opcode (s.guarded prot [] (.ok (.seq u)))) (hn : u.npc = s.npc) (hc : u.cps = s.cps)
    (hd : s.SameData (Done.seq u).advance) (hP : P (Done.seq u).advance) :
    Completes i s fun t => s.SameData t ∧ P t := by
  rw [hprot] at he
  exact completes_of he rfl hn hc ⟨hd, hP⟩

/-- Settles O17, instruction by instruction. -/
theorem miscellaneousComplete : Obligations.MiscellaneousComplete := by
  intro rc ra rb b s
  refine ⟨?clz, fun hr => ?setip, fun hu => ?inv, fun hallowed => ?halt⟩
  case clz =>
    rw [← leadingZeros_word]
    exact plainCompletes_of rfl (List.mem_append_right _ (List.mem_singleton.2 rfl))
  case setip =>
    exact completes_of rfl hr rfl rfl
      ⟨rfl, rfl, rfl, rfl, State.sameGeneral_of rfl rfl rfl rfl rfl rfl rfl rfl rfl rfl, rfl⟩
  case inv =>
    exact completes_plainly hu rfl rfl rfl (State.sameData_of (fun _ => rfl) rfl rfl rfl rfl rfl rfl rfl rfl) rfl
  case halt =>
    have hprot : (s.user && !s.debugger) = false := by
      rcases hallowed with hu | hdebug
      · simp [hu]
      · simp [hdebug]
    exact completes_plainly hprot rfl rfl rfl (State.sameData_of (fun _ => rfl) rfl rfl rfl rfl rfl rfl rfl rfl) rfl

end Sys2Proof.Machine

namespace Sys2Proof.Machine

/-! ### The timer (60_exceptions.md R720) -/

/-- The state with other timer registers. -/
def State.withTimer (s : State) (count reload : Word) : State := { s with sr := { s.sr with tmc := count, tmr := reload } }

theorem State.timerTick_withTimer (s : State) : ∃ c r, s.timerTick = s.withTimer c r := by
  unfold State.timerTick
  split_ifs
  · exact ⟨_, _, rfl⟩
  · exact ⟨_, _, rfl⟩

/-- The timer changes nothing but its own registers. -/
theorem timerTicks_withTimer (n : Nat) (s : State) : ∃ c r, timerTicks n s = s.withTimer c r := by
  induction n generalizing s with
  | zero => exact ⟨_, _, rfl⟩
  | succ n ih =>
    obtain ⟨c, r, h⟩ := s.timerTick_withTimer
    obtain ⟨c', r', h'⟩ := ih s.timerTick
    exact ⟨c', r', by rw [timerTicks, h', h]; rfl⟩

/-- The last of some cycles, apart. -/
theorem timerTicks_succ (n : Nat) (s : State) : timerTicks (n + 1) s = (timerTicks n s).timerTick := by
  induction n generalizing s with
  | zero => rfl
  | succ n ih => exact ih s.timerTick

/-- A cycle that counts: OV is set when it reaches zero with IN set. -/
theorem State.timerTick_counts {s : State} (h : s.sr.tmc.toNat ≠ 0) :
    s.timerTick.sr.tmc.toNat = s.sr.tmc.toNat - 1 ∧
      s.timerTick.sr.tmr =
        if s.sr.tmc.toNat = 1 ∧ bitOf s.sr.tmr 25 = true then s.sr.tmr ||| 0x04000000 else s.sr.tmr := by
  have h0 : s.sr.tmc ≠ 0 := fun e => h (by rw [e]; rfl)
  have hlt := s.sr.tmc.isLt
  have hcount : (s.sr.tmc - 1).toNat = s.sr.tmc.toNat - 1 := by
    bv_omega
  have hzero : s.sr.tmc - 1 = 0 ↔ s.sr.tmc.toNat = 1 := by
    rw [← BitVec.toNat_inj, hcount]
    change _ = 0 ↔ _
    omega
  rw [State.timerTick, if_neg h0]
  refine ⟨hcount, if_congr ?_ rfl rfl⟩
  rw [Bool.and_eq_true, decide_eq_true_iff, hzero]

/-- While the count does not reach zero, every cycle takes one from it and nothing else happens. -/
theorem timerTicks_running {s : State} {n : Nat} (h : n < s.sr.tmc.toNat) :
    (timerTicks n s).sr.tmc.toNat = s.sr.tmc.toNat - n ∧ (timerTicks n s).sr.tmr = s.sr.tmr := by
  induction n with
  | zero => exact ⟨rfl, rfl⟩
  | succ n ih =>
    obtain ⟨hcount, hreload⟩ := ih (by omega)
    obtain ⟨hc, hr⟩ := State.timerTick_counts (s := timerTicks n s) (by omega)
    rw [timerTicks_succ, hc, hr, hcount, hreload, if_neg (by omega)]
    exact ⟨by omega, rfl⟩

/-- The cycle that reaches zero. -/
theorem timerTicks_expiring {s : State} {n : Nat} (h : n + 1 = s.sr.tmc.toNat) :
    (timerTicks (n + 1) s).sr.tmc.toNat = 0 ∧ (timerTicks (n + 1) s).sr.tmr =
      if bitOf s.sr.tmr 25 = true then s.sr.tmr ||| 0x04000000 else s.sr.tmr := by
  obtain ⟨hcount, hreload⟩ := timerTicks_running (s := s) (n := n) (by omega)
  obtain ⟨hc, hr⟩ := State.timerTick_counts (s := timerTicks n s) (by omega)
  rw [timerTicks_succ, hc, hr, hcount, hreload]
  exact ⟨by omega, if_congr (and_iff_right (by omega)) rfl rfl⟩

/-- Settles O55: the reload at zero; then the cycles before the count reaches zero, and the one that reaches it. -/
theorem timerCounts : Obligations.TimerCounts := by
  refine ⟨fun s h => ?reload, fun s n hn => ?_⟩
  case reload =>
    rw [State.timerTick, if_pos (show s.sr.tmc = 0 from h), fieldOf, BitVec.ushiftRight_zero]
    rfl
  rcases Nat.lt_or_eq_of_le hn with hlt | heq
  · obtain ⟨hcount, hreload⟩ := timerTicks_running hlt
    exact ⟨hcount, fun _ => hreload, fun e => absurd e (Nat.ne_of_lt hlt)⟩
  · cases n with
    | zero => exact ⟨rfl, fun _ => rfl, fun _ h => absurd h (Nat.lt_irrefl 0)⟩
    | succ n =>
      obtain ⟨hcount, hreload⟩ := timerTicks_expiring heq
      refine ⟨by omega, fun h => ?_, fun _ _ hin => by rw [hreload, if_pos hin]⟩
      have hin : bitOf s.sr.tmr 25 = false := by
        rcases h with h | h | h
        · omega
        · omega
        · exact h
      rw [hreload, if_neg (by simp [hin])]

end Sys2Proof.Machine

namespace Sys2Proof.Machine

/-! ### The modes of a handler (60_exceptions.md R681) -/

/-- After an ordinary trap the processor is in Supervisor mode, traps masked and the registers frozen. -/
theorem State.TrapTaken.modes {s t : State} {vn op : Byte} (h : s.TrapTaken t vn op) :
    t.user = false ∧ t.da = true ∧ t.frozen = true := by
  have hbit : ∀ k, bitOf 0xFFFFFEFF#32 k = true → bitOf 0x00000473#32 k = true → bitOf t.cps k = true := by
    intro k hmask hset
    have hk := congrArg (bitOf · k) h.cps
    simpa [bitOf_and, bitOf_or, hmask, hset] using hk
  have hsm := hbit 4 (by decide) (by decide)
  have hda := hbit 0 (by decide) (by decide)
  have hfz := hbit 10 (by decide) (by decide)
  exact ⟨by simp [State.user, State.eSM, hsm], hda, by simp [State.frozen, hfz]⟩

/-- Settles O50: the trap is the ordinary one, with EXOP set before. -/
theorem trapEntry : Obligations.TrapEntry := by
  intro op vn s ready
  obtain ⟨x, y, z, ops, hsr⟩ :=
    State.ordinaryTrap_next_special { s with sr := { s.sr with exop := op.setWidth 32 } } vn
  have htaken := (s.exop_trapsAs (op.setWidth 32)).taken ready.1 rfl vn
  obtain ⟨huser, hda, hfrozen⟩ := htaken.modes
  exact ⟨_, State.takeInstTrap_ready ready op vn .next, htaken, huser, hda, hfrozen, by rw [hsr], by rw [hsr], by rw [hsr],
    by rw [hsr], by rw [hsr], by rw [hsr], by rw [hsr], by rw [hsr]⟩

/-! ### What saving the context of a trap changes (60_exceptions.md R680, R700) -/

/-- The program counters, as a trap saves them; `n` is the number of the next free value. -/
def State.withCounters (s : State) (n : Nat) (p0 p1 p2 s0 s1 s2 : Word) : State :=
  { s with
    sr := { s.sr with pc0 := p0, pc1 := p1, pc2 := p2, spc0 := s0, spc1 := s1, spc2 := s2 }
    fresh := n }

/-- Recording the program counters changes PC0 to PC2 and the number of the next free value. -/
theorem State.recordPcs_eq (s : State) (a b c : Word) : ∃ n p0 p1 p2,
    s.recordPcs a b c = { s with sr := { s.sr with pc0 := p0, pc1 := p1, pc2 := p2 }, fresh := n } := by
  unfold State.recordPcs
  split_ifs
  · exact ⟨_, _, _, _, rfl⟩
  · exact ⟨_, _, _, _, rfl⟩
  · exact ⟨_, _, _, _, rfl⟩

/-- A trap of kind Next saves the counters of the instruction after it, and copies the trace bit. -/
theorem State.saveContext_next_eq (s : State) : ∃ n p0 p1 p2,
    s.saveContext .next = { s.withCounters n p0 p1 p2 (s.npc + 4) s.npc s.pc with cps := s.tracedCps } := by
  obtain ⟨n, p0, p1, p2, h⟩ := s.recordPcs_eq (s.npc + 4) s.npc s.pc
  refine ⟨n, p0, p1, p2, ?_⟩
  rw [State.saveContext, State.pcTriple, h]
  rfl

/-- The address of the last instruction completed, where it is known; of the state only the number of the next free
value may change (decision D29). -/
theorem State.lastAddress_eq (s : State) :
    (s.lastpcKnown = true → s.lastAddress.1 = s.lastpc) ∧ ∃ n, s.lastAddress.2 = { s with fresh := n } := by
  unfold State.lastAddress
  split_ifs with h
  · exact ⟨fun _ => rfl, _, rfl⟩
  · exact ⟨fun hk => absurd hk h, _, rfl⟩

/-- A trap before an instruction saves the counters of that instruction (10_state.md R38 (b), (c)). -/
theorem State.saveContext_before {k : TrapKind} (hk : k ≠ .next) (s : State) :
    s.CountersSaved (s.saveContext k) ∧
      ∃ n p0 p1 p2 x, s.saveContext k = s.withCounters n p0 p1 p2 s.npc s.pc x := by
  obtain ⟨hlast, m, hfresh⟩ := s.lastAddress_eq
  have htriple : s.pcTriple k = (s.npc, s.pc, s.lastAddress.1, { s with fresh := m }) := by
    rw [← hfresh]
    cases k with
    | async => rfl
    | curr => rfl
    | next => exact absurd rfl hk
  have hsave : s.saveContext k =
      { ({ s with fresh := m } : State).recordPcs s.npc s.pc s.lastAddress.1 with
        sr := { (({ s with fresh := m } : State).recordPcs s.npc s.pc s.lastAddress.1).sr with
          spc0 := s.npc, spc1 := s.pc, spc2 := s.lastAddress.1 } } := by
    rw [State.saveContext, htriple, if_neg hk]
  have hrecord := ({ s with fresh := m } : State).recordPcs_special s.npc s.pc s.lastAddress.1
  constructor
  · rw [hsave]
    exact {
      spc := ⟨rfl, rfl⟩
      last := hlast
      pcs := fun hf hw => by
        rw [hrecord, if_neg (by simp [hf]), if_pos hw]
        exact ⟨rfl, rfl, hlast⟩
      frozen := fun hf => by rw [hrecord, if_pos hf]; exact ⟨rfl, rfl, rfl⟩ }
  · obtain ⟨n, p0, p1, p2, h⟩ := ({ s with fresh := m } : State).recordPcs_eq s.npc s.pc s.lastAddress.1
    exact ⟨n, p0, p1, p2, s.lastAddress.1, by rw [hsave, h]; rfl⟩

/-! ### Entering Monitor mode (60_exceptions.md R700, R742) -/

/-- What entering Monitor mode makes of a state whose context is saved. -/
def State.inMonitor (s : State) (vn : Byte) : State :=
  { ({ s with sr := { s.sr with rsn := vn.setWidth 32 }, cps := putBit s.cps 16 true } : State).goto 16 20 true with
    opMode := if s.debugger then .halted else s.opMode }

theorem State.monitorTrap_eq (s : State) (vn : Byte) (k : TrapKind) :
    s.monitorTrap vn k = (s.saveContext k).inMonitor vn := by
  by_cases h : (s.saveContext k).debugger = true
  · exact (if_pos h).trans (by rw [State.inMonitor, if_pos h])
  · exact (if_neg h).trans (by rw [State.inMonitor, if_neg h]; rfl)

/-- A trap with DA = 1 is a Monitor trap. -/
theorem State.takeTrap_monitor {s : State} (h : s.da = true) (vn : Byte) (k : TrapKind) :
    s.takeTrap vn k = .next (s.monitorTrap vn k) := by
  rw [State.takeTrap, if_pos h]

/-- With DA = 0 and a vector that can be fetched, a trap is an ordinary one. -/
theorem State.takeTrap_ordinary {s : State} {vn : Byte} (h : s.da = false) (hv : s.vectorFails vn = false)
    (k : TrapKind) : s.takeTrap vn k = .next (s.ordinaryTrap vn k) := by
  rw [State.takeTrap, if_neg (by simp [h]), if_neg (by simp [hv])]

/-- Settles O52: the Monitor trap from the context of a trap of kind Next. -/
theorem monitorTrapEntry : Obligations.MonitorTrapEntry := by
  intro op vn s hmm hda
  let v : State := { s with sr := { s.sr with exop := op.setWidth 32 } }
  have htrap : s.takeInstTrap op vn .next = .next ((v.saveContext .next).inMonitor vn) := by
    rw [State.takeInstTrap, if_neg (by simp [hmm])]
    exact (State.takeTrap_monitor (s := v) hda vn .next).trans (congrArg _ (v.monitorTrap_eq vn .next))
  have htraced : v.tracedCps = putBit s.cps 12 s.te := by
    simp [State.tracedCps_of (show v.cps = s.cps from rfl), State.withTrace, hmm]
  obtain ⟨n, p0, p1, p2, hsave⟩ := v.saveContext_next_eq
  rw [hsave, htraced] at htrap
  exact ⟨_, htrap, rfl, rfl, rfl, rfl, rfl, rfl, rfl, rfl, rfl, rfl,
    State.sameGeneral_of rfl rfl rfl rfl rfl rfl rfl rfl rfl rfl, rfl⟩

/-! ### WARN (60_exceptions.md R702, R705) -/

/-- What a WARN trap leaves, from Monitor mode, into Monitor mode, or as an ordinary trap. -/
theorem State.takeWarn_leaves (s : State) :
    s.takeWarn.pc = 16 ∧ s.takeWarn.npc = 20 ∧ s.takeWarn.warnPending = false ∧ s.takeWarn.eRE = true ∧
      s.SameGeneral s.takeWarn ∧
      s.takeWarn.opMode = if (s.mm || s.da) && s.debugger then .halted else warnMode s.cur.cntl := by
  let u : State := { s with warnPending := false, opMode := warnMode s.cur.cntl }
  obtain ⟨-, n, p0, p1, p2, x, hsave⟩ := u.saveContext_before (k := .async) (by decide)
  have hwarn : s.takeWarn = if s.mm then u.monitorAgain else if s.da then u.monitorTrap 16 .async else
      { (u.saveContext .async).switchStatus with
        cps := putBit (u.saveContext .async).switchStatus.cps 8 true }.goto 16 20 true := rfl
  rw [hwarn]
  by_cases hmm : s.mm = true
  · rw [if_pos hmm]
    exact ⟨rfl, rfl, rfl, by simp [State.eRE, show u.monitorAgain.mm = true from hmm],
      State.sameGeneral_of rfl rfl rfl rfl rfl rfl rfl rfl rfl rfl, by simp [State.monitorAgain, u, hmm]⟩
  rw [if_neg hmm]
  by_cases hda : s.da = true
  · rw [if_pos hda, State.monitorTrap_eq, hsave]
    refine ⟨rfl, rfl, rfl, ?_, State.sameGeneral_of rfl rfl rfl rfl rfl rfl rfl rfl rfl rfl, ?_⟩
    · simp [State.eRE, State.mm, State.inMonitor, bitOf_putBit]
    · rw [hda, Bool.or_true, Bool.true_and]; rfl
  · rw [if_neg hda, hsave]
    refine ⟨rfl, rfl, rfl, ?_, State.sameGeneral_of rfl rfl rfl rfl rfl rfl rfl rfl rfl rfl, ?_⟩
    · simp [State.eRE, bitOf_putBit]
    · simp [State.withCounters, u, hda, hmm]

/-- A WARN edge goes before everything but a reset and what the platform must not do. -/
theorem step_of_warn {s : State} (hreset : s.sample.cur.reset = false) (hwarn : s.sample.warnPending = true)
    (hbroken : s.cur.cntl ^^^ s.sample.cur.cntl ≠ 3#2) (hcntl : s.sample.cur.cntl ≠ 0#2) :
    step s = .next (timerTicks (s.sample.cur.cycles + 1) s.sample.takeWarn) := by
  simp [step, stepWith, hreset, hwarn, cntlBroken, hbroken, hcntl, tickedOut]

/-- Settles O53: the step is the WARN trap, then the timer. -/
theorem warnIsTaken : Obligations.WarnIsTaken := by
  intro s hreset hwarn c hbroken hcntl
  obtain ⟨count, reload, hticks⟩ := timerTicks_withTimer (s.sample.cur.cycles + 1) s.sample.takeWarn
  obtain ⟨hpc, hnpc, hpending, hre, hgeneral, hmode⟩ := s.sample.takeWarn_leaves
  refine ⟨s.sample.takeWarn.withTimer count reload, ?_, hpc, hnpc, hpending, hre, hgeneral, hmode⟩
  rw [step_of_warn hreset hwarn hbroken hcntl, hticks]

end Sys2Proof.Machine

namespace Sys2Proof.Machine

/-! ### What a step that takes an interrupt or trap leaves, as statements say it (60_exceptions.md R647) -/

/-- With DA = 0, and a vector that can be fetched, the step enters the handler of a vector. -/
def State.EntersTrap (s : State) (vn : Byte) (P : State → Prop) : Prop :=
  s.da = false → s.sample.vectorFails vn = false → ∃ t, step s = .next t ∧ s.Entered t vn ∧ P t

/-- With DA = 1 the step enters Monitor mode. -/
def State.EntersMonitor (s : State) (vn : Byte) (P : State → Prop) : Prop :=
  s.da = true → ∃ t, step s = .next t ∧ t.pc = 16 ∧ t.npc = 20 ∧ t.sr.rsn = vn.setWidth 32 ∧ s.CountersSaved t ∧
    t.cps = putBit s.cps 16 true ∧ t.sr.ops = s.sr.ops ∧ s.RegsExcept t [] ∧ s.SameMemory t ∧
    t.opMode = (if s.debugger then .halted else .executing) ∧ P t

/-- In Monitor mode the step goes to the Monitor handler again, and saves nothing. -/
def State.EntersAgain (s : State) (P : State → Prop) : Prop :=
  ∃ t, step s = .next t ∧ t.pc = 16 ∧ t.npc = 20 ∧ t.cps = s.cps ∧ s.RegsExcept t [] ∧ s.SameMemory t ∧
    { t.sr with tmc := s.sr.tmc, tmr := s.sr.tmr } = s.sr ∧
    t.opMode = (if s.debugger then .halted else .executing) ∧ P t

/-! ### The state that a trap before an instruction is taken in -/

/-- Between the start of a step and a trap taken before its instruction executes, only the inputs, the fetching, LRU, the
Usage bits, the breakpoint units and the event of a DERR answer have changed. -/
structure State.Pauses (s v : State) : Prop where
  pc : v.pc = s.pc
  npc : v.npc = s.npc
  lastpc : v.lastpc = s.lastpc
  lastpcKnown : v.lastpcKnown = s.lastpcKnown
  cps : v.cps = s.cps
  fzWindow : v.fzWindow = s.fzWindow
  cur : v.cur = s.sample.cur
  regs : s.RegsExcept v []
  idmem : v.idmem = s.idmem
  irom : v.irom = s.irom
  imem : v.imem = s.imem
  holes : v.holes = s.holes
  debugger : v.debugger = s.debugger
  mode : v.opMode = s.opMode
  special : ∃ lru b0 b1, v.sr = { s.sr with lru := lru, ibc0 := b0, ibc1 := b1 }

/-- What a trap before an instruction leaves alone, of what a step may have changed before. -/
structure State.Carries (v t : State) : Prop where
  derrEvent : t.derrEvent = v.derrEvent
  lru : t.sr.lru = v.sr.lru
  ibc0 : t.sr.ibc0 = v.sr.ibc0
  ibc1 : t.sr.ibc1 = v.sr.ibc1

/-- What the handler of an ordinary trap finds besides what `State.Entered` says: of CPS no trace bit is set. -/
structure State.AtHandler (v t : State) (m : OpMode) : Prop where
  carries : v.Carries t
  mode : t.opMode = m
  tp : bitOf t.cps 12 = false
  te : bitOf t.cps 13 = false

/-- The state in another mode of operation. -/
def State.inMode (s : State) (m : OpMode) : State := { s with opMode := m }

/-- What an ordinary trap makes of a state whose context is saved. -/
def State.atHandler (s : State) (vn : Byte) : State :=
  { s.switchStatus with cps := putBit (afterTrap s.cps) 8 (s.handler vn).2 }.goto (s.handler vn).1
    ((s.handler vn).1 + 4) true

theorem State.ordinaryTrap_eq (s : State) (vn : Byte) (k : TrapKind) :
    s.ordinaryTrap vn k = (s.saveContext k).atHandler vn := rfl

/-- The trace bits are not among those that a trap keeps or sets (R681). -/
theorem bitOf_afterTrap_trace (c : Word) (re : Bool) :
    bitOf (putBit (afterTrap c) 8 re) 12 = false ∧ bitOf (putBit (afterTrap c) 8 re) 13 = false := by
  have hbit : ∀ j, bitOf Config.trapKeepMask j = false → bitOf Config.trapSetBits j = false →
      bitOf (afterTrap c) j = false := by
    intro j hkeep hset
    simp [afterTrap, bitOf_or, bitOf_and, hkeep, hset]
  rw [bitOf_putBit _ _ _ _ (by decide), bitOf_putBit _ _ _ _ (by decide)]
  exact ⟨hbit 12 (by decide) (by decide), hbit 13 (by decide) (by decide)⟩

/-- The end of a step: the timer changes nothing but its own registers. -/
theorem tickedOut_withTimer (t : State) (c : Nat) : ∃ a b, tickedOut (.next t) c = .next (t.withTimer a b) := by
  obtain ⟨a, b, h⟩ := timerTicks_withTimer (c + 1) t
  exact ⟨a, b, congrArg Host.Outcome.next h⟩

section
variable {s v : State} {vn : Byte} {k : TrapKind} {m : OpMode} {P : State → Prop} {c : Nat}

/-- The counters that a pause has not changed are saved (10_state.md R38). -/
theorem State.Pauses.counters {t : State} (h : s.Pauses v) (hv : v.CountersSaved t) : s.CountersSaved t := by
  obtain ⟨spc, last, pcs, frozen⟩ := hv
  obtain ⟨lru, b0, b1, hsr⟩ := h.special
  rw [h.pc, h.npc] at spc
  rw [h.lastpcKnown, h.lastpc] at last
  rw [h.cps, h.fzWindow, h.pc, h.npc, h.lastpcKnown, h.lastpc] at pcs
  rw [h.cps, hsr] at frozen
  exact ⟨spc, last, pcs, frozen⟩

theorem State.Pauses.da (h : s.Pauses v) : v.da = s.da := by
  rw [State.da, h.cps, State.da]

theorem State.Pauses.mm (h : s.Pauses v) : v.mm = s.mm := by
  rw [State.mm, h.cps, State.mm]

theorem State.Pauses.vectorFails (h : s.Pauses v) : v.vectorFails vn = s.sample.vectorFails vn := by
  obtain ⟨lru, b0, b1, hsr⟩ := h.special
  unfold State.vectorFails State.vf State.missing
  rw [hsr, h.cur, h.holes]
  rfl

theorem State.Pauses.memory {t : State} (h : s.Pauses v) (h1 : t.idmem = v.idmem) (h2 : t.irom = v.irom)
    (h3 : t.imem = v.imem) : s.SameMemory t :=
  .of_eq (h1.trans h.idmem) (h2.trans h.irom) (h3.trans h.imem)

/-- An ordinary trap taken in a pause enters the handler. -/
theorem State.Pauses.entered (h : s.Pauses v) (hk : k ≠ .next) (a b : Word) :
    s.Entered (((v.ordinaryTrap vn k).inMode m).withTimer a b) vn := by
  obtain ⟨hcounters, n, p0, p1, p2, x, hsave⟩ := v.saveContext_before hk
  obtain ⟨lru, b0, b1, hsr⟩ := h.special
  obtain ⟨spc, last, pcs, frozen⟩ := h.counters hcounters
  have hhandler : v.handler vn = s.handler vn := State.handler_congr (by rw [hsr]) (by rw [hsr]) h.idmem vn
  have hpend : v.interruptPending = s.sample.interruptPending :=
    State.interruptPending_congr (b := bitOf s.cps 12) (h.cps.trans (putBit_bitOf _ (by decide)).symm) h.cur
  have hops : v.cpsRead = putBit s.cps 14 s.sample.interruptPending := by rw [State.cpsRead, h.cps, hpend]
  rw [hsave] at spc last pcs frozen
  rw [State.ordinaryTrap_eq, hsave]
  exact {
    pc := congrArg Prod.fst (hhandler.trans (s.handler_eq vn))
    npc := rfl
    counters := ⟨spc, last, pcs, frozen⟩
    ops := congrArg (fieldOf · 0 16) hops
    regs := h.regs
    memory := h.memory rfl rfl rfl }

theorem State.ordinaryTrap_atHandler (hk : k ≠ .next) (v : State) (vn : Byte) (m : OpMode) (a b : Word) :
    v.AtHandler (((v.ordinaryTrap vn k).inMode m).withTimer a b) m := by
  obtain ⟨-, n, p0, p1, p2, x, hsave⟩ := v.saveContext_before hk
  rw [State.ordinaryTrap_eq, hsave]
  obtain ⟨htp, hte⟩ := bitOf_afterTrap_trace v.cps (v.handler vn).2
  exact ⟨⟨rfl, rfl, rfl, rfl⟩, rfl, htp, hte⟩

/-- An ordinary trap goes on in the mode of operation it finds. -/
theorem State.ordinaryTrap_inMode (hk : k ≠ .next) (v : State) (vn : Byte) :
    (v.ordinaryTrap vn k).inMode v.opMode = v.ordinaryTrap vn k := by
  obtain ⟨-, n, p0, p1, p2, x, hsave⟩ := v.saveContext_before hk
  rw [State.ordinaryTrap_eq, hsave]
  rfl

/-- A step that is an ordinary trap taken in a pause, then the timer. -/
theorem State.Pauses.enters (h : s.Pauses v) (hk : k ≠ .next)
    (hs : s.da = false → s.sample.vectorFails vn = false → step s = tickedOut (.next ((v.ordinaryTrap vn k).inMode m)) c)
    (hP : ∀ t, s.Entered t vn → v.AtHandler t m → P t) : s.EntersTrap vn P := by
  intro hda hvector
  obtain ⟨a, b, hticks⟩ := tickedOut_withTimer ((v.ordinaryTrap vn k).inMode m) c
  exact ⟨_, (hs hda hvector).trans hticks, h.entered hk a b,
    hP _ (h.entered hk a b) (v.ordinaryTrap_atHandler hk vn m a b)⟩

/-- A step that takes a trap in a pause, with DA = 0. -/
theorem State.Pauses.takes (h : s.Pauses v) (hk : k ≠ .next)
    (hs : s.da = false → step s = tickedOut (v.takeTrap vn k) c)
    (hP : ∀ t, s.Entered t vn → v.AtHandler t v.opMode → P t) : s.EntersTrap vn P := by
  refine h.enters (m := v.opMode) (k := k) (c := c) hk (fun hda hvector => ?_) hP
  rw [hs hda, State.takeTrap_ordinary (h.da.trans hda) (h.vectorFails.trans hvector), State.ordinaryTrap_inMode hk]

/-- A step that takes a trap in a pause, with DA = 1. -/
theorem State.Pauses.monitors (h : s.Pauses v) (hk : k ≠ .next) (hmode : s.opMode = .executing)
    (hs : s.da = true → step s = tickedOut (.next (v.monitorTrap vn k)) c) (hP : ∀ t, v.Carries t → P t) :
    s.EntersMonitor vn P := by
  intro hda
  obtain ⟨a, b, hticks⟩ := tickedOut_withTimer (v.monitorTrap vn k) c
  obtain ⟨hcounters, n, p0, p1, p2, x, hsave⟩ := v.saveContext_before hk
  obtain ⟨lru, b0, b1, hsr⟩ := h.special
  obtain ⟨spc, last, pcs, frozen⟩ := h.counters hcounters
  rw [hsave] at spc last pcs frozen
  rw [State.monitorTrap_eq, hsave] at hticks hs
  refine ⟨_, (hs hda).trans hticks, rfl, rfl, rfl, ⟨spc, last, pcs, frozen⟩, ?_, ?_, h.regs,
    h.memory rfl rfl rfl, ?_, hP _ ⟨rfl, rfl, rfl, rfl⟩⟩
  · exact congrArg (putBit · 16 true) h.cps
  · change v.sr.ops = s.sr.ops
    rw [hsr]
  · change (if v.debugger then OpMode.halted else v.opMode) = _
    rw [h.debugger, h.mode, hmode]

/-- A step that takes a trap in a pause enters the handler, or Monitor mode. -/
theorem State.Pauses.takes_either (h : s.Pauses v) (hk : k ≠ .next) (hmode : s.opMode = .executing)
    (hs : step s = tickedOut (v.takeTrap vn k) c) (hP : ∀ t, v.Carries t → P t) :
    s.EntersTrap vn P ∧ s.EntersMonitor vn P :=
  ⟨h.takes hk (fun _ => hs) fun t _ ht => hP t ht.carries,
    h.monitors hk hmode (fun hda => by rw [hs, State.takeTrap_monitor (h.da.trans hda)]) hP⟩

/-- A step that goes to the Monitor handler again from a pause that has left the special registers alone. -/
theorem State.Pauses.again (h : s.Pauses v) (hsr : v.sr = s.sr) (hmode : s.opMode = .executing)
    (hs : step s = tickedOut (.next v.monitorAgain) c) (hP : ∀ t, v.Carries t → P t) : s.EntersAgain P := by
  obtain ⟨a, b, hticks⟩ := tickedOut_withTimer v.monitorAgain c
  refine ⟨_, hs.trans hticks, rfl, rfl, h.cps, h.regs, h.memory rfl rfl rfl, ?_, ?_,
    hP _ ⟨rfl, rfl, rfl, rfl⟩⟩
  · change { v.sr with tmc := s.sr.tmc, tmr := s.sr.tmr } = s.sr
    rw [hsr]
  · change (if v.debugger then OpMode.halted else v.opMode) = _
    rw [h.debugger, h.mode, hmode]

end

end Sys2Proof.Machine

namespace Sys2Proof.Machine

/-! ### What a fetch changes, however it ends (20_memory.md R200) -/

/-- What fetching a word may change: the Usage bits, the Branch Target Cache, what stands prefetched or fetched early, the
delay of RE, PI and SM, and the number of the next free value. -/
def State.FetchOnly (s t : State) : Prop := ∃ l b n p e o,
  t = { s with tlbUsage := l, btc := b, fresh := n, prefetched := p, early := e, oldFetch := o }

theorem State.FetchOnly.trans {s t u : State} (h : s.FetchOnly t) (k : t.FetchOnly u) : s.FetchOnly u := by
  obtain ⟨l, b, n, p, e, o, rfl⟩ := h
  obtain ⟨l', b', n', p', e', o', rfl⟩ := k
  exact ⟨l', b', n', p', e', o', rfl⟩

theorem State.CacheOnly.fetchOnly {s t : State} (h : s.CacheOnly t) : s.FetchOnly t := by
  obtain ⟨b, n, rfl, -⟩ := h
  exact ⟨_, b, n, _, _, _, rfl⟩

theorem State.fetchPlace_fetchOnly {s u : State} {sp : FetchSpace} {p : Word} (h : s.fetchPlace = .at sp p u) :
    s.FetchOnly u := by
  obtain ⟨l, rfl⟩ := State.fetchPlace_at h
  exact ⟨l, _, _, _, _, _, rfl⟩

/-- An external access draws free values, and changes nothing else. -/
theorem State.externalFetch_snd (s : State) (sp : FetchSpace) (p : Word) :
    ∃ n, (s.externalFetch sp p).2 = { s with fresh := n } := by
  cases sp with
  | irom => exact ⟨_, rfl⟩
  | io => exact ⟨_, rfl⟩
  | idmem =>
    change ∃ n, (s.memoryFetch p).2 = { s with fresh := n }
    unfold State.memoryFetch
    split
    · exact ⟨_, rfl⟩
    · split_ifs
      · exact ⟨_, rfl⟩
      · exact ⟨_, rfl⟩

theorem State.aged_fetchOnly (s : State) : s.FetchOnly s.agePrefetched.ageOldFetch := ⟨_, _, _, _, _, _, rfl⟩

theorem State.fetchAt_fetchOnly {s u : State} {sp : FetchSpace} {p w : Word} (h : s.fetchAt sp p = .ok w u) :
    s.FetchOnly u := by
  have hstart := s.btcStart_cacheOnly.fetchOnly
  dsimp only [State.fetchAt] at h
  split at h
  · cases h
    exact hstart.trans (State.aged_fetchOnly _)
  · split at h
    · cases h
    cases h
    obtain ⟨n, hn⟩ := s.btcStart.externalFetch_snd sp p
    have hdrawn : s.btcStart.FetchOnly (s.btcStart.externalFetch sp p).2 := by
      rw [hn]; exact ⟨_, _, n, _, _, _, rfl⟩
    exact (hstart.trans hdrawn).trans
      ((State.btcFill_cacheOnly _ sp p _).fetchOnly.trans (State.aged_fetchOnly _))

/-- A fetch that delivers a word. -/
theorem State.fetch_fetchOnly {s u : State} {w : Word} (h : s.fetch = .ok w u) : s.FetchOnly u := by
  unfold State.fetch at h
  split at h
  case h_1 hplace => exact (State.fetchPlace_fetchOnly hplace).trans (State.fetchAt_fetchOnly h)
  all_goals cases h

/-- A translation that finds nothing, or may not be used, changes LRU, the Usage bits and the number of the next free
value. -/
theorem State.translate_lruOnly {s t : State} {a : Word} {user : Bool} {k : AccessKind}
    (h : s.translate a user k = .miss t ∨ s.translate a user k = .violation t) : s.LruOnly t := by
  have m := State.translate_map s.sameMap_refl a user k
  rcases h with h | h
  · rw [h] at m; exact m.1
  · rw [h] at m; exact m.1

/-- An instruction that has no place changes no more. -/
theorem State.fetchPlace_trap {s u : State} {vn : Byte} (h : s.fetchPlace = .trap vn u) : s.LruOnly u := by
  unfold State.fetchPlace State.placeOf at h
  split at h
  case h_1 =>
    split at h
    · cases h
    split at h
    · cases h
    split at h
    case h_2 hmiss => cases h; exact State.translate_lruOnly (.inl hmiss)
    case h_3 hviolation => cases h; exact State.translate_lruOnly (.inr hviolation)
    all_goals cases h
  case h_3 => cases h; rfl
  all_goals cases h

/-! ### The pauses of a step -/

theorem State.sample_pauses (s : State) : s.Pauses s.sample where
  pc := rfl
  npc := rfl
  lastpc := rfl
  lastpcKnown := rfl
  cps := rfl
  fzWindow := rfl
  cur := rfl
  regs := fun _ _ => rfl
  idmem := rfl
  irom := rfl
  imem := rfl
  holes := rfl
  debugger := rfl
  mode := rfl
  special := ⟨_, _, _, rfl⟩

section
variable {s u v : State}

/-- Nothing that a pause says depends on what fetching changes, on the event of a DERR answer, on LRU or on the control
registers of the breakpoint units. -/
theorem State.Pauses.congr (h : s.Pauses v) (l : Vector Bool 32) (b : Btc) (n : Nat) (p : List Prefetched)
    (e : List EarlyFetch) (o : List OldFetch) (d : Option Byte) (lru b0 b1 : Word) :
    s.Pauses { v with
      tlbUsage := l, btc := b, fresh := n, prefetched := p, early := e, oldFetch := o, derrEvent := d
      sr := { v.sr with lru := lru, ibc0 := b0, ibc1 := b1 } } where
  pc := h.pc
  npc := h.npc
  lastpc := h.lastpc
  lastpcKnown := h.lastpcKnown
  cps := h.cps
  fzWindow := h.fzWindow
  cur := h.cur
  regs := h.regs
  idmem := h.idmem
  irom := h.irom
  imem := h.imem
  holes := h.holes
  debugger := h.debugger
  mode := h.mode
  special := by
    obtain ⟨_, _, _, hsr⟩ := h.special
    rw [hsr]
    exact ⟨_, _, _, rfl⟩

theorem State.Pauses.fetchOnly (h : s.Pauses v) (hf : v.FetchOnly u) : s.Pauses u := by
  obtain ⟨l, b, n, p, e, o, rfl⟩ := hf
  exact h.congr l b n p e o v.derrEvent v.sr.lru v.sr.ibc0 v.sr.ibc1

theorem State.Pauses.lruOnly (h : s.Pauses v) (hl : v.LruOnly u) : s.Pauses u := by
  rw [State.LruOnly] at hl
  rw [hl]
  exact h.congr u.tlbUsage v.btc u.fresh v.prefetched v.early v.oldFetch v.derrEvent u.sr.lru v.sr.ibc0 v.sr.ibc1

theorem State.Pauses.withoutEvent (h : s.Pauses v) : s.Pauses { v with derrEvent := none } :=
  h.congr v.tlbUsage v.btc v.fresh v.prefetched v.early v.oldFetch none v.sr.lru v.sr.ibc0 v.sr.ibc1

theorem State.Pauses.withUnits (h : s.Pauses v) (b0 b1 : Word) :
    s.Pauses { v with sr := { v.sr with ibc0 := b0, ibc1 := b1 } } :=
  h.congr v.tlbUsage v.btc v.fresh v.prefetched v.early v.oldFetch v.derrEvent v.sr.lru b0 b1

end

/-! ### What is due (60_exceptions.md R647, R710, R720) -/

section
variable {s : State}

/-- No data access exception is due: no event, and CHC.TF only with DA = 1. -/
theorem State.accessException_none (h : s.derrEvent = none ∧ (bitOf s.sr.chc 10 = true → s.da = true)) :
    s.accessException = none := by
  obtain ⟨hevent, htf⟩ := h
  rw [State.accessException, hevent]
  cases htrap : bitOf s.sr.chc 10 with
  | false => simp [State.tf, htrap]
  | true => simp [State.tf, htf htrap]

/-- CHC.TF with DA = 0 is a data access exception, or a coprocessor exception. -/
theorem State.accessException_tf (hevent : s.derrEvent = none) (htf : bitOf s.sr.chc 10 = true) (hda : s.da = false) :
    s.accessException = some (if bitOf s.sr.chc 31 then 4 else 7) := by
  rw [State.accessException, hevent]
  simp [State.tf, htf, hda]

theorem State.asyncDue_of_access {vn : Byte} (h : s.accessException = some vn) : s.asyncDue = some vn := by
  rw [State.asyncDue, h]

theorem State.asyncDue_of_none (h : s.accessException = none) : s.asyncDue = s.otherDue := by
  rw [State.asyncDue, h]

/-- The lowest-numbered active and enabled interrupt input. -/
theorem State.activeInterrupt_some {n : Nat} (hn : n < 4) (hda : s.da = false) (hdi : s.di = false) (him : n ≤ s.im)
    (hactive : s.cur.intr.getLsbD n = true) (hbelow : ∀ k < n, s.cur.intr.getLsbD k = false) :
    s.activeInterrupt = some n := by
  refine List.find?_range_eq_some.2 ⟨?_, List.mem_range.2 hn, fun k hk => ?_⟩
  · simp [hactive, State.intrEnabled, hda, hdi, him]
  · simp [hbelow k hk]

/-- Inputs that are inactive or not enabled interrupt nothing. -/
theorem State.activeInterrupt_none
    (h : ∀ k < 4, s.cur.intr.getLsbD k = true → s.da = true ∨ s.di = true ∨ s.im < k) : s.activeInterrupt = none := by
  refine List.find?_range_eq_none.2 fun k hk => ?_
  cases hactive : s.cur.intr.getLsbD k with
  | false => rfl
  | true =>
    rcases h k hk hactive with hda | hdi | him
    · simp [State.intrEnabled, hda]
    · simp [State.intrEnabled, hdi]
    · simp [State.intrEnabled, Nat.not_le.2 him]

/-- TRAP0 and TRAP1 are not asserted, or masked. -/
theorem State.trapInput_masked (h : s.cur.trap = 0 ∨ s.da = true) (j : Nat) : (s.cur.trap.getLsbD j && !s.da) = false := by
  rcases h with h | h
  · simp [h]
  · simp [h]

theorem State.otherDue_trap0 (hda : s.da = false) (h : s.cur.trap.getLsbD 0 = true) : s.otherDue = some 20 := by
  rw [State.otherDue, if_pos (by simp [h, hda])]

theorem State.otherDue_trap1 (hda : s.da = false) (h0 : s.cur.trap.getLsbD 0 = false)
    (h1 : s.cur.trap.getLsbD 1 = true) : s.otherDue = some 21 := by
  rw [State.otherDue, if_neg (by rw [h0]; exact Bool.false_ne_true), if_pos (by simp [h1, hda])]

section
variable (h : s.cur.trap = 0 ∨ s.da = true)
include h

theorem State.otherDue_interrupt {n : Nat} (hi : s.activeInterrupt = some n) :
    s.otherDue = some (BitVec.ofNat 8 (16 + n)) := by
  simp only [State.otherDue, State.trapInput_masked h, hi, Bool.false_eq_true, if_false]

theorem State.otherDue_timer (hi : s.activeInterrupt = none) (ht : s.timerDue = true) : s.otherDue = some 14 := by
  simp only [State.otherDue, State.trapInput_masked h, hi, ht, Bool.false_eq_true, if_false, if_true]

theorem State.otherDue_trace (hi : s.activeInterrupt = none) (ht : s.timerDue = false) (htp : s.tp = true) :
    s.otherDue = some 15 := by
  simp only [State.otherDue, State.trapInput_masked h, hi, ht, htp, Bool.false_eq_true, if_false, if_true]

end

end

/-! ### The decisions of a step (60_exceptions.md R647, R690) -/

/-- While the trap of a DERR answer is outstanding it is taken when the delay is over, when something else is due, or
when the next instruction waits for the access. -/
theorem State.overlap_taken {s : State} (vn : Byte) (run : State → Out)
    (h : s.derrLeft = 0 ∨ s.mm = false ∧ (s.wm = true ∨ s.otherDue ≠ none) ∨
      ∀ i, s.upcoming = some i → s.heldByAccess i = true) : s.overlap vn run = s.takeDerr vn := by
  rcases h with h | ⟨hmm, h⟩ | h
  · rw [State.overlap, if_pos (by simp [h])]
  · rw [State.overlap, if_pos]
    rcases h with hwm | hdue
    · simp [hmm, hwm]
    · simp [hmm, Option.isSome_iff_ne_none.2 hdue]
  · rcases s.overlap_cases vn run with hover | ⟨i, hi, hfree, -⟩
    · exact hover
    · rw [h i hi] at hfree
      cases hfree

section
variable {s : State} {vn : Byte} {P : State → Prop}

theorem State.Runs.step_derr (h : s.Runs) (hevent : s.derrEvent = some vn)
    (hover : s.derrLeft = 0 ∨ s.mm = false ∧ (s.wm = true ∨ s.sample.otherDue ≠ none) ∨
      ∀ i, s.sample.upcoming = some i → s.sample.heldByAccess i = true) :
    step s = tickedOut (s.sample.takeDerr vn) s.sample.cur.cycles := by
  rw [h.step_eq, State.decision, show s.sample.derrEvent = some vn from hevent]
  exact congrArg (tickedOut · _) (State.overlap_taken vn _ hover)

theorem State.Runs.step_async (h : s.Runs) (hmm : s.mm = false) (hevent : s.derrEvent = none)
    (hdue : s.sample.asyncDue = some vn) :
    step s = tickedOut (s.sample.takeTrap vn .async) s.sample.cur.cycles := by
  have hmm' : s.sample.mm = false := hmm
  rw [h.step_eq, State.decision, show s.sample.derrEvent = none from hevent]
  simp [hmm', hdue]

/-- An asynchronous interrupt or trap that is due with DA = 0 is taken. -/
theorem State.Runs.enters (h : s.Runs) (hmm : s.mm = false) (hevent : s.derrEvent = none)
    (hdue : s.da = false → s.sample.asyncDue = some vn)
    (hP : ∀ t, s.Entered t vn → s.sample.AtHandler t s.opMode → P t) : s.EntersTrap vn P :=
  s.sample_pauses.takes (by decide) (fun hda => h.step_async hmm hevent (hdue hda)) hP

/-- One of priority 5 to 12, where no data access exception is due. -/
theorem State.Runs.enters_other (h : s.Runs) (hmm : s.mm = false)
    (hquiet : s.derrEvent = none ∧ (bitOf s.sr.chc 10 = true → s.da = true))
    (hdue : s.da = false → s.sample.otherDue = some vn)
    (hP : ∀ t, s.Entered t vn → s.sample.AtHandler t s.opMode → P t) : s.EntersTrap vn P :=
  h.enters hmm hquiet.1
    (fun hda => (State.asyncDue_of_none (s := s.sample) (State.accessException_none hquiet)).trans (hdue hda)) hP

/-- With nothing due the fetch is next, in Monitor mode too. -/
theorem State.Runs.step_fetch (h : s.Runs) (hevent : s.derrEvent = none)
    (hm : s.mm = true ∨ s.sample.asyncDue = none ∧ s.wm = false) :
    step s = tickedOut (s.sample.fetchExecute exec) s.sample.cur.cycles := by
  rw [h.step_eq, State.decision_run (s := s.sample) hevent _ hm]

theorem State.Executes.step_fetch (h : s.Executes) :
    step s = tickedOut (s.sample.fetchExecute exec) s.sample.cur.cycles :=
  h.runs.step_fetch (State.derrEvent_of_asyncDue (s := s.sample) h.due) (.inr ⟨h.due, h.wm⟩)

end

end Sys2Proof.Machine

namespace Sys2Proof.Machine

/-! ### Data accesses answered with DERR, and CHC.TF (60_exceptions.md R660, R690) -/

section
variable {s : State} {vn : Byte}

theorem State.Runs.derr_enters (h : s.Runs) (hmm : s.mm = false) (hevent : s.derrEvent = some vn)
    (hover : s.derrLeft = 0 ∨ s.wm = true ∨ s.sample.otherDue ≠ none ∨
      ∀ i, s.sample.upcoming = some i → s.sample.heldByAccess i = true) :
    s.EntersTrap vn (·.derrEvent = none) ∧ s.EntersMonitor vn (·.derrEvent = none) := by
  have htaken : step s = tickedOut (s.sample.takeDerr vn) s.sample.cur.cycles := by
    refine h.step_derr hevent ?_
    rcases hover with hleft | hwm | hdue | hheld
    · exact .inl hleft
    · exact .inr (.inl ⟨hmm, .inl hwm⟩)
    · exact .inr (.inl ⟨hmm, .inr hdue⟩)
    · exact .inr (.inr hheld)
  have hmm' : ¬ s.sample.mm = true := by rw [show s.sample.mm = false from hmm]; exact Bool.false_ne_true
  rw [State.takeDerr, if_neg hmm'] at htaken
  exact s.sample_pauses.withoutEvent.takes_either (by decide) h.mode htaken fun t ht => ht.derrEvent

theorem State.Runs.derr_enters_again (h : s.Runs) (hmm : s.mm = true) (hevent : s.derrEvent = some vn)
    (hover : s.derrLeft = 0 ∨ ∀ i, s.sample.upcoming = some i → s.sample.heldByAccess i = true) :
    s.EntersAgain (·.derrEvent = none) := by
  have htaken := h.step_derr hevent (hover.imp_right .inr)
  rw [State.takeDerr, if_pos (show s.sample.mm = true from hmm)] at htaken
  exact s.sample_pauses.withoutEvent.again rfl h.mode htaken fun t ht => ht.derrEvent

theorem State.Runs.tf_enters (h : s.Runs) (hmm : s.mm = false) (hevent : s.derrEvent = none)
    (htf : bitOf s.sr.chc 10 = true) : s.EntersTrap (if bitOf s.sr.chc 31 then 4 else 7) fun _ => True :=
  h.enters hmm hevent
    (fun hda => State.asyncDue_of_access (s := s.sample) (State.accessException_tf hevent htf hda)) fun _ _ _ => trivial

end

/-! ### The Trace trap, and Wait mode (60_exceptions.md R730, R740) -/

section
variable {s : State}

/-- No interrupt input is active and enabled, by DI and IM or by DA. -/
theorem State.activeInterrupt_masked
    (h : s.da = true ∨ ∀ k < 4, s.cur.intr.getLsbD k = true → s.di = true ∨ s.im < k) : s.activeInterrupt = none :=
  State.activeInterrupt_none fun k hk hactive => h.imp id fun hmasked => hmasked k hk hactive

/-- A Trace trap is due when TP is 1 and nothing of higher priority is due. -/
theorem State.asyncDue_trace (hquiet : s.derrEvent = none ∧ (bitOf s.sr.chc 10 = true → s.da = true))
    (htp : bitOf s.cps 12 = true)
    (hno : s.da = false → s.cur.trap = 0 ∧ (bitOf s.sr.tmr 25 && bitOf s.sr.tmr 24) = false ∧
      ∀ k < 4, s.cur.intr.getLsbD k = true → s.di = true ∨ s.im < k) : s.asyncDue = some 15 := by
  rw [State.asyncDue_of_none (State.accessException_none hquiet)]
  cases hda : s.da with
  | true =>
    exact State.otherDue_trace (.inr hda) (State.activeInterrupt_masked (.inl hda)) (by simp [State.timerDue, hda]) htp
  | false =>
    obtain ⟨htrap, htimer, hmasked⟩ := hno hda
    exact State.otherDue_trace (.inl htrap) (State.activeInterrupt_masked (.inr hmasked))
      (by rw [State.timerDue, htimer, Bool.false_and]) htp

/-- OPS keeps the trace bit of CPS. -/
theorem State.Entered.ops_tp {t : State} {vn : Byte} (h : s.Entered t vn) : bitOf t.sr.ops 12 = bitOf s.cps 12 := by
  rw [h.ops, bitOf_fieldOf _ _ (by decide), bitOf_putBit _ _ _ _ (by decide)]
  simp

theorem State.Runs.trace_enters (h : s.Runs) (hmm : s.mm = false)
    (hquiet : s.derrEvent = none ∧ (bitOf s.sr.chc 10 = true → s.da = true)) (htp : bitOf s.cps 12 = true)
    (hno : s.da = false → s.sample.cur.trap = 0 ∧ (bitOf s.sr.tmr 25 && bitOf s.sr.tmr 24) = false ∧
      ∀ k < 4, s.sample.cur.intr.getLsbD k = true → s.di = true ∨ s.im < k) :
    s.EntersTrap 15 (fun t => bitOf t.sr.ops 12 = true ∧ bitOf t.cps 12 = false ∧ bitOf t.cps 13 = false) ∧
      s.EntersMonitor 15 fun _ => True := by
  have hdue : s.sample.asyncDue = some 15 := State.asyncDue_trace (s := s.sample) hquiet htp hno
  have htaken := h.step_async hmm hquiet.1 hdue
  exact ⟨s.sample_pauses.takes (by decide) (fun _ => htaken) fun t he ht => ⟨he.ops_tp.trans htp, ht.tp, ht.te⟩,
    (s.sample_pauses.takes_either (by decide) h.mode htaken fun _ _ => trivial).2⟩

theorem State.Runs.waits (h : s.Runs) (hmm : s.mm = false) (hdue : s.sample.asyncDue = none) (hwm : s.wm = true) :
    step s = .next (timerTicks (s.sample.cur.cycles + 1) s.sample) := by
  have hmm' : s.sample.mm = false := hmm
  have hwm' : s.sample.wm = true := hwm
  rw [h.step_eq, State.decision, State.derrEvent_of_asyncDue hdue]
  simp [hmm', hdue, hwm', tickedOut]

end

/-! ### The place of an instruction, and the traps of its fetch (20_memory.md R153, R200) -/

section
variable {s u v : State} {vn : Byte} {sp : FetchSpace} {p : Word} {P : State → Prop}

theorem State.fetchExecute_of_trap {run : Instr → State → Out} (hf : s.fetch = .trap vn v) :
    s.fetchExecute run = v.takeFetchTrap vn := by
  rw [State.fetchExecute, hf]

/-- A fetch that traps, outside Monitor mode. -/
theorem State.Executes.fetch_enters (h : s.Executes) (hf : s.sample.fetch = .trap vn v) (hv : s.Pauses v)
    (hP : ∀ t, v.Carries t → P t) : s.EntersTrap vn P ∧ s.EntersMonitor vn P := by
  have hmm : ¬ v.mm = true := by rw [hv.mm, h.mm]; exact Bool.false_ne_true
  have htaken := h.step_fetch
  rw [State.fetchExecute_of_trap hf, State.takeFetchTrap, if_neg hmm] at htaken
  exact hv.takes_either (by decide) h.runs.mode htaken hP

/-- A fetch that traps, in Monitor mode. -/
theorem State.Runs.fetch_enters_again (h : s.Runs) (hmm : s.mm = true) (hevent : s.derrEvent = none)
    (hf : s.sample.fetch = .trap vn v) (hv : s.Pauses v) (hsr : v.sr = s.sr) (hP : ∀ t, v.Carries t → P t) :
    s.EntersAgain P := by
  have htaken := h.step_fetch hevent (.inl hmm)
  rw [State.fetchExecute_of_trap hf, State.takeFetchTrap, if_pos (hv.mm.trans hmm)] at htaken
  exact hv.again hsr h.mode htaken hP

/-- The traps of a place: a miss, or a violation of the protection. -/
theorem State.Executes.place_enters (h : s.Executes) (hplace : s.sample.fetchPlace = .trap vn u) :
    s.EntersTrap vn (fun t => t.sr.lru = u.sr.lru) ∧ s.EntersMonitor vn (fun t => t.sr.lru = u.sr.lru) :=
  h.fetch_enters (by rw [State.fetch, hplace]) (s.sample_pauses.lruOnly (State.fetchPlace_trap hplace))
    fun t ht => ht.lru

/-- An access that IERR answers, as the platform does at an address that does not exist (R661; log entry 47). -/
theorem State.fetch_fails (hplace : s.fetchPlace = .at sp p u) (hc : u.btcStart.btcWord = none)
    (hfail : s.cur.ierr = true ∨ s.Absent sp.map p) : s.fetch = .trap 6 u.btcStart := by
  obtain ⟨l, rfl⟩ := State.fetchPlace_at hplace
  rw [← State.missing_iff] at hfail
  rw [State.fetch, hplace]
  dsimp only [State.fetchAt]
  rw [hc]
  exact if_pos (Bool.or_eq_true_iff.2 hfail)

theorem State.FetchOnly.sr (h : s.FetchOnly u) : u.sr = s.sr := by
  obtain ⟨l, b, n, p, e, o, rfl⟩ := h
  rfl

end

/-! ### Instruction breakpoints (60_exceptions.md R731, R742) -/

/-- What the comparison makes of a unit's BHO, and when it breaks. -/
theorem State.breakUnit_iff (s : State) (iba ibc : Word) :
    (bitOf (breakUnit (s.encounter iba ibc) ibc).1 12 = true ↔
      s.Breaks iba ibc ∨ ¬ s.Meets iba ibc ∧ bitOf ibc 12 = true) ∧
    ((breakUnit (s.encounter iba ibc) ibc).2 = true ↔ s.Breaks iba ibc) := by
  rw [State.Breaks, ← State.encounter_iff]
  cases s.encounter iba ibc with
  | false => simp [breakUnit]
  | true =>
    cases hbho : bitOf ibc 12 with
    | true => simp [breakUnit, hbho, bitOf_putBit]
    | false => cases hbsy : bitOf ibc 10 <;> simp [breakUnit, hbho, hbsy, bitOf_putBit]

/-- The state after the comparison with both units. -/
def State.compared (s : State) : State :=
  { s with
    sr := { s.sr with
      ibc0 := (breakUnit (s.encounter s.sr.iba0 s.sr.ibc0) s.sr.ibc0).1
      ibc1 := (breakUnit (s.encounter s.sr.iba1 s.sr.ibc1) s.sr.ibc1).1 } }

/-- Outside Monitor mode an instruction that meets a unit set to break is stopped. -/
theorem State.breakpoints_of_breaks {s : State} (hmm : s.mm = false)
    (h : s.Breaks s.sr.iba0 s.sr.ibc0 ∨ s.Breaks s.sr.iba1 s.sr.ibc1) : s.breakpoints = (true, s.compared) := by
  have hbreaks : ((breakUnit (s.encounter s.sr.iba0 s.sr.ibc0) s.sr.ibc0).2 ||
      (breakUnit (s.encounter s.sr.iba1 s.sr.ibc1) s.sr.ibc1).2) = true :=
    Bool.or_eq_true_iff.2 (h.imp (s.breakUnit_iff _ _).2.2 (s.breakUnit_iff _ _).2.2)
  rw [State.breakpoints, if_neg (by simp [hmm])]
  exact congrArg (·, s.compared) hbreaks

/-- After the breakpoint trap the processor halts where a debugger is present. -/
theorem State.takeBreakpoint_next {s t : State} (h : s.takeTrap 15 .curr = .next t) :
    s.takeBreakpoint = .next (t.inMode (if t.debugger then .halted else t.opMode)) := by
  rw [State.takeBreakpoint, h]
  change Host.Outcome.next (if t.debugger then t.inMode .halted else t) = _
  cases t.debugger <;> rfl

theorem State.takeBreakpoint_ordinary {s : State} (hda : s.da = false) (hv : s.vectorFails 15 = false) :
    s.takeBreakpoint = .next ((s.ordinaryTrap 15 .curr).inMode (if s.debugger then .halted else s.opMode)) := by
  obtain ⟨-, n, p0, p1, p2, x, hsave⟩ := s.saveContext_before (k := .curr) (by decide)
  rw [State.takeBreakpoint_next (State.takeTrap_ordinary hda hv .curr), State.ordinaryTrap_eq, hsave]
  rfl

/-- The Monitor trap halts there itself. -/
theorem State.takeBreakpoint_monitor {s : State} (hda : s.da = true) :
    s.takeBreakpoint = .next (s.monitorTrap 15 .curr) := by
  have hmode : ∀ u : State, (if (u.inMonitor 15).debugger then .halted else (u.inMonitor 15).opMode) =
      (u.inMonitor 15).opMode := fun u => by
    change (if u.debugger then OpMode.halted else if u.debugger then .halted else u.opMode) =
      if u.debugger then .halted else u.opMode
    cases u.debugger <;> rfl
  rw [State.takeBreakpoint_next (State.takeTrap_monitor hda 15 .curr), State.monitorTrap_eq, hmode]
  rfl

/-- What a unit's BHO is after a breakpoint trap. -/
def State.Broken (s t : State) : Prop :=
  (bitOf t.sr.ibc0 12 = true ↔ s.Breaks s.sr.iba0 s.sr.ibc0 ∨ ¬ s.Meets s.sr.iba0 s.sr.ibc0 ∧
    bitOf s.sr.ibc0 12 = true) ∧
  (bitOf t.sr.ibc1 12 = true ↔ s.Breaks s.sr.iba1 s.sr.ibc1 ∨ ¬ s.Meets s.sr.iba1 s.sr.ibc1 ∧
    bitOf s.sr.ibc1 12 = true)

theorem State.Carries.broken {s t : State} (h : s.compared.Carries t) : s.Broken t := by
  rw [State.Broken, h.ibc0, h.ibc1]
  exact ⟨(s.breakUnit_iff _ _).1, (s.breakUnit_iff _ _).1⟩

/-- Fetching changes nothing that the comparison looks at. -/
theorem State.FetchOnly.compares {s u : State} (h : s.sample.FetchOnly u) : u.Broken = s.Broken ∧
    u.Breaks u.sr.iba0 u.sr.ibc0 = s.Breaks s.sr.iba0 s.sr.ibc0 ∧
    u.Breaks u.sr.iba1 u.sr.ibc1 = s.Breaks s.sr.iba1 s.sr.ibc1 := by
  obtain ⟨l, b, n, p, e, o, rfl⟩ := h
  exact ⟨rfl, rfl, rfl⟩

theorem State.Executes.break_enters {s u : State} {w : Word} (h : s.Executes) (hf : s.sample.fetch = .ok w u)
    (hb : s.Breaks s.sr.iba0 s.sr.ibc0 ∨ s.Breaks s.sr.iba1 s.sr.ibc1) :
    s.EntersTrap 15 (fun t => s.Broken t ∧ t.opMode = if s.debugger then .halted else .executing) ∧
      s.EntersMonitor 15 s.Broken := by
  have hfetch := State.fetch_fetchOnly hf
  obtain ⟨hbroken, hbreaks0, hbreaks1⟩ := hfetch.compares
  have hfetched : s.Pauses u := s.sample_pauses.fetchOnly hfetch
  have hpause : s.Pauses u.compared := hfetched.withUnits _ _
  have hunits : u.breakpoints = (true, u.compared) :=
    State.breakpoints_of_breaks (hfetched.mm.trans h.mm) (by rw [hbreaks0, hbreaks1]; exact hb)
  have htaken : step s = tickedOut u.compared.takeBreakpoint s.sample.cur.cycles := by
    rw [h.step_fetch, State.fetchExecute, hf]
    simp only [hunits, if_true]
  have hmode : (if u.compared.debugger then OpMode.halted else u.compared.opMode) =
      if s.debugger then .halted else .executing := by
    rw [hpause.debugger, hpause.mode, h.runs.mode]
  rw [← hbroken]
  refine ⟨hpause.enters (k := .curr) (c := s.sample.cur.cycles) (by decide) (fun hda hv => ?_)
      fun t _ ht => ⟨ht.carries.broken, ht.mode⟩,
    hpause.monitors (k := .curr) (c := s.sample.cur.cycles) (by decide) h.runs.mode (fun hda => ?_)
      fun t ht => ht.broken⟩
  · rw [htaken, State.takeBreakpoint_ordinary (hpause.da.trans hda) (hpause.vectorFails.trans hv), hmode]
  · rw [htaken, State.takeBreakpoint_monitor (hpause.da.trans hda)]

/-! ### All of it -/

/-- Settles O54: in the order of the priorities, each clause by what is due and the pause that the trap is taken in. -/
theorem stepTakesInterruptsAndTraps : Obligations.StepTakesInterruptsAndTraps := by
  intro s vn u sp p s1 enters monitor again any held quiet masked
  refine ⟨?derr, ?tf, ?derrMonitor, ?trap0, ?trap1, ?interrupt, ?timer, ?trace, ?waits, ?place, ?found, ?earlyTrap, ?earlyFault,
    ?placeTrap, ?ierr, ?breakpoint⟩
  case derr => exact fun v h hmm hevent hover => h.derr_enters hmm hevent hover
  case tf => exact fun h hmm hevent htf => h.tf_enters hmm hevent htf
  case derrMonitor => exact fun v h hmm hevent hover => h.derr_enters_again hmm hevent hover
  case trap0 =>
    intro h hmm hquiet h0
    exact h.enters_other hmm hquiet (fun hda => State.otherDue_trap0 (s := s1) hda h0) fun _ _ _ => trivial
  case trap1 =>
    intro h hmm hquiet h0 h1
    exact h.enters_other hmm hquiet (fun hda => State.otherDue_trap1 (s := s1) hda h0 h1) fun _ _ _ => trivial
  case interrupt =>
    intro n hn h hmm hdi him hquiet htrap hactive hbelow
    exact h.enters_other hmm hquiet (fun hda => State.otherDue_interrupt (s := s1) (.inl htrap)
      (State.activeInterrupt_some hn hda hdi him hactive hbelow)) fun _ _ _ => trivial
  case timer =>
    intro h hmm hquiet htrap hmasked hin hie
    have hdue : s.da = false → s1.timerDue = true := fun hda => by
      rw [State.timerDue, show s1.sr = s.sr from rfl, hin, hie, show s1.da = false from hda]; rfl
    exact h.enters_other hmm hquiet (fun hda => State.otherDue_timer (s := s1) (.inl htrap)
      (State.activeInterrupt_masked (.inr hmasked)) (hdue hda)) fun _ _ _ => trivial
  case trace => exact fun h hmm hquiet htp hno => h.trace_enters hmm hquiet htp hno
  case waits => exact fun h hmm hdue hwm => h.waits hmm hdue hwm
  case place =>
    intro now hearly
    exact (State.fetchPlace_of_nil hearly).trans rfl
  case found => exact fun q a w es hearly => by rw [State.fetchPlace, hearly]
  case earlyTrap => exact fun v l es hearly => by rw [State.fetchPlace, hearly]
  case earlyFault => exact fun f es hearly => by rw [State.fetchPlace, hearly]
  case placeTrap => exact fun h hplace => h.place_enters hplace
  case ierr =>
    intro hplace hc hfail
    have hf := State.fetch_fails hplace hc hfail
    have hfetch := (State.fetchPlace_fetchOnly hplace).trans u.btcStart_cacheOnly.fetchOnly
    have hpause := s.sample_pauses.fetchOnly hfetch
    exact ⟨fun h => h.fetch_enters hf hpause fun _ _ => trivial, fun h hmm hevent =>
      h.fetch_enters_again hmm hevent hf hpause hfetch.sr fun _ _ => trivial⟩
  case breakpoint =>
    intro broken w h hf hb
    exact h.break_enters hf hb

end Sys2Proof.Machine

namespace Sys2Proof.Machine

/-! ### The updates that instructions are made of -/

/-- The special registers that hardware writes for an instruction: the channel registers, LRU, the indirect pointers, Q
and FPS. -/
def SpecialRegs.SameBut (r o : SpecialRegs) : Prop :=
  { r with cha := o.cha, chd := o.chd, chc := o.chc, lru := o.lru, ipc := o.ipc, ipa := o.ipa, ipb := o.ipb, q := o.q,
           fps := o.fps } = o

/-- `t` is reached from `s` by the updates that instructions are made of, the general registers among them only written
as `W` allows. A move to a special register, a move to the TLB and the context of an interrupt return are updates of
their own, with what R40, R454 and R606 ask of the mode. -/
inductive State.Updated (s : State) (W : WriteClass → Byte → Prop) : State → Prop where
  | start : Updated s W s
  | register {t : State} (h : Updated s W t) (c : WriteClass) (n : Byte) (v : Word) (hw : W c n) :
    Updated s W (t.putGR c n v)
  | flags {t : State} (h : Updated s W t) (a : Word) (ha : t.alu &&& 0xFFFFF000 = 0 → a &&& 0xFFFFF000 = 0) :
    Updated s W { t with alu := a }
  | hardware {t : State} (h : Updated s W t) (r : SpecialRegs) (hr : r.SameBut t.sr)
    (h0 : t.sr.ReservedZero → r.ReservedZero) : Updated s W { t with sr := r }
  | coprocessor {t : State} (h : Updated s W t) (b : Bool) : Updated s W { t with cps := putBit t.cps 15 b }
  | memory {t : State} (h : Updated s W t) (m : Memory) (hm : Memory.wf t.idmem = true → Memory.wf m = true) :
    Updated s W { t with idmem := m }
  | unseen {t : State} (h : Updated s W t) (acc : Vector DWord 4) (usage : Vector Bool 32) (btc : Btc)
    (pre : List Prefetched) (early : List EarlyFetch) (hz : Hazards) (event : Option Byte) (left : Nat)
    (load : Option Byte) (mode : OpMode) (n fresh : Nat) :
    Updated s W { t with
      acc := acc, tlbUsage := usage, btc := btc, prefetched := pre, early := early, hzNext := hz
      derrEvent := event, derrLeft := left, derrLoad := load, opMode := mode, accesses := n, fresh := fresh }
  | special {t : State} (h : Updated s W t) (sa : Byte) (v : Word) (hp : s.user = true → protectedSpecial sa = false) :
    Updated s W (t.writeSpecial sa v)
  | tlb {t : State} (h : Updated s W t) (n : Nat) (v : Word) (hp : s.user = false) : Updated s W (t.writeTlb n v)
  | context {t : State} (h : Updated s W t) (inv : Bool) (hp : s.user = false) : Updated s W (t.restoreContext inv)


/-! ### Words without bits of a mask -/

/-- A mask without the field does not see it replaced. -/
theorem putField_and (w v : Word) {lo len : Nat} {m : Word} (h : BitVec.ofNat 32 ((2 ^ len - 1) * 2 ^ lo) &&& m = 0) :
    putField w lo len v &&& m = w &&& m := by
  generalize hk : BitVec.ofNat 32 ((2 ^ len - 1) * 2 ^ lo) = k at h
  have hclear : ~~~k &&& m = m := by
    refine BitVec.eq_of_getLsbD_eq fun i hi => ?_
    have hi' := congrArg (fun x : Word => x.getLsbD i) h
    simp only [BitVec.getLsbD_and, BitVec.getLsbD_not, hi, decide_true, Bool.true_and] at hi' ⊢
    cases hki : k.getLsbD i <;> simp_all
  simp only [putField, hk]
  rw [BitVec.and_or_distrib_right, BitVec.and_assoc, hclear, BitVec.and_assoc, h]
  simp

theorem or_and_eq_zero {x y m : Word} (hx : x &&& m = 0) (hy : y &&& m = 0) : (x ||| y) &&& m = 0 := by
  rw [BitVec.and_or_distrib_right, hx, hy]; rfl

theorem and_and_eq_zero (x : Word) {k m : Word} (h : k &&& m = 0) : x &&& k &&& m = 0 := by
  rw [BitVec.and_assoc, h]; exact BitVec.and_zero

/-- A word without the bits of a mask has the others only. -/
theorem and_eq_self {w k m : Word} (hkm : m ||| k = BitVec.allOnes 32) (h : w &&& m = 0) : w &&& k = w := by
  have hall : w &&& (m ||| k) = w := by rw [hkm, BitVec.and_allOnes]
  rw [BitVec.and_or_distrib_left, h] at hall
  rw [← BitVec.zero_or (x := w &&& k)]; exact hall

theorem putBit_and_eq_zero {w m : Word} (k : Nat) (b : Bool) (hk : k < 32) (hm : bitOf m k = false) (h : w &&& m = 0) :
    putBit w k b &&& m = 0 := (putBit_and w m k b hk hm).trans h

/-- The word of an indirect pointer has bits 9 to 2 only (10_state.md R64). -/
theorem pointerWord_reserved (n : Byte) : pointerWord n &&& 0xFFFFFC03 = 0 := by
  unfold pointerWord; revert n; decide

namespace State.Updated

variable {s t : State} {W : WriteClass → Byte → Prop}

/-! ### Free values, flags and pointers -/

theorem draw (h : s.Updated W t) (n : Nat) : s.Updated W { t with fresh := n } :=
  h.unseen t.acc t.tlbUsage t.btc t.prefetched t.early t.hzNext t.derrEvent t.derrLeft t.derrLoad t.opMode t.accesses n

theorem delays (h : s.Updated W t) (z : Hazards) : s.Updated W { t with hzNext := z } :=
  h.unseen t.acc t.tlbUsage t.btc t.prefetched t.early z t.derrEvent t.derrLeft t.derrLoad t.opMode t.accesses t.fresh

theorem setQ (h : s.Updated W t) (q : Word) : s.Updated W { t with sr := { t.sr with q := q } } :=
  h.hardware _ rfl fun h0 => { h0 with vab := h0.vab }

theorem loseQ (h : s.Updated W t) : s.Updated W t.loseQ := (h.setQ (Config.freeWord t.fresh)).draw _

theorem setVNZC (h : s.Updated W t) (x : Sum) (w : Word) : s.Updated W (t.setVNZC x w) := by
  unfold State.setVNZC
  split
  · exact h
  · exact h.flags _ fun h0 => putBit_and_eq_zero _ _ (by decide) (by decide) <|
      putBit_and_eq_zero _ _ (by decide) (by decide) <| putBit_and_eq_zero _ _ (by decide) (by decide) <|
      putBit_and_eq_zero _ _ (by decide) (by decide) h0

theorem setNZ (h : s.Updated W t) (w : Word) : s.Updated W (t.setNZ w) := by
  unfold State.setNZ
  split
  · exact h
  · exact h.flags _ fun h0 => putBit_and_eq_zero _ _ (by decide) (by decide) <|
      putBit_and_eq_zero _ _ (by decide) (by decide) h0

theorem setDF (h : s.Updated W t) (b : Bool) : s.Updated W (t.setDF b) := by
  unfold State.setDF
  split
  · exact h
  · exact h.flags _ fun h0 => putBit_and_eq_zero _ _ (by decide) (by decide) h0

theorem pointTo (h : s.Updated W t) {c a b : Word} (hc : c &&& 0xFFFFFC03 = 0) (ha : a &&& 0xFFFFFC03 = 0)
    (hb : b &&& 0xFFFFFC03 = 0) : s.Updated W { t with sr := { t.sr with ipc := c, ipa := a, ipb := b } } :=
  h.hardware _ rfl fun h0 => { h0 with ipc := hc, ipa := ha, ipb := hb }

theorem setPointers (h : s.Updated W t) (rc ra rb : Byte) : s.Updated W (t.setPointers rc ra rb) :=
  h.pointTo (pointerWord_reserved _) (pointerWord_reserved _) (pointerWord_reserved _)

/-! ### Floating point -/

theorem setFps (h : s.Updated W t) (w : Word) (h0 : t.sr.fps &&& 0xFFFFC0C0 = 0 → w &&& 0xFFFFC0C0 = 0) :
    s.Updated W { t with sr := { t.sr with fps := w } } :=
  h.hardware _ rfl fun hz => { hz with fps := h0 hz.fps }

/-- The six exceptions stand in bits 5 to 0 (46_floating_point.md R510). -/
theorem status_reserved (x : FpStatus) : x.bits &&& 0xFFFFC0C0 = 0 := by
  obtain ⟨n, r, v, u, i, d⟩ := x
  revert n r v u i d
  decide

theorem setSticky (h : s.Updated W t) (x : FpStatus) : s.Updated W (t.setSticky x) :=
  h.setFps _ fun h0 => or_and_eq_zero h0 (by
    rw [BitVec.and_comm x.bits]; exact and_and_eq_zero _ (status_reserved x))

theorem setAllSticky (h : s.Updated W t) (x : FpStatus) : s.Updated W (t.setAllSticky x) :=
  h.setFps _ fun h0 => or_and_eq_zero h0 (status_reserved x)

theorem setTrapStatus (h : s.Updated W t) (x : FpStatus) : s.Updated W (t.setTrapStatus x) :=
  h.setFps _ fun h0 => (putField_and _ _ (by decide)).trans h0

theorem trapPointers (h : s.Updated W t) (k : CodeFields) (fc fa fb : Byte) : s.Updated W (t.trapPointers k fc fa fb) :=
  (h.pointTo (pointerWord_reserved (t.trapNumber .c k.c fc)) (pointerWord_reserved (t.trapNumber .a false fa))
    (pointerWord_reserved (t.trapNumber .b k.b fb))).draw _

theorem putAcc (h : s.Updated W t) (n : Nat) (v : DWord) : s.Updated W (t.putAcc n v) :=
  h.unseen _ t.tlbUsage t.btc t.prefetched t.early t.hzNext t.derrEvent t.derrLeft t.derrLoad t.opMode t.accesses
    t.fresh

/-! ### The channel registers (20_memory.md R171) -/

theorem setChannel (h : s.Updated W t) (a d c : Word) (h0 : t.sr.chc &&& 0x800 = 0 → c &&& 0x800 = 0) :
    s.Updated W { t with sr := { t.sr with cha := a, chd := d, chc := c } } :=
  h.hardware _ rfl fun hz => { hz with chc := h0 hz.chc }

theorem startChc_reserved (old : Word) (x : Xfer) (ml : Bool) : startChc old x ml &&& 0x800 = 0 := by
  have bit : ∀ (b : Bool) (n : Nat), n ∈ [12, 13, 14, 15] → (boolBit b <<< n) &&& 0x800 = 0 := by decide
  have ctl : ∀ c : Byte, (c.setWidth 32 <<< 24 : Word) &&& 0x800 = 0 := by decide
  have reg : ∀ r : Byte, (r.setWidth 32 <<< 2 : Word) &&& 0x800 = 0 := by decide
  unfold startChc
  exact or_and_eq_zero (or_and_eq_zero (or_and_eq_zero (or_and_eq_zero (or_and_eq_zero (or_and_eq_zero (or_and_eq_zero
    (ctl _) (and_and_eq_zero _ (by decide))) (bit _ _ (by decide))) (bit _ _ (by decide))) (bit _ _ (by decide)))
    (bit _ _ (by decide))) (reg _)) (by decide)

theorem startChannel (h : s.Updated W t) (x : Xfer) (ml : Bool) : s.Updated W (t.startChannel x ml) := by
  have told : ∀ d, s.Updated W { t with sr := { t.sr with cha := x.addr, chd := d, chc := startChc t.sr.chc x ml } } :=
    fun d => h.setChannel _ d _ fun _ => startChc_reserved ..
  unfold State.startChannel
  split_ifs
  · exact h
  · exact (told _).draw _
  · exact told _

theorem endChannel (h : s.Updated W t) : s.Updated W t.endChannel := by
  unfold State.endChannel
  split
  · exact h
  · exact h.setChannel _ _ _ fun h0 => putBit_and_eq_zero _ _ (by decide) (by decide) h0

theorem transferData (h : s.Updated W t) (x : Xfer) : s.Updated W (t.transferData x) := by
  unfold State.transferData
  split
  · exact (h.setChannel t.sr.cha (Config.freeWord t.fresh) t.sr.chc id).draw _
  · exact h.setChannel t.sr.cha x.data t.sr.chc id

theorem nextTransfer (h : s.Updated W t) : s.Updated W t.nextTransfer :=
  h.setChannel _ _ _ fun h0 => (putField_and _ _ (by decide)).trans ((putField_and _ _ (by decide)).trans h0)

theorem lastTransfer (h : s.Updated W t) : s.Updated W t.lastTransfer :=
  h.setChannel _ _ _ fun h0 => putBit_and_eq_zero _ _ (by decide) (by decide) <|
    putBit_and_eq_zero _ _ (by decide) (by decide) h0

/-! ### Registers -/

section
variable {n : Byte}

theorem putDouble (h : s.Updated W t) (v : DWord) (h1 : W .fpu n) (h2 : W .fpu (n + 1)) :
    s.Updated W (t.putDouble n v) := (h.register _ _ _ h1).register _ _ _ h2

theorem afterSum (h : s.Updated W t) {c : WriteClass} {rc : Byte} (x : Sum) (hw : W c (t.absReg .c rc)) :
    s.Updated W (t.afterSum c rc x) := (h.register c _ _ hw).setVNZC x x.r

theorem afterStep (h : s.Updated W t) {rc : Byte} (x : Sum) (w q : Word) (hw : W .alu (t.absReg .c rc)) :
    s.Updated W (t.afterStep rc x w q) := ((h.register .alu _ _ hw).setQ q).setVNZC x w

end

/-! ### Finding the place of an access (20_memory.md R175 to R181) -/

theorem setUsage (h : s.Updated W t) (l : Vector Bool 32) : s.Updated W { t with tlbUsage := l } :=
  h.unseen t.acc l t.btc t.prefetched t.early t.hzNext t.derrEvent t.derrLeft t.derrLoad t.opMode t.accesses t.fresh

theorem setLru (h : s.Updated W t) {w : Word} (h0 : w &&& 0xFFFFFF81 = 0) :
    s.Updated W { t with sr := { t.sr with lru := w } } :=
  h.hardware _ rfl fun hz => { hz with lru := h0 }

end State.Updated

end Sys2Proof.Machine

namespace Sys2Proof.Machine

/-! ### What the updates of User mode leave alone (10_state.md R26, R40, 60_exceptions.md R640) -/

/-- The registers with those of another set that are unprotected, or that hardware writes for an instruction. -/
def SpecialRegs.withOpen (r o : SpecialRegs) : SpecialRegs :=
  { r with cha := o.cha, chd := o.chd, chc := o.chc, lru := o.lru, ipc := o.ipc, ipa := o.ipa, ipb := o.ipb, q := o.q,
           fps := o.fps, fpe := o.fpe, inte := o.inte, exop := o.exop }

/-- The TLB, the protected special registers that hardware does not write for an instruction, and CPS but for CA and TP
are as before. -/
structure State.Confined (s t : State) : Prop where
  tlb : t.tlb = s.tlb
  special : t.sr.withOpen s.sr = s.sr
  cps : t.cps &&& 0xFFFF6FFF = s.cps &&& 0xFFFF6FFF

theorem SpecialRegs.withOpen_trans {r o p : SpecialRegs} (h : r.withOpen o = o) (k : o.withOpen p = p) :
    r.withOpen p = p := (congrArg (·.withOpen p) h).trans k

theorem SpecialRegs.SameBut.withOpen {r o : SpecialRegs} (h : r.SameBut o) : r.withOpen o = o := by
  have e := congrArg (SpecialRegs.withOpen · o) (show _ = o from h)
  exact e

namespace State.Confined

variable {s t u : State}

theorem refl (s : State) : s.Confined s := ⟨rfl, rfl, rfl⟩

theorem trans (h : s.Confined t) (k : t.Confined u) : s.Confined u :=
  ⟨k.tlb.trans h.tlb, SpecialRegs.withOpen_trans k.special h.special, k.cps.trans h.cps⟩

/-- A state with the same TLB, special registers and status. -/
theorem of_eq (h1 : t.tlb = s.tlb) (h2 : t.sr = s.sr) (h3 : t.cps = s.cps) : s.Confined t :=
  ⟨h1, h2 ▸ rfl, by rw [h3]⟩

theorem rbp (h : s.Confined t) : t.sr.rbp = s.sr.rbp := by
  have e := congrArg SpecialRegs.rbp h.special
  exact e

theorem bitOf_cps (h : s.Confined t) {k : Nat} (hk : bitOf 0xFFFF6FFF k = true) : bitOf t.cps k = bitOf s.cps k := by
  have e := congrArg (bitOf · k) h.cps
  simpa only [bitOf_and, hk, Bool.and_true] using e

theorem user (h : s.Confined t) : t.user = s.user := by
  simp only [State.user, State.eSM, State.mm, h.bitOf_cps (k := 4) (by decide), h.bitOf_cps (k := 16) (by decide)]

theorem bankProtected (h : s.Confined t) (n : Byte) : t.bankProtected n = s.bankProtected n := by
  simp only [State.bankProtected, h.user, h.rbp]

end State.Confined

/-- The delayed effects of a move concern the next instruction only. -/
theorem State.specialHazard_eq (s : State) (n : Nat) (old : Word) :
    ∃ hz, s.specialHazard n old = { s with hzNext := hz } := by
  unfold State.specialHazard
  split
  · split_ifs
    · exact ⟨s.hzNext, rfl⟩
    · exact ⟨_, rfl⟩
  all_goals exact ⟨_, rfl⟩

/-- A move to a special register writes the special registers, CPS, ALU and what no program sees. -/
theorem State.writeSpecial_eq (s : State) (sa : Byte) (v : Word) : ∃ cps alu sr hz w o n, s.writeSpecial sa v =
    { s with cps := cps, alu := alu, sr := sr, hzNext := hz, fzWindow := w, oldFetch := o, fresh := n } := by
  dsimp only [State.writeSpecial]
  split_ifs
  · obtain ⟨w, o, n, h⟩ := s.writeCps_eq v
    exact ⟨_, _, _, s.hzNext, w, o, n, h⟩
  iterate 5 exact ⟨s.cps, _, _, s.hzNext, s.fzWindow, s.oldFetch, s.fresh, rfl⟩
  · obtain ⟨hz, h⟩ :=
      State.specialHazard_eq { s with sr := s.sr.put sa.toNat (v &&& writableBits sa.toNat) } sa.toNat s.sr.mmu
    exact ⟨_, _, _, hz, _, _, _, h⟩

/-- A move to an unprotected special register writes ALU or an unprotected register (10_state.md R40). -/
theorem State.writeSpecial_confined (s : State) {sa : Byte} (h : protectedSpecial sa = false) (v : Word) :
    s.Confined (s.writeSpecial sa v) := by
  have hrange : 128 ≤ sa.toNat ∧ sa.toNat < 165 := by simpa [protectedSpecial] using h
  obtain ⟨hlo, hhi⟩ := hrange
  unfold State.writeSpecial
  generalize sa.toNat = n at hlo hhi
  interval_cases n <;> exact ⟨rfl, rfl, rfl⟩

namespace State.Updated

variable {s t : State} {W : WriteClass → Byte → Prop}

/-- In User mode no update of an instruction reaches what is protected, but for the general registers. -/
theorem confined (hu : s.user = true) (h : s.Updated W t) : s.Confined t := by
  induction h with
  | start => exact .refl s
  | register _ c n v _ ih => exact ih.trans (.of_eq (by simp) (by simp) (by simp))
  | flags _ a _ ih => exact ih.trans (.of_eq rfl rfl rfl)
  | hardware _ r hr _ ih => exact ih.trans ⟨rfl, hr.withOpen, rfl⟩
  | coprocessor _ b ih => exact ih.trans ⟨rfl, rfl, putBit_and _ _ _ _ (by decide) (by decide)⟩
  | memory _ m _ ih => exact ih.trans (.of_eq rfl rfl rfl)
  | unseen _ acc usage btc pre early hz event left load mode n fresh ih => exact ih.trans (.of_eq rfl rfl rfl)
  | special _ sa v hp ih => exact ih.trans (State.writeSpecial_confined _ (hp hu) v)
  | tlb _ n v hp ih => simp [hu] at hp
  | context _ inv hp ih => simp [hu] at hp

end State.Updated

/-- A write to a register changes no other register from 64 on. -/
theorem State.getGR_putGR_of_ne (s : State) (c : WriteClass) {n m : Byte} (v : Word) (hm : 64 ≤ m.toNat) (hne : m ≠ n) :
    (s.putGR c n v).getGR m = s.getGR m := by
  cases hn : numberFault n with
  | none =>
    refine (s.putGR_result c v hn).2 m ?_
    have h2 : m ≠ 2#8 := by rintro rfl; exact absurd hm (by decide)
    unfold touched
    split_ifs <;> simpa
  | some f =>
    have hnum : n = 0#8 ∨ 4 ≤ n.toNat ∧ n.toNat < 64 := by
      unfold numberFault at hn
      split_ifs at hn with h0 h4
      · exact .inl h0
      · exact .inr (by simpa using h4)
    have h64 : n.toNat < 64 := by rcases hnum with rfl | h <;> [decide; exact h.2]
    have h1 : ¬ n = 1#8 := by rintro rfl; simp at hnum
    have h2 : ¬ n = 2#8 := by rintro rfl; simp at hnum
    have h3 : ¬ n = 3#8 := by rintro rfl; simp at hnum
    rw [State.putGR, if_neg h1, if_neg h2, if_neg h3, if_pos h64]

/-- A general register from 64 on that may not be written keeps its value. -/
theorem State.Updated.getGR_eq {s t : State} {W : WriteClass → Byte → Prop} (hu : s.user = true) (h : s.Updated W t)
    {m : Byte} (hm : 64 ≤ m.toNat) (hw : ∀ c, ¬ W c m) : t.getGR m = s.getGR m := by
  induction h with
  | start => rfl
  | @register t _ c n v hn ih =>
    have hne : m ≠ n := by rintro rfl; exact hw c hn
    exact (t.getGR_putGR_of_ne c v hm hne).trans ih
  | @special t _ sa v hp ih =>
    obtain ⟨cps, alu, sr, hz, w, o, k, he⟩ := t.writeSpecial_eq sa v
    rw [he]; exact ih
  | tlb _ n v hp ih => simp [hu] at hp
  | context _ inv hp ih => simp [hu] at hp
  | flags _ a _ ih => exact ih
  | hardware _ r hr _ ih => exact ih
  | coprocessor _ b ih => exact ih
  | memory _ m _ ih => exact ih
  | unseen _ acc usage btc pre early hz event left load mode n fresh ih => exact ih

end Sys2Proof.Machine

namespace Sys2Proof.Machine

/-! ### The updates of a data access (20_memory.md R170 to R181) -/

/-- Every state that a translation ends in has a property. -/
def Translated.All (Q : State → Prop) : Translated → Prop
  | .ok _ _ s | .miss s | .violation s => Q s
  | .fault _ => True

/-- Every state that finding a place ends in has a property. -/
def Located.All (Q : State → Prop) : Located → Prop
  | .found _ _ s | .absent s | .trap _ s => Q s
  | .fault _ => True

/-- Every state that an access ends in has a property. -/
def AccessEnd.All (Q : State → Prop) : AccessEnd → Prop
  | .done s | .derr s | .trap _ s => Q s
  | .fault _ => True

namespace State.Updated

variable {s t : State} {W : WriteClass → Byte → Prop}

theorem protect (h : s.Updated W t) (w : Word) (user : Bool) (k : AccessKind) (p : Word) (io : Bool) :
    (t.protect w user k p io).All (s.Updated W) := by
  unfold State.protect
  split
  · exact h
  · obtain ⟨l, hl, he⟩ := t.violationLru_eq
    rw [Translated.All, he]
    exact (h.setLru hl).draw _

/-- The line number and the Usage bit of a miss stand in bits 6 to 1 of LRU (10_state.md R56). -/
theorem missLru (h : s.Updated W t) (p : Nat) (a : Word) : s.Updated W (t.missLru (tlbLine p a)) := by
  refine h.setLru (or_and_eq_zero ?_ ?_)
  · cases t.tlbUsage.getD (tlbLine p a) false <;> rfl
  · have hlt : tlbLine p a < 32 := by rw [tlbLine_eq]; exact Nat.mod_lt _ (by decide)
    generalize tlbLine p a = n at hlt
    interval_cases n <;> rfl

theorem translate (h : s.Updated W t) (a : Word) (user : Bool) (k : AccessKind) :
    (t.translate a user k).All (s.Updated W) := by
  unfold State.translate State.tlbTranslate
  dsimp only
  split_ifs
  · trivial
  · exact h.protect ..
  · trivial
  · exact h.protect ..
  · trivial
  · exact (h.setUsage _).protect ..
  · exact (h.setUsage _).protect ..
  · exact h.missLru ..

theorem place (h : s.Updated W t) (sp : Space) (p : Word) : (t.place sp p).All (s.Updated W) := by
  unfold State.place
  split <;> exact h

theorem locate (h : s.Updated W t) (x : Xfer) : (t.locate x).All (s.Updated W) := by
  unfold State.locate
  split
  · exact h.place ..
  split
  · split
    · trivial
    · have k := h.translate x.addr (t.dataUser x.ctl) x.kind
      cases hr : t.translate x.addr (t.dataUser x.ctl) x.kind with
      | ok p io u =>
        rw [hr] at k
        dsimp only
        split_ifs
        · exact State.Updated.place k ..
        · exact k
        · exact State.Updated.place k ..
      | miss u => rw [hr] at k; exact k
      | violation u => rw [hr] at k; exact k
      | fault f => trivial
  · split_ifs
    · exact h.place ..
    · exact h
    · exact h.place ..

theorem bumpAccess (h : s.Updated W t) : s.Updated W t.bumpAccess :=
  h.unseen t.acc t.tlbUsage t.btc t.prefetched t.early t.hzNext t.derrEvent t.derrLeft t.derrLoad t.opMode _ t.fresh

theorem readSpace (h : s.Updated W t) (sp : Space) (p : Word) : s.Updated W (t.readSpace sp p).2 := by
  obtain ⟨w, n, he, -⟩ := t.readSpace_answers sp p
  rw [he]
  exact h.draw n

theorem writeSpace (h : s.Updated W t) (sp : Space) (c : Byte) (p v : Word) :
    s.Updated W (t.writeSpace sp c p v) := by
  cases sp with
  | idmem =>
    have stored : s.Updated W { t with idmem := t.storeMemory t.idmem c p v } :=
      h.memory _ (Memory.wf_storeMemory t c p v)
    change s.Updated W (t.overtake p (t.storeMemory t.idmem c p v))
    unfold State.overtake
    dsimp only
    split
    · exact stored
    · exact stored.unseen t.acc t.tlbUsage t.btc _ t.early t.hzNext t.derrEvent t.derrLeft t.derrLoad t.opMode
        t.accesses t.fresh
  | irom => exact h
  | io => exact h
  | cop => exact h

theorem afterAccess (h : s.Updated W t) (x : Xfer) : s.Updated W (t.afterAccess x) := by
  have pointed : s.Updated W (t.setBytePointer x.ctl x.addr) := by
    unfold State.setBytePointer
    split
    · exact h
    · exact h.flags _ fun h0 => (putField_and _ _ (by decide)).trans h0
  change s.Updated W ((t.setBytePointer x.ctl x.addr).setCoprocessorActive x.ctl x.load)
  unfold State.setCoprocessorActive
  split
  · exact pointed.coprocessor _
  · exact pointed

theorem derrReply (h : s.Updated W t) (x : Xfer) : s.Updated W (t.derrReply x) := by
  have event : s.Updated W { t with
      derrEvent := some (if ctlCE x.ctl then 4 else 7)
      derrLeft := Config.freeChoice t.fresh % (Config.derrTrapDelayMax + 1)
      derrLoad := if x.load then some x.reg else none
      fresh := t.fresh + 1 } :=
    h.unseen t.acc t.tlbUsage t.btc t.prefetched t.early t.hzNext _ _ _ t.opMode t.accesses _
  unfold State.derrReply
  dsimp only
  split
  · exact event
  · exact event.setChannel _ _ _ fun h0 => putBit_and_eq_zero _ _ (by decide) (by decide) h0

theorem setHalf (h : s.Updated W t) (x : Xfer) (sp : Space) (p : Word) : (t.setHalf x sp p).All (s.Updated W) := by
  unfold State.setHalf
  split
  · exact h.bumpAccess.derrReply x
  · exact (h.bumpAccess.writeSpace ..).afterAccess x

theorem performAt (h : s.Updated W t) {x : Xfer} (hw : x.load = true → W .load x.reg) (sp : Space) (p : Word) :
    (t.performAt x sp p).All (s.Updated W) := by
  unfold State.performAt
  split
  · exact h.bumpAccess.derrReply x
  split
  next hl =>
    have loaded := (h.bumpAccess.readSpace sp p).register .load x.reg
      (t.loadValue x.ctl x.addr (t.bumpAccess.readSpace sp p).1) (hw hl)
    dsimp only
    split
    · exact loaded.setHalf x sp p
    · exact loaded.afterAccess x
  next => exact (h.bumpAccess.writeSpace ..).afterAccess x

/-- An access is made of updates, a load one of its register among them. -/
theorem access (h : s.Updated W t) {x : Xfer} (hw : x.load = true → W .load x.reg) :
    (t.access x).All (s.Updated W) := by
  unfold State.access
  split
  · exact h
  · have k := h.locate x
    cases hr : t.locate x with
    | found sp p u => rw [hr] at k; exact State.Updated.performAt k hw sp p
    | absent u => rw [hr] at k; exact (State.Updated.bumpAccess k).derrReply x
    | trap vn u => rw [hr] at k; exact k
    | fault f => trivial

/-- A sequence is made of updates: it loads registers whose banks are not protected. -/
theorem transferLoop (hw : ∀ u, s.Updated W u → ∀ n, u.bankProtected n = false → W .load n) (n : Nat)
    (check : Bool → Byte → Option Fault) (h : s.Updated W t) :
    (Machine.transferLoop n check t).All (s.Updated W) := by
  induction n generalizing check t with
  | zero => exact h
  | succ n ih =>
    unfold Machine.transferLoop
    split
    · exact h
    next hb =>
      dsimp only
      cases check t.transfer.load t.transfer.reg with
      | some f => trivial
      | none =>
        have k := (h.transferData t.transfer).access (x := t.transfer) fun _ => hw t h _ (eq_false_of_ne_true hb)
        cases hr : (t.transferData t.transfer).access t.transfer with
        | done u =>
          rw [hr] at k
          dsimp only
          split
          · exact State.Updated.lastTransfer k
          · exact ih _ (State.Updated.nextTransfer k)
        | derr u => rw [hr] at k; exact k
        | trap vn u => rw [hr] at k; exact k
        | fault f => trivial

theorem fetchReturned (h : s.Updated W t) : s.Updated W t.fetchReturned := by
  obtain ⟨u, n, he⟩ := t.fetchReturned_eq
  rw [he]
  exact h.unseen t.acc u t.btc t.prefetched _ t.hzNext t.derrEvent t.derrLeft t.derrLoad t.opMode t.accesses n

/-- The access that an interrupt return makes again is made of updates. -/
theorem restartAccess (h : s.Updated W t) (hw : ∀ n, W .load n) : t.restartAccess.All (s.Updated W) := by
  unfold State.restartAccess
  split
  · exact h
  split
  · split
    · trivial
    · have k := h.fetchReturned.transferLoop (fun _ _ n _ => hw n) (t.fetchReturned.countRemaining + 1) startFault
      change ((Machine.transferLoop _ startFault t.fetchReturned).keepFetched).All _
      cases hr : Machine.transferLoop (t.fetchReturned.countRemaining + 1) startFault t.fetchReturned with
      | done u =>
        rw [hr] at k
        exact State.Updated.unseen k u.acc u.tlbUsage u.btc _ u.early u.hzNext u.derrEvent u.derrLeft u.derrLoad u.opMode
          u.accesses u.fresh
      | derr u => rw [hr] at k; exact k
      | trap vn u => rw [hr] at k; exact k
      | fault f => trivial
  · dsimp only
    split
    · trivial
    · have k := h.access (x := t.recorded) fun _ => hw _
      cases hr : t.access t.recorded with
      | done u => rw [hr] at k; exact State.Updated.endChannel k
      | derr u => rw [hr] at k; exact k
      | trap vn u => rw [hr] at k; exact k
      | fault f => trivial

end State.Updated

end Sys2Proof.Machine

namespace Sys2Proof.Machine

/-! ### How an instruction ends, in terms of its updates -/

/-- The state a completed instruction has reached. -/
def Done.state : Done → State
  | .seq s | .branch s _ | .status s | .returned s => s

/-- The state that an instruction has reached when it completes, or when it traps, has a property. -/
def Ends (Q : State → Prop) : Except Stop Done → Prop
  | .ok d => Q d.state
  | .error (.trap _ _ s) => Q s
  | .error (.fault _) => True

/-- The destination field of the integer arithmetic and logical instructions that the ALU executes, which set the shadow
Stack Pointer (10_state.md R29). -/
def aluDest : Instr → Option Byte
  | .add rc _ _ | .addc rc _ _ | .addcs rc _ _ | .addcu rc _ _ | .adds rc _ _ | .addu rc _ _ | .sub rc _ _
  | .subc rc _ _ | .subcs rc _ _ | .subcu rc _ _ | .subs rc _ _ | .subu rc _ _ | .subr rc _ _ | .subrc rc _ _
  | .subrcs rc _ _ | .subrcu rc _ _ | .subrs rc _ _ | .subru rc _ _ | .mul rc _ _ | .mull rc _ _ | .mulu rc _ _
  | .div0 rc _ | .div rc _ _ | .divl rc _ _ | .divrem rc _ _ | .and rc _ _ | .andn rc _ _ | .nand rc _ _ | .nor rc _ _
  | .or rc _ _ | .orn rc _ _ | .xnor rc _ _ | .xor rc _ _ => some rc
  | _ => none

/-- The registers that instruction `i`, executed in `s`, may write as class `c`: in User mode none of a protected bank;
and the Stack Pointer with its shadow only as the destination of an instruction that sets it. -/
structure State.MayWrite (s : State) (i : Instr) (c : WriteClass) (n : Byte) : Prop where
  bank : s.bankProtected n = false
  pointer : n = 1#8 → if c.setsShadow then ∃ rc, aluDest i = some rc ∧ s.absReg .c rc = 1#8 else aluDest i = none

/-- What executing `i` in `s` answers: it ends by its updates, or the access that an interrupt return makes again traps,
or it is a model fault. -/
inductive State.Obeys (s : State) (i : Instr) : Out → Prop where
  | finish {r : Except Stop Done} (h : Ends (s.Updated (s.MayWrite i)) r) : Obeys s i (Machine.finish i.opcode r)
  | restart {u : State} (h : s.Updated (s.MayWrite i) u) (hu : s.user = false) (vn : Byte) :
    Obeys s i (u.takeRestartTrap vn)
  | fault (f : Fault) : Obeys s i (.fault f)

/-! ### The destinations that nothing stops -/

section
variable {s : State} {i : Instr} {prot : Bool} {us : List RegUse} {p : Pos} {f : Byte}

/-- A register field that nothing stops is resolved, and names no protected register. -/
theorem State.resolved_of_regStop (hr : s.regStop prot us = none) {u : RegUse} (hm : u ∈ us) :
    s.fieldFault u.pos u.field = none ∧ s.bankProtected (s.absReg u.pos u.field) = false := by
  obtain ⟨hprot, hfault⟩ := (State.regStop_none hr).2 u hm
  have hfield : s.fieldFault u.pos u.field = none := by
    unfold State.useFault at hfault
    cases h : s.fieldFault u.pos u.field with
    | none => rfl
    | some f => rw [h] at hfault; cases hfault
  refine ⟨hfield, ?_⟩
  rw [State.useProtected, hfield] at hprot
  exact hprot

/-- A destination that sets the shadow Stack Pointer if it is the Stack Pointer. -/
theorem State.mayWrite_alu (hr : s.regStop prot us = none) {c : WriteClass} (hm : (⟨.c, f, .dst c⟩ : RegUse) ∈ us)
    (hc : c.setsShadow = true) (hi : aluDest i = some f) : s.MayWrite i c (s.absReg .c f) :=
  ⟨(State.resolved_of_regStop hr hm).2, fun h1 => by rw [if_pos hc]; exact ⟨f, hi, h1⟩⟩

/-- A destination of another instruction. -/
theorem State.mayWrite_of (hr : s.regStop prot us = none) {c : WriteClass} (hm : (⟨p, f, .dst c⟩ : RegUse) ∈ us)
    (hc : c.setsShadow = false) (hi : aluDest i = none) : s.MayWrite i c (s.absReg p f) :=
  ⟨(State.resolved_of_regStop hr hm).2, fun _ => by rw [hc]; exact hi⟩

/-- Both registers of a double-precision destination: they lie in one bank. -/
theorem State.mayWrite_double (hr : s.regStop prot us = none) (hm : (⟨p, f, .doubleDst⟩ : RegUse) ∈ us)
    (hi : aluDest i = none) : s.MayWrite i .fpu (s.absReg p f) ∧ s.MayWrite i .fpu (s.absReg p f + 1) := by
  obtain ⟨hfield, hbank⟩ := State.resolved_of_regStop hr hm
  have hfault : doubleFault (s.absReg p f) = none := by
    have h := ((State.regStop_none hr).2 _ hm).2
    simpa only [State.useFault, hfield] using h
  generalize s.absReg p f = n at hbank hfault
  have hall : ∀ m : Byte, doubleFault m = none → (m + 1).toNat / 16 = m.toNat / 16 ∧ 64 ≤ m.toNat := by decide
  obtain ⟨hsame, h64⟩ := hall n hfault
  have hpointer : ∀ m : Byte, m = 1#8 → if WriteClass.fpu.setsShadow then ∃ rc, aluDest i = some rc ∧ s.absReg .c rc = 1#8
      else aluDest i = none := fun _ _ => hi
  refine ⟨⟨hbank, hpointer n⟩, ?_, hpointer _⟩
  unfold State.bankProtected at hbank ⊢
  rw [hsame]
  have : decide (4 ≤ n.toNat) = true := decide_eq_true (by omega)
  rw [this, Bool.and_true] at hbank
  rw [Bool.and_right_comm, hbank, Bool.false_and]

end

end Sys2Proof.Machine

namespace Sys2Proof.Machine

/-! ### What the instructions of each shape obey -/

section
variable {s : State} {i : Instr} {rc ra rb : Byte} {b : Opnd}

/-- Behind its checks an instruction obeys what its rule does; the checks themselves change nothing. -/
theorem State.obeys_guarded {prot : Bool} {us : List RegUse} {body : Except Stop Done}
    (h : s.regStop prot us = none → Ends (s.Updated (s.MayWrite i)) body) :
    s.Obeys i (finish i.opcode (s.guarded prot us body)) := by
  rcases s.guarded_cases prot us body with ⟨hr, he⟩ | he | ⟨f, he⟩
  · rw [he]; exact .finish (h hr)
  · rw [he]; exact .finish (r := .error (.trap 5 .curr s)) .start
  · rw [he]; exact .fault f

/-- An instruction that changes nothing before it goes on, or before it traps. -/
theorem State.obeys_unchanged {prot : Bool} {us : List RegUse} {body : Except Stop Done}
    (h : Ends (s.Updated (s.MayWrite i)) body) : s.Obeys i (finish i.opcode (s.guarded prot us body)) :=
  State.obeys_guarded fun _ => h

/-! ### Integer arithmetic, compares, logical and shift instructions -/

/-- An add or subtract of sum `x`, which traps or does not. -/
theorem State.obeys_sum {c : WriteClass} (hc : c.setsShadow = true) (hi : aluDest i = some rc) (x : Sum) (bad : Bool) :
    s.Obeys i (finish i.opcode (s.guarded false (usesRRM c rc ra b)
      (if bad then .error (.trap 2 .next (s.afterSum c rc x)) else .ok (.seq (s.afterSum c rc x))))) := by
  refine State.obeys_guarded fun hr => ?_
  have written := State.Updated.start.afterSum x (State.mayWrite_alu hr (dst_mem_usesRRM c rc ra b) hc hi)
  split <;> exact written

/-- A multiply or divide step. -/
theorem State.obeys_step {prot : Bool} {us : List RegUse} (hm : (⟨.c, rc, .dst .alu⟩ : RegUse) ∈ us)
    (hi : aluDest i = some rc) (x : Sum) (w q : Word) (d : Bool) :
    s.Obeys i (finish i.opcode (s.guarded prot us (.ok (.seq ((s.afterStep rc x w q).setDF d))))) :=
  State.obeys_guarded fun hr =>
    (State.Updated.start.afterStep x w q (State.mayWrite_alu hr hm rfl hi)).setDF d

theorem multiplyStep_obeys (hi : aluDest i = some rc) (x : Sum) (f : Bool) :
    s.Obeys i (multiplyStep i rc ra b x f s) :=
  State.obeys_guarded fun hr => State.Updated.start.afterStep x _ _
    (State.mayWrite_alu hr (dst_mem_usesRRM .alu rc ra b) rfl hi)

/-- A logical instruction of result `r`. -/
theorem State.obeys_logical (hi : aluDest i = some rc) (r : Word) : s.Obeys i
    (finish i.opcode (s.guarded false (usesRRM .alu rc ra b) (.ok (.seq ((s.setDest .alu rc r).setNZ r))))) :=
  State.obeys_guarded fun hr => (State.Updated.start.register .alu _ r
    (State.mayWrite_alu hr (dst_mem_usesRRM .alu rc ra b) rfl hi)).setNZ r

/-- An instruction that writes one register, in a class that does not set the shadow Stack Pointer. -/
theorem State.obeys_result {prot : Bool} {us : List RegUse} {c : WriteClass} {p : Pos} {f : Byte}
    (hm : (⟨p, f, .dst c⟩ : RegUse) ∈ us) (hc : c.setsShadow = false) (hi : aluDest i = none) (v : Word) :
    s.Obeys i (finish i.opcode (s.guarded prot us (.ok (.seq (s.putGR c (s.absReg p f) v))))) :=
  State.obeys_guarded fun hr => State.Updated.start.register c _ v (State.mayWrite_of hr hm hc hi)

theorem plainResult_obeys (hi : aluDest i = none) (r : Word) : s.Obeys i (plainResult i rc ra b r s) :=
  State.obeys_result (dst_mem_usesRRM .other rc ra b) rfl hi r

/-- An assert whose relation holds or does not. -/
theorem State.obeys_assert {vn : Byte} (holds : Bool) : s.Obeys i
    (finish i.opcode (s.guarded false ([⟨.a, ra, .src⟩] ++ opndUses b)
      (if holds then .ok (.seq s)
       else if s.user && decide (vn.toNat < 64) then .error (.trap 5 .curr s)
       else .error (.trap vn .next s)))) := by
  refine State.obeys_unchanged ?_
  split_ifs <;> exact State.Updated.start

theorem multiplyClass_obeys (hi : aluDest i = none) (r : Word) (overflow : Bool) :
    s.Obeys i (multiplyClass i rc ra rb r overflow s) := by
  refine State.obeys_guarded fun hr => ?_
  split
  · exact (State.Updated.start.setPointers rc ra rb).loseQ
  · exact (State.Updated.start.register .fpu _ r
      (State.mayWrite_of hr (us := usesMultiply rc ra rb) (by simp [usesMultiply]) rfl hi)).loseQ

theorem emulated_obeys (vn : Byte) : s.Obeys i (emulated i vn rc ra rb s) :=
  State.obeys_unchanged (State.Updated.start.setPointers rc ra rb)

theorem constantOp_obeys (hi : aluDest i = none) (v : Word) : s.Obeys i (constantOp i ra v s) :=
  State.obeys_result (by simp) rfl hi v

/-! ### Branches -/

theorem State.takeBranch_ends {Q : State → Prop} {u : State} (h : Q u) (pre : State) (t : Word) :
    Ends Q (u.takeBranch pre t) := by
  unfold State.takeBranch
  split
  · trivial
  · exact h

theorem State.branchIf_ends {Q : State → Prop} {u : State} (h : Q u) (pre : State) (c : Bool) (t : Word) :
    Ends Q (u.branchIf pre c t) := by
  unfold State.branchIf
  split
  · exact State.takeBranch_ends h pre t
  · exact h

/-- A branch that writes a register. -/
theorem State.obeys_link {us : List RegUse} (hm : (⟨.a, ra, .dst .other⟩ : RegUse) ∈ us) (hi : aluDest i = none)
    (v : Word)
    {body : Except Stop Done} (hb : ∀ Q : State → Prop, Q (s.putGR .other (s.absReg .a ra) v) → Ends Q body) :
    s.Obeys i (finish i.opcode (s.guarded false us body)) :=
  State.obeys_guarded fun hr => hb _ (State.Updated.start.register .other _ v (State.mayWrite_of hr hm rfl hi))

/-! ### Floating point -/

section
variable {t : State} {us : List RegUse} {prot : Bool}

theorem State.Updated.putFp (h : s.Updated (s.MayWrite i) t) (ha : t.absReg .c rc = s.absReg .c rc)
    (hr : s.regStop prot us = none) {x : Fmt} (hm : (⟨.c, rc, dstUse x⟩ : RegUse) ∈ us) (hi : aluDest i = none)
    (v : DWord) : s.Updated (s.MayWrite i) (t.putFp x rc v) := by
  cases x with
  | single =>
    refine h.register .fpu _ _ ?_
    rw [ha]
    exact State.mayWrite_of hr hm rfl hi
  | double =>
    obtain ⟨h1, h2⟩ := State.mayWrite_double hr hm hi
    rw [← ha] at h1 h2
    exact h.putDouble v h1 h2

theorem State.statusAndTrap_ends (hr : s.regStop prot us = none) {x : Fmt}
    (hm : (⟨.c, rc, dstUse x⟩ : RegUse) ∈ us) (hi : aluDest i = none) (k : CodeFields) (fa fb : Byte) (o : FpOutcome) :
    Ends (s.Updated (s.MayWrite i)) (s.statusAndTrap k x rc fa fb o) := by
  have sticky : s.Updated (s.MayWrite i) (s.setSticky o.status) := State.Updated.start.setSticky _
  unfold State.statusAndTrap
  dsimp only
  split
  · exact sticky.putFp rfl hr hm hi _
  · exact (sticky.setTrapStatus _).trapPointers k rc fa fb

theorem State.reservedField_ends (vn : Byte) (k : CodeFields) (fc fa fb : Byte) :
    Ends (s.Updated (s.MayWrite i)) (s.reservedField vn k fc fa fb) := State.Updated.start.trapPointers k fc fa fb

end

/-- A two-operand instruction of outcome `o`. -/
theorem State.obeys_outcome {x y : Fmt} (hi : aluDest i = none) (o : FpOutcome) : s.Obeys i
    (finish i.opcode (s.guarded false (usesFp x y rc ra rb) (s.statusAndTrap .none y rc ra rb o))) :=
  State.obeys_guarded fun hr => State.statusAndTrap_ends hr (us := usesFp x y rc ra rb) (by simp [usesFp]) hi _ _ _ _

theorem multiplySum_obeys (x : Fmt) (hi : aluDest i = none) (good : Prop) [Decidable good] :
    s.Obeys i (finish i.opcode (s.guarded false (usesFp x x rc ra rb)
      (if good then .ok (.seq (s.multiplySum x rc ra rb)) else .error (.fault .multiplyFormat)))) := by
  refine State.obeys_guarded fun hr => ?_
  split
  · exact (State.Updated.start.setAllSticky _).putFp rfl hr (us := usesFp x x rc ra rb) (by simp [usesFp]) hi _
  · trivial

end

end Sys2Proof.Machine

namespace Sys2Proof.Machine

section
variable {s : State} {i : Instr}

/-! ### Loads and stores -/

theorem AccessEnd.toDone_ends {W : WriteClass → Byte → Prop} {e : AccessEnd} (h : e.All (s.Updated W)) :
    Ends (s.Updated W) e.toDone := by
  cases e with
  | done t => exact State.Updated.endChannel h
  | derr t => exact h
  | trap vn t => exact h
  | fault f => trivial

theorem AccessEnd.toDoneMultiple_ends {W : WriteClass → Byte → Prop} {e : AccessEnd} (h : e.All (s.Updated W)) :
    Ends (s.Updated W) e.toDoneMultiple := by
  cases e with
  | done t => exact State.Updated.delays h _
  | derr t =>
    exact State.Updated.unseen h t.acc t.tlbUsage t.btc t.prefetched t.early _ t.derrEvent 0 t.derrLoad t.opMode
      t.accesses t.fresh
  | trap vn t => exact h
  | fault f => trivial

theorem State.single_ends {W : WriteClass → Byte → Prop} {x : Xfer} (hw : x.load = true → W .load x.reg) :
    Ends (s.Updated W) (s.single x) := by
  unfold State.single
  split
  · trivial
  · exact AccessEnd.toDone_ends ((State.Updated.start.startChannel x false).access hw)

/-- A register that the state reached does not protect is not protected. -/
theorem State.mayWrite_reached {W : WriteClass → Byte → Prop} {t : State} (h : s.Updated W t) (hi : aluDest i = none)
    {n : Byte} (hb : t.bankProtected n = false) : s.MayWrite i .load n := by
  refine ⟨?_, fun _ => hi⟩
  cases hu : s.user with
  | true => rw [← (h.confined hu).bankProtected]; exact hb
  | false => rw [State.bankProtected, hu]; rfl

theorem State.multiple_ends (hi : aluDest i = none) (x : Xfer) : Ends (s.Updated (s.MayWrite i)) (s.multiple x) := by
  unfold State.multiple
  split
  · trivial
  · exact AccessEnd.toDoneMultiple_ends ((State.Updated.start.startChannel x true).transferLoop
      (fun u h n hb => State.mayWrite_reached h hi hb) _ _)

theorem loadOp_obeys (hi : aluDest i = none) (ctl ra : Byte) (b : Opnd) (set lock : Bool) :
    s.Obeys i (loadOp i ctl ra b set lock s) :=
  State.obeys_guarded fun hr => State.single_ends fun _ =>
    State.mayWrite_of hr (us := usesLoad ra b) (by simp [usesLoad]) rfl hi

theorem storeOp_obeys (ctl ra : Byte) (b : Opnd) (lock : Bool) : s.Obeys i (storeOp i ctl ra b lock s) :=
  State.obeys_unchanged (State.single_ends fun h => by cases h)

/-! ### Moves to special registers and interrupt returns -/

/-- A move to a special register (R451, R452), behind its privilege check. -/
theorem moveToSpecial_obeys (sa : Byte) (us : List RegUse) (v : Word) :
    s.Obeys i (finish i.opcode (s.guarded (s.specialProtected sa) us (s.moveToSpecial sa v))) := by
  refine State.obeys_guarded fun hr => ?_
  have hp : s.user = true → protectedSpecial sa = false := fun hu => by
    have h := (State.regStop_none hr).1
    rwa [State.specialProtected, hu, Bool.true_and] at h
  have moved : s.Updated (s.MayWrite i) (s.writeSpecial sa v) := State.Updated.start.special sa v hp
  unfold State.moveToSpecial
  split
  · trivial
  split
  · trivial
  · split <;> exact moved

theorem interruptReturn_obeys (hi : aluDest i = none) (inv : Bool) : s.Obeys i (interruptReturn i inv s) := by
  have user : s.regStop s.user [] = if s.user then some (.trap 5 .curr s) else none := by
    unfold State.regStop; cases s.user <;> rfl
  unfold interruptReturn
  rw [user]
  cases hu : s.user with
  | true => exact .finish (r := .error (.trap 5 .curr s)) .start
  | false =>
    have hw : ∀ n, s.MayWrite i .load n := fun n => ⟨by rw [State.bankProtected, hu]; rfl, fun _ => hi⟩
    have back := (State.Updated.start.context (W := s.MayWrite i) inv hu).restartAccess hw
    simp only [Bool.false_eq_true, if_false]
    split_ifs
    · exact .fault _
    · exact .fault _
    · cases hr : (s.restoreContext inv).restartAccess with
      | done t => rw [hr] at back; exact .finish (r := .ok (.returned t)) back
      | derr t =>
        rw [hr] at back
        exact .finish (r := .ok (.returned { t with derrLeft := 0 })) (State.Updated.unseen back t.acc t.tlbUsage t.btc
          t.prefetched t.early t.hzNext t.derrEvent 0 t.derrLoad t.opMode t.accesses t.fresh)
      | trap vn t => rw [hr] at back; exact .restart back hu vn
      | fault f => exact .fault f

end

/-- Reading a special register draws at most a free value. -/
theorem State.readSpecial_snd (s : State) (sa : Byte) : ∃ n, (s.readSpecial sa).2 = { s with fresh := n } := by
  unfold State.readSpecial
  dsimp only
  split_ifs
  · exact ⟨_, rfl⟩
  iterate 6 exact ⟨s.fresh, rfl⟩
  · split
    · exact ⟨s.fresh, rfl⟩
    · exact ⟨_, rfl⟩

/-! ### The instructions of a shape of their own -/

theorem execMfsr_obeys (rc sa : Byte) (s : State) : s.Obeys (.mfsr rc sa) (execMfsr rc sa s) := by
  refine State.obeys_guarded fun hr => ?_
  split
  · trivial
  · have hread : ∃ n, (s.readSpecial sa).2 = { s with fresh := n } := s.readSpecial_snd sa
    obtain ⟨n, hn⟩ := hread
    have drawn : s.Updated (s.MayWrite (.mfsr rc sa)) (s.readSpecial sa).2 := by
      rw [hn]; exact State.Updated.start.draw n
    exact drawn.register .other _ _ (State.mayWrite_of hr (by simp) rfl rfl)

/-- EMULATE sets IPA and IPB, and IPC to a free number (R601). -/
theorem execEmulate_obeys (vn ra rb : Byte) (s : State) : s.Obeys (.emulate vn ra rb) (execEmulate vn ra rb s) :=
  State.obeys_unchanged ((State.Updated.start.pointTo
    (and_and_eq_zero (Config.freeWord s.fresh) (k := 0x3FC) (by decide)) (pointerWord_reserved (s.absReg .a ra))
    (pointerWord_reserved (s.absReg .b rb))).draw (s.fresh + 1))

section
variable (s : State)

theorem execFmac_obeys (fn ra rb : Byte) : s.Obeys (.fmac fn ra rb) (execFmac fn ra rb s) := by
  unfold execFmac
  split
  · exact State.obeys_unchanged (State.reservedField_ends ..)
  · exact State.obeys_unchanged ((State.Updated.start.setAllSticky _).putAcc _ _)

theorem execDmac_obeys (fn ra rb : Byte) : s.Obeys (.dmac fn ra rb) (execDmac fn ra rb s) := by
  unfold execDmac
  split
  · exact State.obeys_unchanged (State.reservedField_ends ..)
  · refine State.obeys_unchanged ?_
    split
    · trivial
    · exact (State.Updated.start.setAllSticky _).putAcc _ _

theorem execConvert_obeys (rc ra fn : Byte) : s.Obeys (.convert rc ra fn) (execConvert rc ra fn s) := by
  unfold execConvert
  split
  · exact State.obeys_unchanged (State.reservedField_ends ..)
  · refine State.obeys_guarded fun hr => ?_
    split
    · trivial
    · exact State.statusAndTrap_ends hr (by simp) rfl ..

theorem execSqrt_obeys (rc ra fn : Byte) : s.Obeys (.sqrt rc ra fn) (execSqrt rc ra fn s) := by
  unfold execSqrt
  dsimp only
  split
  · exact State.obeys_unchanged (State.reservedField_ends ..)
  · exact State.obeys_guarded fun hr => State.statusAndTrap_ends hr (by simp) rfl ..

theorem execClassify_obeys (rc ra fn : Byte) : s.Obeys (.classify rc ra fn) (execClassify rc ra fn s) := by
  unfold execClassify
  dsimp only
  split
  · exact State.obeys_unchanged (State.reservedField_ends ..)
  · exact State.obeys_result (c := .fpu) (p := .c) (f := rc) (by simp) rfl rfl _

theorem execMtacc_obeys (rc ra fn : Byte) : s.Obeys (.mtacc rc ra fn) (execMtacc rc ra fn s) := by
  unfold execMtacc
  dsimp only
  split
  · exact State.obeys_unchanged (State.reservedField_ends ..)
  · refine State.obeys_unchanged ?_
    split
    · trivial
    · exact (State.Updated.start.setAllSticky _).putAcc _ _

theorem execMfacc_obeys (rc ra fn : Byte) : s.Obeys (.mfacc rc ra fn) (execMfacc rc ra fn s) := by
  unfold execMfacc
  dsimp only
  split
  · exact State.obeys_unchanged (State.reservedField_ends ..)
  · refine State.obeys_guarded fun hr => ?_
    split
    · trivial
    · exact State.statusAndTrap_ends hr (by simp) rfl ..

end

/-- Every instruction is made of updates: the arms of `exec`, shape by shape. -/
theorem exec_obeys (i : Instr) (s : State) : s.Obeys i (exec i s) := by
  cases i with
  | add | sub | addc | addcs | addcu | adds | addu | subc | subcs | subcu | subs | subu | subr | subrc | subrcs | subrcu
  | subrs | subru => refine State.obeys_sum ?_ ?_ _ _ <;> rfl
  | mul | mull | mulu => refine multiplyStep_obeys ?_ _ _; rfl
  | div0 rc b => refine State.obeys_step (by simp) ?_ _ _ _ _; rfl
  | div rc ra b | divl rc ra b => refine State.obeys_step (dst_mem_usesRRM .alu rc ra b) ?_ _ _ _ _; rfl
  | divrem rc ra b =>
    exact State.obeys_guarded fun hr => State.Updated.start.afterSum _
      (State.mayWrite_alu hr (dst_mem_usesRRM .alu rc ra b) rfl rfl)
  | multiply | multiplu | multm | multmu => refine multiplyClass_obeys ?_ _ _; rfl
  | divide | dividu => exact emulated_obeys _
  | cpeq | cpneq | cplt | cpltu | cple | cpleu | cpgt | cpgtu | cpge | cpgeu | cpbyte | sll | srl | sra | extract | exbyte
  | exhw | inbyte | inhw => refine plainResult_obeys ?_ _; rfl
  | aseq | asneq | aslt | asltu | asle | asleu | asgt | asgtu | asge | asgeu => exact State.obeys_assert _
  | and | andn | nand | nor | or | orn | xnor | xor => refine State.obeys_logical ?_ _; rfl
  | exhws rc ra => exact State.obeys_result (c := .other) (p := .c) (f := rc) (by simp) rfl rfl _
  | clz rc b => exact State.obeys_result (c := .other) (p := .c) (f := rc) (by simp) rfl rfl _
  | load | loadl | loadset => refine loadOp_obeys ?_ _ _ _ _ _; rfl
  | store | storel => exact storeOp_obeys _ _ _ _
  | loadm ctl ra b => exact State.obeys_unchanged (State.multiple_ends rfl (s.loadXfer ctl ra b false false))
  | storem ctl ra b => exact State.obeys_unchanged (State.multiple_ends rfl (s.storeXfer ctl ra b false))
  | mfsr rc sa => exact execMfsr_obeys rc sa s
  | mtsr sa rb => exact moveToSpecial_obeys sa _ _
  | mtsrim sa i => exact moveToSpecial_obeys sa _ _
  | mftlb rc ra => exact State.obeys_result (c := .other) (p := .c) (f := rc) (by simp) rfl rfl _
  | mttlb ra rb => exact State.obeys_guarded fun hr => State.Updated.start.tlb _ _ (State.regStop_none hr).1
  | const | consthz | constn => refine constantOp_obeys ?_ _; rfl
  | consth ra i =>
    refine State.obeys_guarded fun hr => ?_
    split
    · trivial
    · exact State.Updated.start.register .constant _ _ (State.mayWrite_of hr (by simp) rfl rfl)
  | fadd | fsub | fmul | fdiv | feq | fgt | fge | dadd | dsub | dmul | ddiv | fdmul | deq | dgt | dge =>
    refine State.obeys_outcome ?_ _; rfl
  | fmac fn ra rb => exact execFmac_obeys s fn ra rb
  | dmac fn ra rb => exact execDmac_obeys s fn ra rb
  | fmsm | dmsm => refine multiplySum_obeys _ ?_ _; rfl
  | convert rc ra fn => exact execConvert_obeys s rc ra fn
  | sqrt rc ra fn => exact execSqrt_obeys s rc ra fn
  | classify rc ra fn => exact execClassify_obeys s rc ra fn
  | mtacc rc ra fn => exact execMtacc_obeys s rc ra fn
  | mfacc rc ra fn => exact execMfacc_obeys s rc ra fn
  | call a ra i => exact State.obeys_link (by simp) rfl _ fun Q h => State.takeBranch_ends h _ _
  | calli ra rb => exact State.obeys_link (by simp) rfl _ fun Q h => State.takeBranch_ends h _ _
  | jmpfdec a ra i => exact State.obeys_link (by simp) rfl _ fun Q h => State.branchIf_ends h _ _ _
  | jmp | jmpi => exact State.obeys_unchanged (State.takeBranch_ends .start _ _)
  | jmpf | jmpfi | jmpt | jmpti => exact State.obeys_unchanged (State.branchIf_ends .start _ _ _)
  | emulate vn ra rb => exact execEmulate_obeys vn ra rb s
  | setip rc ra rb => exact State.obeys_unchanged ((State.Updated.start.setPointers rc ra rb).delays _)
  | inv =>
    exact State.obeys_unchanged (State.Updated.start.unseen s.acc s.tlbUsage _ s.prefetched s.early s.hzNext s.derrEvent
      s.derrLeft s.derrLoad s.opMode s.accesses s.fresh)
  | iret => exact interruptReturn_obeys rfl _
  | iretinv => exact interruptReturn_obeys rfl _
  | halt =>
    exact State.obeys_unchanged (State.Updated.start.unseen s.acc s.tlbUsage s.btc s.prefetched s.early s.hzNext
      s.derrEvent s.derrLeft s.derrLoad _ s.accesses s.fresh)

end Sys2Proof.Machine

namespace Sys2Proof.Machine

/-! ### What the entry into a trap leaves (60_exceptions.md R680, R700) -/

/-- A trap that is taken saves its context, and goes on in Monitor mode or at the handler of its vector. -/
theorem State.takeTrap_next {s t : State} {vn : Byte} {k : TrapKind} (h : s.takeTrap vn k = .next t) :
    t = (s.saveContext k).inMonitor vn ∨ t = (s.saveContext k).atHandler vn := by
  unfold State.takeTrap at h
  split_ifs at h
  · cases h; exact .inl (s.monitorTrap_eq vn k)
  · cases h; exact .inr rfl

/-- A trap of an instruction is one that is taken with EXOP set. -/
theorem State.takeTrap_of_takeInstTrap {s t : State} {op vn : Byte} {k : TrapKind}
    (h : s.takeInstTrap op vn k = .next t) :
    ({ s with sr := { s.sr with exop := op.setWidth 32 } } : State).takeTrap vn k = .next t := by
  unfold State.takeInstTrap at h
  split_ifs at h
  exact h

/-- Every trap leaves User mode (R681, R700). -/
theorem State.takeTrap_user {s t : State} {vn : Byte} {k : TrapKind} (h : s.takeTrap vn k = .next t) :
    t.user = false := by
  rcases State.takeTrap_next h with rfl | rfl
  · have hmm : ((s.saveContext k).inMonitor vn).mm = true := by
      change bitOf (putBit _ 16 true) 16 = true
      rw [bitOf_putBit _ _ _ _ (by decide), if_pos rfl]
    rw [State.user, State.eSM, hmm, Bool.or_true]; rfl
  · have hsm : bitOf ((s.saveContext k).atHandler vn).cps 4 = true := by
      change bitOf (putBit (afterTrap (s.saveContext k).cps) 8 _) 4 = true
      rw [bitOf_putBit _ _ _ _ (by decide), if_neg (by decide), afterTrap, bitOf_or]
      simp [show bitOf Config.trapSetBits 4 = true by decide]
    rw [State.user, State.eSM, hsm]; rfl

/-- The Stack Pointer and its shadow are as before. -/
def State.SamePointer (s t : State) : Prop := t.sp = s.sp ∧ t.spValid = s.spValid ∧ t.spShadow = s.spShadow

theorem State.takeTrap_samePointer {s t : State} {vn : Byte} {k : TrapKind} (h : s.takeTrap vn k = .next t) :
    s.SamePointer t := by
  have hsave : s.SamePointer (s.saveContext k) := by
    cases k with
    | next =>
      obtain ⟨n, p0, p1, p2, he⟩ := s.saveContext_next_eq
      rw [he]; exact ⟨rfl, rfl, rfl⟩
    | async =>
      obtain ⟨-, n, p0, p1, p2, x, he⟩ := s.saveContext_before (k := .async) (by decide)
      rw [he]; exact ⟨rfl, rfl, rfl⟩
    | curr =>
      obtain ⟨-, n, p0, p1, p2, x, he⟩ := s.saveContext_before (k := .curr) (by decide)
      rw [he]; exact ⟨rfl, rfl, rfl⟩
  rcases State.takeTrap_next h with rfl | rfl <;> exact hsave

/-! ### What an instruction leaves, in terms of its updates -/

/-- An instruction that answers a next state has completed after its updates, or it has taken a trap after them, or the
access that it made again as an interrupt return has. -/
theorem exec_next {i : Instr} {s t : State} (h : exec i s = .next t) :
    (∃ d : Done, s.Updated (s.MayWrite i) d.state ∧ t = d.advance) ∨
      (∃ u vn k, s.Updated (s.MayWrite i) u ∧ u.takeInstTrap i.opcode vn k = .next t) ∨
      ∃ u vn, s.user = false ∧ s.Updated (s.MayWrite i) u ∧ u.takeRestartTrap vn = .next t := by
  have obeys := exec_obeys i s
  generalize exec i s = o at obeys h
  cases obeys with
  | finish hr =>
    rcases finish_next h with ⟨d, rfl, rfl⟩ | ⟨vn, k, u, rfl, htrap⟩
    · exact .inl ⟨d, hr, rfl⟩
    · exact .inr (.inl ⟨u, vn, k, hr, htrap⟩)
  | restart hu hm vn => exact .inr (.inr ⟨_, vn, hm, hu, h⟩)
  | fault f => cases h

/-- Completing an instruction changes TP, the program counters and what no program sees. -/
theorem Done.advance_confined (d : Done) : d.state.Confined d.advance := by
  have traced : ∀ (c : Word) (b : Bool), putBit c 12 b &&& 0xFFFF6FFF = c &&& 0xFFFF6FFF :=
    fun c b => putBit_and _ _ _ _ (by decide) (by decide)
  cases d with
  | seq s => exact ⟨rfl, rfl, traced _ _⟩
  | branch s a => exact ⟨rfl, rfl, traced _ _⟩
  | status s => exact ⟨rfl, rfl, traced _ _⟩
  | returned s => exact ⟨rfl, rfl, rfl⟩

theorem Done.advance_getGR (d : Done) (n : Byte) : d.advance.getGR n = d.state.getGR n := by
  cases d <;> rfl

/-- In User mode an instruction that does not trap reaches nothing that is protected. -/
theorem exec_confined {i : Instr} {s t : State} (hu : s.user = true) (h : exec i s = .next t) (ht : t.user = true) :
    s.Confined t ∧ ∀ n : Byte, 64 ≤ n.toNat → bitOf s.sr.rbp (n.toNat / 16) = true → t.getGR n = s.getGR n := by
  rcases exec_next h with ⟨d, hd, rfl⟩ | ⟨u, vn, k, -, htrap⟩ | ⟨u, vn, hs, -, -⟩
  · refine ⟨(hd.confined hu).trans d.advance_confined, fun n hn hb => ?_⟩
    rw [d.advance_getGR]
    refine hd.getGR_eq hu hn fun c hw => ?_
    have hbank := hw.bank
    rw [State.bankProtected, hu, hb, decide_eq_true (show 4 ≤ n.toNat by omega)] at hbank
    cases hbank
  · rw [State.takeTrap_user (State.takeTrap_of_takeInstTrap htrap)] at ht; cases ht
  · rw [hu] at hs; cases hs

/-- Settles O59: in User mode the updates that an instruction is made of reach nothing protected, and every trap leaves
User mode. -/
theorem userModeIsConfined : Obligations.UserModeIsConfined := by
  intro i s t hu h ht
  obtain ⟨hconfined, hregs⟩ := exec_confined hu h ht
  refine ⟨hregs, hconfined.tlb, ?_⟩
  rw [← hconfined.special]
  exact ⟨rfl, rfl, rfl, rfl, rfl, rfl, rfl, rfl, rfl, rfl, rfl, rfl, rfl, rfl, rfl, rfl, rfl, rfl, rfl, hconfined.cps⟩

end Sys2Proof.Machine

namespace Sys2Proof.Machine

/-! ### The Stack Pointer and its shadow (10_state.md R29) -/

theorem State.SamePointer.trans {s t u : State} (h : s.SamePointer t) (k : t.SamePointer u) : s.SamePointer u :=
  ⟨k.1.trans h.1, k.2.1.trans h.2.1, k.2.2.trans h.2.2⟩

/-- The shadow is valid, and a copy of bits 8 to 2 of the Stack Pointer. -/
def State.ShadowSet (s : State) : Prop := s.spValid = true ∧ s.spShadow.toNat = s.sp.toNat / 4 % 128

theorem State.SamePointer.shadowSet {s t : State} (h : s.SamePointer t) (k : s.ShadowSet) : t.ShadowSet := by
  obtain ⟨hsp, hvalid, hshadow⟩ := h
  rw [State.ShadowSet, hsp, hvalid, hshadow]; exact k

theorem WriteClass.setsShadow_iff (c : WriteClass) : c.setsShadow = true ↔ c = .alu ∨ c = .aluCca := by
  cases c <;> decide

/-- Bits 8 to 2 of a word. -/
theorem extractLsb'_shadow (v : Word) : (v.extractLsb' 2 7).toNat = v.toNat / 4 % 128 := by
  rw [BitVec.extractLsb'_toNat, Nat.shiftRight_eq_div_pow]

theorem State.putGR_pointer (s : State) (c : WriteClass) (v : Word) : s.putGR c 1#8 v =
    { s with
      sp := v
      spShadow := if c.setsShadow then v.extractLsb' 2 7 else s.spShadow
      spValid := c.setsShadow
      hzNext := { s.hzNext with sp := true } } := if_pos rfl

/-- A write of another register leaves the Stack Pointer and its shadow. -/
theorem State.putGR_samePointer (s : State) (c : WriteClass) {n : Byte} (v : Word) (hn : n ≠ 1#8) :
    s.SamePointer (s.putGR c n v) := by
  rw [State.putGR, if_neg hn]
  split_ifs <;> exact ⟨rfl, rfl, rfl⟩

theorem State.putGR_shadowSet (s : State) {c : WriteClass} (v : Word) (hc : c.setsShadow = true) :
    (s.putGR c 1#8 v).ShadowSet := by
  rw [s.putGR_pointer, State.ShadowSet, hc]
  exact ⟨rfl, extractLsb'_shadow v⟩

/-! ### The instructions that set the shadow, with the Stack Pointer as destination -/

section
variable {s t : State} {i : Instr} {rc ra : Byte} {b : Opnd} {c : WriteClass}

/-- An instruction's own rule leaves the Stack Pointer and its shadow as a write of its destination in class `c` does;
the fields it uses are among those of a three-operand instruction. -/
def State.WritesPointerAs (s : State) (c : WriteClass) (i : Instr) (rc ra : Byte) (b : Opnd) : Prop := ∃ us body v,
  (∀ u ∈ us, ∀ d, ∃ w ∈ usesRRM d rc ra b, w.pos = u.pos ∧ w.field = u.field) ∧
    exec i s = finish i.opcode (s.guarded false us body) ∧ Ends (s.putGR c (s.absReg .c rc) v).SamePointer body

theorem usesRRM_fields (c : WriteClass) (rc ra : Byte) (b : Opnd) :
    ∀ u ∈ usesRRM c rc ra b, ∀ d, ∃ w ∈ usesRRM d rc ra b, w.pos = u.pos ∧ w.field = u.field := by
  intro u hu d
  cases b with
  | reg r =>
    obtain rfl | rfl | rfl : u = ⟨.a, ra, .src⟩ ∨ u = ⟨.b, r, .src⟩ ∨ u = ⟨.c, rc, .dst c⟩ := by
      simpa [usesRRM, opndUses] using hu
    all_goals simp [usesRRM, opndUses]
  | imm k =>
    obtain rfl | rfl : u = ⟨.a, ra, .src⟩ ∨ u = ⟨.c, rc, .dst c⟩ := by simpa [usesRRM, opndUses] using hu
    all_goals simp [usesRRM, opndUses]

/-- Without a protected register only a model fault can stop an instruction for its register fields. -/
theorem State.regStop_unprotected {us : List RegUse} (hu : ∀ u ∈ us, s.useProtected u = false) :
    s.regStop false us = none ∨ ∃ f, s.regStop false us = some (.fault f) := by
  have hany : us.any s.useProtected = false := by simpa using hu
  rw [State.regStop, hany, if_neg (by decide)]
  cases us.findSome? s.useFault with
  | some f => exact .inr ⟨f, rfl⟩
  | none => cases s.ccaBoth us with
    | true => exact .inr ⟨_, rfl⟩
    | false => exact .inl rfl

/-- Without a protected register an instruction that answers a next state has followed its rule. -/
theorem finish_guarded_next {op : Byte} {us : List RegUse} {body : Except Stop Done}
    (hu : ∀ u ∈ us, s.useProtected u = false) (h : finish op (s.guarded false us body) = .next t) :
    finish op body = .next t := by
  rcases State.regStop_unprotected hu with hr | ⟨f, hr⟩
  · rwa [State.guarded_none _ hr] at h
  · rw [State.guarded, hr] at h; cases h

theorem State.takeInstTrap_samePointer {s t : State} {op vn : Byte} {k : TrapKind}
    (h : s.takeInstTrap op vn k = .next t) : s.SamePointer t := by
  obtain ⟨hsp, hvalid, hshadow⟩ := State.takeTrap_samePointer (State.takeTrap_of_takeInstTrap h)
  exact ⟨hsp, hvalid, hshadow⟩

theorem Done.advance_samePointer (d : Done) : d.state.SamePointer d.advance := by
  cases d <;> exact ⟨rfl, rfl, rfl⟩

/-- An instruction that completes, or traps, leaves the pointer as its rule does. -/
theorem finish_samePointer {u : State} {op : Byte} {r : Except Stop Done} (hr : Ends u.SamePointer r)
    (h : finish op r = .next t) : u.SamePointer t := by
  rcases finish_next h with ⟨d, rfl, rfl⟩ | ⟨vn, k, v, rfl, htrap⟩
  · exact State.SamePointer.trans hr d.advance_samePointer
  · exact State.SamePointer.trans hr (State.takeInstTrap_samePointer htrap)

theorem State.WritesPointerAs.next (h : s.WritesPointerAs c i rc ra b) (h1 : s.absReg .c rc = 1#8) {d : WriteClass}
    (hr : s.regStop false (usesRRM d rc ra b) = none) (hx : exec i s = .next t) :
    ∃ v, (s.putGR c 1#8 v).SamePointer t := by
  obtain ⟨us, body, v, hus, he, hbody⟩ := h
  rw [he] at hx
  rw [h1] at hbody
  refine ⟨v, finish_samePointer hbody (finish_guarded_next (fun u hu => ?_) hx)⟩
  obtain ⟨⟨p, f, w⟩, hw, hp, hf⟩ := hus u hu d
  have hfree := ((State.regStop_none hr).2 _ hw).1
  obtain ⟨p', f', w'⟩ := u
  obtain rfl : p = p' := hp
  obtain rfl : f = f' := hf
  rw [State.useProtected] at hfree ⊢
  exact hfree

/-! ### The forms -/

theorem writesPointer_sum {x : Sum} {bad : Bool}
    (he : exec i s = finish i.opcode (s.guarded false (usesRRM c rc ra b)
      (if bad then .error (.trap 2 .next (s.afterSum c rc x)) else .ok (.seq (s.afterSum c rc x))))) :
    s.WritesPointerAs c i rc ra b := by
  have written : (s.putGR c (s.absReg .c rc) x.r).SamePointer (s.afterSum c rc x) :=
    ⟨State.setVNZC_sp .., State.setVNZC_spValid .., State.setVNZC_spShadow ..⟩
  refine ⟨_, _, x.r, usesRRM_fields c rc ra b, he, ?_⟩
  cases bad <;> exact written

theorem writesPointer_seq {us : List RegUse} {u : State} {v : Word}
    (hu : (s.putGR c (s.absReg .c rc) v).SamePointer u)
    (he : exec i s = finish i.opcode (s.guarded false us (.ok (.seq u))))
    (hus : ∀ u ∈ us, ∀ d, ∃ w ∈ usesRRM d rc ra b, w.pos = u.pos ∧ w.field = u.field) :
    s.WritesPointerAs c i rc ra b := ⟨us, _, v, hus, he, hu⟩

theorem State.afterStep_samePointer (s : State) (rc : Byte) (x : Sum) (w q : Word) :
    (s.putGR .alu (s.absReg .c rc) w).SamePointer (s.afterStep rc x w q) :=
  ⟨State.setVNZC_sp .., State.setVNZC_spValid .., State.setVNZC_spShadow ..⟩

theorem State.stepped_samePointer (s : State) (rc : Byte) (x : Sum) (w q : Word) (d : Bool) :
    (s.putGR .alu (s.absReg .c rc) w).SamePointer ((s.afterStep rc x w q).setDF d) :=
  (s.afterStep_samePointer rc x w q).trans ⟨State.setDF_sp .., State.setDF_spValid .., State.setDF_spShadow ..⟩

end

theorem aluForms_writePointer (rc ra : Byte) (b : Opnd) (s : State) :
    ∀ i ∈ aluForms rc ra b, ∃ c : WriteClass, c.setsShadow = true ∧ s.WritesPointerAs c i rc ra b := by
  have alu : ∀ {i}, s.WritesPointerAs .alu i rc ra b →
      ∃ c : WriteClass, c.setsShadow = true ∧ s.WritesPointerAs c i rc ra b := fun h => ⟨_, rfl, h⟩
  have cca : ∀ {i}, s.WritesPointerAs .aluCca i rc ra b →
      ∃ c : WriteClass, c.setsShadow = true ∧ s.WritesPointerAs c i rc ra b := fun h => ⟨_, rfl, h⟩
  have fields := usesRRM_fields .alu rc ra b
  have fieldsDiv0 : ∀ u ∈ opndUses b ++ [(⟨.c, rc, .dst .alu⟩ : RegUse)], ∀ d, ∃ w ∈ usesRRM d rc ra b,
      w.pos = u.pos ∧ w.field = u.field := fun u hu => fields u (by
    simp only [usesRRM, List.append_assoc] at hu ⊢
    exact List.mem_append_right _ hu)
  have step : ∀ {i x w q}, exec i s = finish i.opcode (s.guarded false (usesRRM .alu rc ra b)
      (.ok (.seq (s.afterStep rc x w q)))) → s.WritesPointerAs .alu i rc ra b :=
    fun he => writesPointer_seq (s.afterStep_samePointer ..) he fields
  have divide : ∀ {i x w q d}, exec i s = finish i.opcode (s.guarded false (usesRRM .alu rc ra b)
      (.ok (.seq ((s.afterStep rc x w q).setDF d)))) → s.WritesPointerAs .alu i rc ra b :=
    fun he => writesPointer_seq (s.stepped_samePointer ..) he fields
  have logical : ∀ {i r}, exec i s = finish i.opcode (s.guarded false (usesRRM .alu rc ra b)
      (.ok (.seq ((s.setDest .alu rc r).setNZ r)))) → s.WritesPointerAs .alu i rc ra b :=
    fun he => writesPointer_seq ⟨State.setNZ_sp .., State.setNZ_spValid .., State.setNZ_spShadow ..⟩ he fields
  simp only [aluForms, List.forall_mem_cons]
  exact ⟨cca (writesPointer_sum rfl), alu (writesPointer_sum rfl), alu (writesPointer_sum rfl),
    alu (writesPointer_sum rfl), alu (writesPointer_sum rfl), alu (writesPointer_sum rfl),
    cca (writesPointer_sum rfl), alu (writesPointer_sum rfl), alu (writesPointer_sum rfl),
    alu (writesPointer_sum rfl), alu (writesPointer_sum rfl), alu (writesPointer_sum rfl),
    alu (writesPointer_sum rfl), alu (writesPointer_sum rfl), alu (writesPointer_sum rfl),
    alu (writesPointer_sum rfl), alu (writesPointer_sum rfl), alu (writesPointer_sum rfl),
    alu (step rfl), alu (step rfl), alu (step rfl),
    alu (writesPointer_seq (s.stepped_samePointer ..) rfl fieldsDiv0), alu (divide rfl), alu (divide rfl),
    alu (writesPointer_seq ⟨State.setVNZC_sp .., State.setVNZC_spValid .., State.setVNZC_spShadow ..⟩ rfl fields),
    alu (logical rfl), alu (logical rfl), alu (logical rfl), alu (logical rfl), alu (logical rfl), alu (logical rfl),
    alu (logical rfl), alu (logical rfl), fun _ h => nomatch h⟩

theorem plainForms_writePointer (rc ra : Byte) (b : Opnd) (s : State) :
    ∀ i ∈ plainForms rc ra b, s.WritesPointerAs .other i rc ra b := by
  have plain : ∀ {i r}, exec i s = finish i.opcode (s.guarded false (usesRRM .other rc ra b)
      (.ok (.seq (s.setDest .other rc r)))) → s.WritesPointerAs .other i rc ra b :=
    fun he => writesPointer_seq ⟨rfl, rfl, rfl⟩ he (usesRRM_fields .other rc ra b)
  simp only [plainForms, List.forall_mem_cons]
  exact ⟨plain rfl, plain rfl, plain rfl, plain rfl, plain rfl, plain rfl, plain rfl, plain rfl, plain rfl, plain rfl,
    plain rfl, plain rfl, plain rfl, plain rfl, plain rfl, plain rfl, plain rfl, plain rfl, plain rfl,
    fun _ h => nomatch h⟩

/-! ### Every instruction -/

theorem mem_aluForms_of_aluDest {i : Instr} {rc : Byte} (h : aluDest i = some rc) : ∃ ra b, i ∈ aluForms rc ra b := by
  unfold aluDest at h
  split at h <;> cases h <;> simp [aluForms]

theorem notMem_aluForms_of_aluDest {i : Instr} (h : aluDest i = none) (rc ra : Byte) (b : Opnd) :
    i ∉ aluForms rc ra b := by
  intro hi
  have hall : ∀ j ∈ aluForms rc ra b, aluDest j = some rc := by simp [aluForms, aluDest]
  rw [hall i hi] at h; cases h

/-- What an instruction may do to the Stack Pointer and its shadow: leave them, set them together, or make the shadow
invalid. -/
def State.PointerAfter (s : State) (i : Instr) (t : State) : Prop :=
  s.SamePointer t ∨ (∃ rc, aluDest i = some rc ∧ s.absReg .c rc = 1#8) ∧ t.ShadowSet ∨
    aluDest i = none ∧ t.spValid = false ∧ t.spShadow = s.spShadow

theorem State.PointerAfter.trans {s t u : State} {i : Instr} (h : s.PointerAfter i t) (k : t.SamePointer u) :
    s.PointerAfter i u := by
  rcases h with h | ⟨hi, h⟩ | ⟨hi, hvalid, hshadow⟩
  · exact .inl (h.trans k)
  · exact .inr (.inl ⟨hi, k.shadowSet h⟩)
  · exact .inr (.inr ⟨hi, k.2.1.trans hvalid, k.2.2.trans hshadow⟩)

/-- A write of a register that an instruction may write. -/
theorem State.PointerAfter.putGR {s t : State} {i : Instr} {c : WriteClass} {n : Byte} (h : s.PointerAfter i t)
    (hw : s.MayWrite i c n) (v : Word) : s.PointerAfter i (t.putGR c n v) := by
  by_cases hn : n = 1#8
  · have hi := hw.pointer hn
    subst hn
    cases hc : c.setsShadow with
    | true =>
      rw [hc, if_pos rfl] at hi
      exact .inr (.inl ⟨hi, t.putGR_shadowSet v hc⟩)
    | false =>
      rw [hc] at hi
      rcases h with h | ⟨⟨rc, hrc, -⟩, -⟩ | ⟨-, -, h⟩
      · refine .inr (.inr ⟨hi, ?_⟩)
        rw [State.putGR_pointer, hc]; exact ⟨rfl, h.2.2⟩
      · rw [show aluDest i = none from hi] at hrc; cases hrc
      · refine .inr (.inr ⟨hi, ?_⟩)
        rw [State.putGR_pointer, hc]; exact ⟨rfl, h⟩
  · exact h.trans (t.putGR_samePointer c v hn)

theorem State.Updated.pointerAfter {s t : State} {i : Instr} (h : s.Updated (s.MayWrite i) t) : s.PointerAfter i t := by
  induction h with
  | start => exact .inl ⟨rfl, rfl, rfl⟩
  | register _ c n v hw ih => exact ih.putGR hw v
  | @special t _ sa v hp ih =>
    obtain ⟨cps, alu, sr, hz, w, o, k, he⟩ := t.writeSpecial_eq sa v
    rw [he]; exact ih.trans ⟨rfl, rfl, rfl⟩
  | tlb _ n v hp ih => exact ih.trans ⟨State.writeTlb_sp .., State.writeTlb_spValid .., State.writeTlb_spShadow ..⟩
  | context _ inv hp ih => exact ih.trans ⟨rfl, rfl, rfl⟩
  | flags _ a _ ih => exact ih.trans ⟨rfl, rfl, rfl⟩
  | hardware _ r hr _ ih => exact ih.trans ⟨rfl, rfl, rfl⟩
  | coprocessor _ b ih => exact ih.trans ⟨rfl, rfl, rfl⟩
  | memory _ m _ ih => exact ih.trans ⟨rfl, rfl, rfl⟩
  | unseen _ acc usage btc pre early hz event left load mode n fresh ih => exact ih.trans ⟨rfl, rfl, rfl⟩

/-- The trap of an access that an interrupt return makes again leaves the pointer as it is. -/
theorem State.takeRestartTrap_samePointer {s t : State} {vn : Byte} (h : s.takeRestartTrap vn = .next t) :
    s.SamePointer t := by
  obtain ⟨hsp, hvalid, hshadow⟩ := State.takeTrap_samePointer h
  exact ⟨hsp, hvalid, hshadow⟩

theorem exec_pointerAfter {i : Instr} {s t : State} (h : exec i s = .next t) : s.PointerAfter i t := by
  rcases exec_next h with ⟨d, hd, rfl⟩ | ⟨u, vn, k, hu, htrap⟩ | ⟨u, vn, -, hu, htrap⟩
  · exact hd.pointerAfter.trans d.advance_samePointer
  · exact hu.pointerAfter.trans (State.takeInstTrap_samePointer htrap)
  · exact hu.pointerAfter.trans (State.takeRestartTrap_samePointer htrap)

/-- Settles O34: by the rule of a register write, the one register write of each form, and the updates that any
instruction is made of. -/
theorem stackPointerShadow : Obligations.StackPointerShadow := by
  refine ⟨fun s c n v => ⟨?_, fun hn => (s.putGR_samePointer c v hn).2⟩, fun rc ra b s t h1 => ⟨?_, ?_⟩, ?_⟩
  · rintro rfl
    rw [s.putGR_pointer]
    refine ⟨by cases c <;> rfl, fun hc => ?_⟩
    rw [if_pos (c.setsShadow_iff.2 hc), extractLsb'_shadow]
  · intro i hi hr hx
    obtain ⟨c, hc, hw⟩ := aluForms_writePointer rc ra b s i hi
    obtain ⟨v, hsame⟩ := hw.next h1 hr hx
    exact hsame.shadowSet (s.putGR_shadowSet v hc)
  · intro i hi hr hx
    obtain ⟨v, hsame⟩ := (plainForms_writePointer rc ra b s i hi).next h1 hr hx
    rw [hsame.2.1, s.putGR_pointer]; rfl
  · intro i s t h
    rcases exec_pointerAfter h with hsame | ⟨⟨rc, hrc, h1⟩, hset⟩ | ⟨hi, hinvalid⟩
    · exact .inl hsame
    · obtain ⟨ra, b, hmem⟩ := mem_aluForms_of_aluDest hrc
      exact .inr (.inl ⟨⟨rc, ra, b, hmem, h1⟩, hset⟩)
    · exact .inr (.inr ⟨notMem_aluForms_of_aluDest hi, hinvalid⟩)

end Sys2Proof.Machine

namespace Sys2Proof.Machine

/-! ### The invariant under the updates of an instruction (10_state.md R36, R40, R45, R66, R82) -/

theorem alignWord_reserved (w : Word) : alignWord w &&& 3 = 0 := and_and_eq_zero w (by decide)

/-- The word addresses are the multiples of four. -/
theorem and_three_eq_zero (w : Word) : w &&& 3 = 0 ↔ w.toNat % 4 = 0 := by
  rw [← BitVec.toNat_inj, BitVec.toNat_and, show (3 : Word).toNat = 2 ^ 2 - 1 from rfl, Nat.and_two_pow_sub_one_eq_mod]
  rfl

theorem add_four_reserved {w : Word} (h : w &&& 3 = 0) : (w + 4) &&& 3 = 0 := by
  have h4 : w.toNat % 4 = 0 := (and_three_eq_zero w).1 h
  exact (and_three_eq_zero _).2 (by
    rw [BitVec.toNat_add, show (4 : Word).toNat = 4 from rfl]; omega)

/-- A value moved to a special register without the bits that R455 does not write. -/
theorem SpecialRegs.ReservedZero.put {r : SpecialRegs} (h : r.ReservedZero) (n : Nat) (v : Word) :
    (r.put n (v &&& writableBits n)).ReservedZero := by
  have masked : ∀ {k m : Word}, k &&& m = 0 → v &&& k &&& m = 0 := fun hk => and_and_eq_zero v hk
  unfold SpecialRegs.put
  split
  · exact { h with vab := masked rfl }
  · exact { h with ops := masked rfl }
  · exact { h with vab := h.vab }
  · exact { h with vab := h.vab }
  · exact { h with chc := masked rfl }
  · exact { h with rbp := masked rfl }
  · exact { h with tmc := masked rfl }
  · exact { h with tmr := masked rfl }
  · exact { h with pc0 := masked rfl }
  · exact { h with pc1 := masked rfl }
  · exact { h with pc2 := masked rfl }
  · exact { h with mmu := masked rfl }
  · exact { h with lru := masked rfl }
  · exact { h with rsn := masked rfl }
  · exact { h with vab := h.vab }
  · exact { h with rmc0 := masked rfl }
  · exact { h with vab := h.vab }
  · exact { h with rmc1 := masked rfl }
  · exact { h with spc0 := masked rfl }
  · exact { h with spc1 := masked rfl }
  · exact { h with spc2 := masked rfl }
  · exact { h with iba0 := masked rfl }
  · exact { h with ibc0 := masked rfl }
  · exact { h with iba1 := masked rfl }
  · exact { h with ibc1 := masked rfl }
  · exact { h with ipc := masked rfl }
  · exact { h with ipa := masked rfl }
  · exact { h with ipb := masked rfl }
  · exact { h with vab := h.vab }
  · exact { h with fpe := masked rfl }
  · exact { h with inte := masked rfl }
  · exact { h with fps := masked rfl }
  · exact { h with exop := masked rfl }
  · exact h

namespace State.Sound

variable {s : State}

theorem putGR (h : s.Sound) (c : WriteClass) (n : Byte) (v : Word) : (s.putGR c n v).Sound := by
  constructor
  · rw [State.putGR_pc]; exact h.pc
  · rw [State.putGR_npc]; exact h.npc
  · rw [State.putGR_lastpc]; exact h.lastpc
  · rw [State.putGR_idmem]; exact h.idmem
  · rw [State.putGR_imem]; exact h.imem
  · rw [State.putGR_irom]; exact h.irom
  · rw [State.putGR_cps]; exact h.cps
  · rw [State.putGR_alu]; exact h.alu
  · rw [State.putGR_sr]; exact h.special
  · intro k
    rw [State.tlbWord, State.putGR_tlb]; exact h.tlb k

/-- PC0 to PC2 frozen at addresses of the pipeline. -/
theorem freezePcs (h : s.sr.ReservedZero) : s.freezePcs.sr.ReservedZero :=
  { h with pc0 := alignWord_reserved _, pc1 := alignWord_reserved _, pc2 := alignWord_reserved _ }

theorem writeCps (h : s.Sound) (v : Word) : (s.writeCps v).Sound := by
  obtain ⟨w, o, n, he⟩ := s.writeCps_eq v
  have hcps : s.statusWord v &&& 0xFFFE4000 = 0 :=
    or_and_eq_zero (and_and_eq_zero _ (by decide)) (and_and_eq_zero _ (by decide))
  have hsr : (if s.freezes v then s.freezePcs.sr else s.sr).ReservedZero := by
    split
    · exact freezePcs h.special
    · exact h.special
  rw [he]
  exact { h with cps := hcps, special := hsr }

theorem specialHazard (h : s.Sound) (n : Nat) (old : Word) : (s.specialHazard n old).Sound := by
  obtain ⟨hz, he⟩ := s.specialHazard_eq n old
  rw [he]; exact { h with pc := h.pc }

theorem writeSpecial (h : s.Sound) (sa : Byte) (v : Word) : (s.writeSpecial sa v).Sound := by
  dsimp only [State.writeSpecial]
  split_ifs
  · exact h.writeCps v
  · exact { h with special := { h.special with cfg := and_and_eq_zero v (by decide) } }
  · exact { h with alu := and_and_eq_zero v (by decide) }
  · exact { h with alu := (putField_and _ _ (by decide)).trans h.alu }
  · exact { h with alu := (putField_and _ _ (by decide)).trans h.alu }
  · exact { h with special := { h.special with chc := (putField_and _ _ (by decide)).trans h.special.chc } }
  · have hput : ({ s with sr := s.sr.put sa.toNat (v &&& writableBits sa.toNat) } : State).Sound :=
      { h with special := h.special.put _ v }
    exact hput.specialHazard _ _

/-- Word 1 of a TLB entry is written without its reserved bits (R82). -/
theorem writeTlb (h : s.Sound) (n : Nat) (v : Word) : (s.writeTlb n v).Sound := by
  have hmask : ∀ k, n = 2 * k + 1 → v &&& tlbMask n &&& 0x0000033E = 0 := fun k hk => by
    rw [tlbMask, if_neg (by omega)]; exact and_and_eq_zero v (by decide)
  have hword : ∀ k, (s.tlb.setIfInBounds n (v &&& tlbMask n)).getD (2 * k + 1) 0 &&& 0x0000033E = 0 := fun k => by
    by_cases hn : n < 128
    · rw [vector_getD_set _ _ _ _ _ hn]
      split
      next hk => exact hmask k hk.symm
      · exact h.tlb k
    · rw [Vector.setIfInBounds_eq_of_size_le (by omega)]
      exact h.tlb k
  unfold State.writeTlb
  dsimp only
  split
  · exact { h with tlb := hword }
  · exact { h with tlb := hword }

theorem restoreContext (h : s.Sound) (inv : Bool) : (s.restoreContext inv).Sound := by
  have hcps : (if s.mm then putBit s.cps 16 false else s.sr.ops &&& 0x0000BFFF) &&& 0xFFFE4000 = 0 := by
    split
    · exact putBit_and_eq_zero _ _ (by decide) (by decide) h.cps
    · exact and_and_eq_zero _ (by decide)
  exact { h with pc := alignWord_reserved _, npc := alignWord_reserved _, cps := hcps }

end State.Sound

/-- The updates that instructions are made of keep the invariant. -/
theorem State.Updated.sound {s t : State} {W : WriteClass → Byte → Prop} (hs : s.Sound) (h : s.Updated W t) :
    t.Sound := by
  induction h with
  | start => exact hs
  | register _ c n v _ ih => exact ih.putGR c n v
  | flags _ a ha ih => exact { ih with alu := ha ih.alu }
  | hardware _ r _ h0 ih => exact { ih with special := h0 ih.special }
  | coprocessor _ b ih => exact { ih with cps := putBit_and_eq_zero _ _ (by decide) (by decide) ih.cps }
  | memory _ m hm ih => exact { ih with idmem := hm ih.idmem }
  | unseen _ acc usage btc pre early hz event left load mode n fresh ih => exact { ih with pc := ih.pc }
  | special _ sa v _ ih => exact ih.writeSpecial sa v
  | tlb _ n v _ ih => exact ih.writeTlb n v
  | context _ inv _ ih => exact ih.restoreContext inv

end Sys2Proof.Machine

namespace Sys2Proof.Machine

/-- Every state that an outcome goes on in has a property. -/
def Leads (Q : State → Prop) (o : Out) : Prop := ∀ t, o = .next t → Q t

theorem leads_next {Q : State → Prop} {t : State} (h : Q t) : Leads Q (.next t) := by
  intro u hu; cases hu; exact h

theorem leads_fault (Q : State → Prop) (f : Fault) : Leads Q (.fault f) := by
  intro u hu; cases hu

theorem leads_refused (Q : State → Prop) (r : Refusal) : Leads Q (.refused r) := by
  intro u hu; cases hu

namespace State.Sound

variable {s : State}

/-! ### Completing an instruction (10_state.md R37) -/

/-- CPS with its TP bit written. -/
theorem traced (h : s.Sound) (b : Bool) : putBit s.cps 12 b &&& 0xFFFE4000 = 0 :=
  putBit_and_eq_zero _ _ (by decide) (by decide) h.cps

theorem advance {d : Done} (h : d.state.Sound) : d.advance.Sound := by
  cases d with
  | seq s => exact { h with pc := h.npc, npc := add_four_reserved h.npc, lastpc := h.pc, cps := traced h _ }
  | branch s a => exact { h with pc := h.npc, npc := alignWord_reserved a, lastpc := h.pc, cps := traced h _ }
  | status s => exact { h with pc := h.npc, npc := add_four_reserved h.npc, lastpc := h.pc, cps := traced h _ }
  | returned s => exact { h with pc := h.pc }

/-! ### Entering a trap (60_exceptions.md R680, R700) -/

theorem recordPcs (h : s.Sound) {p0 p1 p2 : Word} (h0 : p0 &&& 3 = 0) (h1 : p1 &&& 3 = 0) (h2 : p2 &&& 3 = 0) :
    (s.recordPcs p0 p1 p2).Sound := by
  unfold State.recordPcs
  split_ifs
  · exact h
  · exact { h with special := { h.special with pc0 := h0, pc1 := h1, pc2 := h2 } }
  · exact { h with special := { h.special with
      pc0 := alignWord_reserved _, pc1 := alignWord_reserved _, pc2 := alignWord_reserved _ } }

theorem lastAddress (h : s.Sound) : s.lastAddress.1 &&& 3 = 0 ∧ s.lastAddress.2.Sound := by
  unfold State.lastAddress
  split
  · exact ⟨h.lastpc, h⟩
  · exact ⟨alignWord_reserved _, { h with pc := h.pc }⟩

theorem pcTriple (h : s.Sound) (k : TrapKind) : (s.pcTriple k).1 &&& 3 = 0 ∧ (s.pcTriple k).2.1 &&& 3 = 0 ∧
    (s.pcTriple k).2.2.1 &&& 3 = 0 ∧ (s.pcTriple k).2.2.2.Sound := by
  obtain ⟨hlast, hdrawn⟩ := h.lastAddress
  cases k with
  | next => exact ⟨add_four_reserved h.npc, h.npc, h.pc, h⟩
  | async => exact ⟨h.npc, h.pc, hlast, hdrawn⟩
  | curr => exact ⟨h.npc, h.pc, hlast, hdrawn⟩

theorem saveContext (h : s.Sound) (k : TrapKind) : (s.saveContext k).Sound := by
  obtain ⟨h0, h1, h2, hdrawn⟩ := h.pcTriple k
  have hrecord := hdrawn.recordPcs h0 h1 h2
  have hspecial : SpecialRegs.ReservedZero { ((s.pcTriple k).2.2.2.recordPcs _ _ _).sr with
      spc0 := (s.pcTriple k).1, spc1 := (s.pcTriple k).2.1, spc2 := (s.pcTriple k).2.2.1 } :=
    { hrecord.special with spc0 := h0, spc1 := h1, spc2 := h2 }
  unfold State.saveContext
  dsimp only
  split
  · exact { hrecord with special := hspecial, cps := traced hrecord _ }
  · exact { hrecord with special := hspecial }

/-- Monitor mode and WARN handlers start at address 16. -/
theorem first_reserved : (16 : Word) &&& 3 = 0 := by decide

theorem second_reserved : (20 : Word) &&& 3 = 0 := by decide

theorem inMonitor (h : s.Sound) (vn : Byte) : (s.inMonitor vn).Sound :=
  have byte : ∀ n : Byte, n.setWidth 32 &&& (0xFFFFFF00 : Word) = 0 := by decide
  { h with
    pc := first_reserved
    npc := second_reserved
    special := { h.special with rsn := byte vn }
    cps := putBit_and_eq_zero _ _ (by decide) (by decide) h.cps }

/-- Handlers start at word addresses (R643, R644). -/
theorem handler_reserved (s : State) (vn : Byte) : (s.handler vn).1 &&& 3 = 0 := by
  have block : ∀ n : Byte, (n.setWidth 32 <<< 8 : Word) &&& 3 = 0 := by decide
  unfold State.handler
  split
  · exact alignWord_reserved _
  · exact or_and_eq_zero (and_and_eq_zero _ (by decide)) (block vn)

theorem fieldOf_low_reserved (w : Word) {n : Nat} {m : Word} (hm : BitVec.ofNat 32 (2 ^ n - 1) &&& m = 0) :
    fieldOf w 0 n &&& m = 0 := and_and_eq_zero _ hm

theorem and_eq_zero_of_left {x m : Word} (k : Word) (h : x &&& m = 0) : x &&& k &&& m = 0 := by
  rw [BitVec.and_assoc, BitVec.and_comm k m, ← BitVec.and_assoc, h]; exact BitVec.zero_and

theorem switchStatus (h : s.Sound) : s.switchStatus.Sound :=
  { h with
    special := { h.special with ops := fieldOf_low_reserved _ (by decide) }
    cps := or_and_eq_zero (and_eq_zero_of_left _ h.cps) (by decide) }

theorem atHandler (h : s.Sound) (vn : Byte) : (s.atHandler vn).Sound :=
  have hswitch := h.switchStatus
  { hswitch with
    pc := handler_reserved s vn
    npc := add_four_reserved (handler_reserved s vn)
    cps := putBit_and_eq_zero _ _ (by decide) (by decide) hswitch.cps }

theorem monitorAgain (h : s.Sound) : s.monitorAgain.Sound := { h with pc := first_reserved, npc := second_reserved }

theorem takeTrap (h : s.Sound) (vn : Byte) (k : TrapKind) : Leads State.Sound (s.takeTrap vn k) := by
  intro t ht
  rcases State.takeTrap_next ht with rfl | rfl
  · exact (h.saveContext k).inMonitor vn
  · exact (h.saveContext k).atHandler vn

theorem exop (h : s.Sound) {w : Word} (hw : w &&& 0xFFFFFF00 = 0) (n : Nat) :
    ({ s with sr := { s.sr with exop := w }, fresh := n } : State).Sound :=
  { h with special := { h.special with exop := hw } }

theorem takeInstTrap (h : s.Sound) (op vn : Byte) (k : TrapKind) : Leads State.Sound (s.takeInstTrap op vn k) := by
  have byte : ∀ n : Byte, n.setWidth 32 &&& (0xFFFFFF00 : Word) = 0 := by decide
  intro t ht
  exact (h.exop (byte op) s.fresh).takeTrap vn k t (State.takeTrap_of_takeInstTrap ht)

theorem takeRestartTrap (h : s.Sound) (vn : Byte) : Leads State.Sound (s.takeRestartTrap vn) :=
  (h.exop (and_and_eq_zero _ (by decide)) (s.fresh + 1)).takeTrap vn .async

theorem takeFetchTrap (h : s.Sound) (vn : Byte) : Leads State.Sound (s.takeFetchTrap vn) := by
  unfold State.takeFetchTrap
  split
  · exact leads_next h.monitorAgain
  · exact h.takeTrap vn .curr

theorem takeWarn (h : s.Sound) : s.takeWarn.Sound := by
  have hmode : ({ s with warnPending := false, opMode := warnMode s.cur.cntl } : State).Sound := { h with pc := h.pc }
  unfold State.takeWarn
  dsimp only
  split_ifs
  · exact hmode.monitorAgain
  · rw [State.monitorTrap_eq]
    exact (hmode.saveContext .async).inMonitor 16
  · have hswitch := (hmode.saveContext .async).switchStatus
    exact { hswitch with
      pc := first_reserved
      npc := second_reserved
      cps := putBit_and_eq_zero _ _ (by decide) (by decide) hswitch.cps }

/-! ### Executing an instruction -/

theorem exec (h : s.Sound) (i : Instr) : Leads State.Sound (exec i s) := by
  intro t ht
  rcases exec_next ht with ⟨d, hd, rfl⟩ | ⟨u, vn, k, hu, htrap⟩ | ⟨u, vn, -, hu, htrap⟩
  · exact advance (hd.sound h)
  · exact (hu.sound h).takeInstTrap i.opcode vn k t htrap
  · exact (hu.sound h).takeRestartTrap vn t htrap

theorem finish {op : Byte} {r : Except Stop Done} (h : Ends State.Sound r) : Leads State.Sound (finish op r) := by
  intro t ht
  rcases finish_next ht with ⟨d, rfl, rfl⟩ | ⟨vn, k, u, rfl, htrap⟩
  · exact advance h
  · exact takeInstTrap h op vn k t htrap

theorem takeEmulation (h : s.Sound) (op vn : Byte) (w : Word) : Leads State.Sound (s.takeEmulation op vn w) := by
  have hset : (s.setPointers (cField w) (aField w) (bField w)).Sound :=
    ((State.Updated.start (W := fun _ _ => True)).setPointers _ _ _).sound h
  refine finish ?_
  rcases s.guarded_cases false (usesNumbers (cField w) (aField w) (bField w))
    (.error (.trap vn .next (s.setPointers (cField w) (aField w) (bField w)))) with ⟨-, hg⟩ | hg | ⟨f, hg⟩ <;> rw [hg]
  · exact hset
  · exact h
  · trivial

theorem executeWord (h : s.Sound) (w : Word) : Leads State.Sound (s.executeWord w Machine.exec) := by
  unfold State.executeWord
  split
  · exact h.exec _
  · exact h.takeInstTrap _ _ _
  · exact h.takeEmulation _ _ _

/-! ### Fetching (20_memory.md R200) -/

theorem lru (h : s.Sound) {w : Word} (hw : w &&& 0xFFFFFF81 = 0) :
    ({ s with sr := { s.sr with lru := w } } : State).Sound := { h with special := { h.special with lru := hw } }

theorem translate (h : s.Sound) (a : Word) (user : Bool) (k : AccessKind) :
    (s.translate a user k).All State.Sound := by
  have hall := (State.Updated.start (s := s) (W := fun _ _ => True)).translate a user k
  generalize s.translate a user k = r at hall
  cases r with
  | ok p io t => exact State.Updated.sound h hall
  | miss t => exact State.Updated.sound h hall
  | violation t => exact State.Updated.sound h hall
  | fault f => trivial

theorem fetchPlace_trap (h : s.Sound) {vn : Byte} {u : State} (hp : s.fetchPlace = .trap vn u) : u.Sound := by
  have early : ∀ l : BitVec 6, (l.setWidth 32 <<< 1 : Word) &&& 0xFFFFFF81 = 0 := by decide
  have hall := h.translate s.pc (!s.fetchSM) .fetch
  unfold State.fetchPlace State.placeOf at hp
  split at hp
  case h_1 =>
    split at hp
    · cases hp
    split at hp
    · cases hp
    split at hp
    case h_2 hmiss => rw [hmiss] at hall; cases hp; exact hall
    case h_3 hviolation => rw [hviolation] at hall; cases hp; exact hall
    all_goals cases hp
  case h_3 => cases hp; exact h.lru (early _)
  all_goals cases hp

theorem fetchOnly (h : s.Sound) {t : State} (hf : s.FetchOnly t) : t.Sound := by
  obtain ⟨l, b, n, p, e, o, rfl⟩ := hf
  exact { h with pc := h.pc }

theorem fetch_trap (h : s.Sound) {vn : Byte} {t : State} (hf : s.fetch = .trap vn t) : t.Sound := by
  unfold State.fetch at hf
  split at hf
  case h_1 u hplace =>
    have hu := h.fetchOnly (State.fetchPlace_fetchOnly hplace)
    dsimp only [State.fetchAt] at hf
    split at hf
    · cases hf
    · split at hf
      · cases hf
        exact hu.fetchOnly u.btcStart_cacheOnly.fetchOnly
      · cases hf
  case h_2 hplace => cases hf; exact h.fetchPlace_trap hplace
  case h_3 => cases hf

/-- The comparison of a breakpoint unit writes its break bit. -/
theorem breakUnit_reserved (met : Bool) {w : Word} (h : w &&& 0xFFFFE000 = 0) :
    (breakUnit met w).1 &&& 0xFFFFE000 = 0 := by
  have break_bit : ∀ b, putBit w 12 b &&& 0xFFFFE000 = 0 := fun b =>
    putBit_and_eq_zero _ _ (by decide) (by decide) h
  unfold breakUnit
  split_ifs
  · exact h
  · exact break_bit false
  · exact break_bit true
  · exact h

theorem breakpoints (h : s.Sound) : s.breakpoints.2.Sound := by
  unfold State.breakpoints
  split
  · exact h
  · exact { h with special := { h.special with
      ibc0 := breakUnit_reserved _ h.special.ibc0, ibc1 := breakUnit_reserved _ h.special.ibc1 } }

theorem takeBreakpoint (h : s.Sound) : Leads State.Sound s.takeBreakpoint := by
  have htrap := h.takeTrap 15 .curr
  unfold State.takeBreakpoint
  split
  next t ht =>
    have hsound := htrap t ht
    split_ifs
    · exact leads_next { hsound with pc := hsound.pc }
    · exact leads_next hsound
  · exact htrap

theorem fetchExecute (h : s.Sound) : Leads State.Sound (s.fetchExecute Machine.exec) := by
  unfold State.fetchExecute
  split
  next vn t ht => exact (h.fetch_trap ht).takeFetchTrap vn
  · exact leads_fault _ _
  next w t ht =>
    have hbreak := (h.fetchOnly (State.fetch_fetchOnly ht)).breakpoints
    dsimp only
    split
    · exact hbreak.takeBreakpoint
    · exact hbreak.executeWord w

theorem enterHalt (h : s.Sound) : Leads State.Sound s.enterHalt := by
  unfold State.enterHalt
  split
  next vn t ht =>
    have htrap := (h.fetch_trap ht).takeFetchTrap vn
    split
    next u hu =>
      have hsound := htrap u hu
      exact leads_next { hsound with pc := hsound.pc }
    · exact htrap
  · exact leads_fault _ _
  · exact leads_next { h with pc := h.pc }

/-! ### The decision before an instruction (60_exceptions.md R647, R690) -/

theorem takeDerr (h : s.Sound) (vn : Byte) : Leads State.Sound (s.takeDerr vn) := by
  have hended : ({ s with derrEvent := none } : State).Sound := { h with pc := h.pc }
  unfold State.takeDerr
  dsimp only
  split
  · exact leads_next hended.monitorAgain
  · exact hended.takeTrap vn .async

theorem noteOverwritten {t : State} (h : t.Sound) (s : State) (i : Instr) : (s.noteOverwritten i t).Sound := by
  rcases s.noteOverwritten_cases t i with he | he
  · rw [he]; exact h
  · rw [he]
    exact { h with special := { h.special with
      chc := putBit_and_eq_zero _ _ (by decide) (by decide) h.special.chc } }

theorem overlap (h : s.Sound) (vn : Byte) {run : State → Out}
    (hrun : ∀ u : State, u.Sound → Leads State.Sound (run u)) : Leads State.Sound (s.overlap vn run) := by
  have hone := hrun { s with derrLeft := s.derrLeft - 1 } { h with pc := h.pc }
  rcases s.overlap_cases vn run with he | ⟨i, -, -, -, ⟨t, ht, -, he⟩ | ⟨-, he⟩⟩
  · rw [he]; exact h.takeDerr vn
  · rw [he]; exact leads_next ((hone t ht).noteOverwritten s i)
  · rw [he]; exact hone

theorem decision (h : s.Sound) {run : State → Out} (hrun : ∀ u : State, u.Sound → Leads State.Sound (run u)) :
    Leads State.Sound (s.decision run) := by
  unfold State.decision
  split
  · exact h.overlap _ hrun
  split
  · exact hrun s h
  split
  · exact h.takeTrap _ .async
  split
  · exact leads_next h
  · exact hrun s h

/-! ### The timer and the step (60_exceptions.md R720, 00_scope.md R8) -/

theorem and_high_eq_zero (w : Word) : w &&& 0xFF000000 = 0 ↔ w.toNat < 2 ^ 24 := by
  constructor
  · intro h
    rw [← and_eq_self (k := 0x00FFFFFF) (by decide) h, BitVec.toNat_and]
    exact Nat.lt_of_le_of_lt Nat.and_le_right (by decide)
  · intro h
    refine BitVec.eq_of_getLsbD_eq fun i hi => ?_
    rw [BitVec.getLsbD_and]
    by_cases hi' : i < 24
    · have hmask : ∀ j < 24, (0xFF000000 : Word).getLsbD j = false := by decide
      rw [hmask i hi', Bool.and_false]; exact BitVec.getLsbD_zero.symm
    · rw [BitVec.getLsbD, Nat.testBit_lt_two_pow (h.trans_le (Nat.pow_le_pow_right (by decide) (by omega)))]
      exact BitVec.getLsbD_zero.symm

/-- A count that is not 0 goes down by one within its 24 bits. -/
theorem count_down_reserved {w : Word} (h : w &&& 0xFF000000 = 0) (h0 : w ≠ 0) : (w - 1) &&& 0xFF000000 = 0 := by
  have hpos : 0 < w.toNat := Nat.pos_of_ne_zero fun hw => h0 (BitVec.eq_of_toNat_eq hw)
  rw [and_high_eq_zero] at h ⊢
  rw [BitVec.toNat_sub, show (1 : Word).toNat = 1 from rfl]
  omega

theorem timerTick (h : s.Sound) : s.timerTick.Sound := by
  unfold State.timerTick
  split
  · exact { h with special := { h.special with
      tmc := fieldOf_low_reserved _ (by decide)
      tmr := putBit_and_eq_zero _ _ (by decide) (by decide) h.special.tmr } }
  next h0 =>
    have htmr : (if s.sr.tmc - 1 = 0 && bitOf s.sr.tmr 25 then putBit s.sr.tmr 26 true else s.sr.tmr) &&&
        0xF8000000 = 0 := by
      split
      · exact putBit_and_eq_zero _ _ (by decide) (by decide) h.special.tmr
      · exact h.special.tmr
    exact { h with special := { h.special with tmc := count_down_reserved h.special.tmc h0, tmr := htmr } }

theorem timerTicks (n : Nat) : ∀ {s : State}, s.Sound → (timerTicks n s).Sound := by
  induction n with
  | zero => exact id
  | succ n ih => exact fun h => ih h.timerTick

theorem tickedOut {o : Out} (h : Leads State.Sound o) (c : Nat) : Leads State.Sound (tickedOut o c) := by
  cases o with
  | next t => exact leads_next (timerTicks _ (h t rfl))
  | fault f => exact leads_fault _ f
  | refused r => exact leads_refused _ r

end State.Sound

/-- Settles O57: the values of reset, register by register. -/
theorem resetSound : Obligations.ResetSound where
  pc := rfl
  npc := rfl
  lastpc := rfl
  idmem := rfl
  imem := fun _ h => by cases h
  irom := rfl
  cps := rfl
  alu := rfl
  special := by constructor <;> rfl
  tlb := fun n => by
    have hword : State.reset.tlbWord (2 * n + 1) = 0 := by
      change (Vector.replicate 128 (0 : Word)).getD (2 * n + 1) 0 = 0
      simp only [Vector.getD, Vector.toArray_replicate, Array.getD_eq_getD_getElem?, Array.getElem?_replicate]
      split <;> rfl
    rw [hword]; rfl

theorem State.Sound.resetInput {s : State} (h : s.Sound) : Leads State.Sound s.resetInput := by
  have hreset : ({ State.reset with
      idmem := s.idmem, imem := s.imem, irom := s.irom, holes := s.holes, cur := s.cur, inputs := s.inputs
      fresh := s.fresh } : State).Sound :=
    have r : State.reset.Sound := resetSound
    { r with idmem := h.idmem, imem := h.imem, irom := h.irom }
  unfold State.resetInput
  dsimp only
  split_ifs
  · exact leads_next hreset
  · exact leads_next { hreset with pc := hreset.pc }
  · exact leads_next { hreset with pc := hreset.pc }
  · exact leads_refused _ _

/-- The state of a step that runs, halts or idles is the one the step started in, in some mode of operation. -/
theorem State.control_state (s : State) (prev : BitVec 2) : (∃ m, s.control prev = .run { s with opMode := m }) ∨
    (∃ m, s.control prev = .halting { s with opMode := m }) ∨ (∃ m, s.control prev = .idle { s with opMode := m }) ∨
    ∃ r, s.control prev = .refuse r := by
  unfold State.control
  dsimp only
  split
  · exact .inr (.inr (.inr ⟨_, rfl⟩))
  split
  · exact .inr (.inr (.inl ⟨_, rfl⟩))
  split
  · exact .inr (.inr (.inl ⟨_, rfl⟩))
  cases s.opMode with
  | executing => exact .inl ⟨s.opMode, rfl⟩
  | haltPending => exact .inr (.inl ⟨s.opMode, rfl⟩)
  | halted =>
    by_cases h : prev = 2
    · rw [if_pos h]; exact .inl ⟨_, rfl⟩
    · rw [if_neg h]; exact .inr (.inr (.inl ⟨s.opMode, rfl⟩))
  | stepping =>
    by_cases h : prev = 1
    · rw [if_pos h]; exact .inl ⟨s.opMode, rfl⟩
    · rw [if_neg h]; exact .inr (.inr (.inl ⟨s.opMode, rfl⟩))

/-- Settles O58: nothing that a step does before, in and after its instruction breaks the invariant. -/
theorem stepKeepsSound : Obligations.StepKeepsSound := by
  intro s t hs hstep
  have hsample : s.sample.Sound := { hs with pc := hs.pc }
  have hmode : ∀ m, ({ s.sample with opMode := m } : State).Sound := fun m => { hsample with pc := hsample.pc }
  suffices hall : Leads State.Sound (stepWith exec s) from hall t hstep
  unfold stepWith
  dsimp only
  split_ifs
  · exact hsample.resetInput
  · exact leads_refused _ _
  · exact leads_refused _ _
  · exact State.Sound.tickedOut (leads_next hsample.takeWarn) _
  · rcases s.sample.control_state s.cur.cntl with ⟨m, hc⟩ | ⟨m, hc⟩ | ⟨m, hc⟩ | ⟨r, hc⟩ <;> rw [hc]
    · exact State.Sound.tickedOut ((hmode m).decision fun u hu => hu.fetchExecute) _
    · exact (hmode m).enterHalt
    · exact leads_next (hmode m)
    · exact leads_refused _ _

end Sys2Proof.Machine

namespace Sys2Proof.Machine

/-! ### The reset input (70_reset_and_hazards.md R760, R761) -/

/-- Settles O56: with CNTL = 11 the step is the replacement of the processor state. -/
theorem resetInput : Obligations.ResetInput := by
  intro s hreset hcntl
  have hstep : step s = s.sample.resetInput := by rw [step, stepWith]; exact if_pos hreset
  have hcfg : bitOf SpecialRegs.reset.cfg 0 = true := by decide
  have hdw : SpecialRegs.reset.cfg &&& 0xE0 = 0 := by decide
  have hinte : SpecialRegs.reset.inte &&& 3 = 3 := by decide
  have hchc : bitOf SpecialRegs.reset.chc 0 = false := by decide
  have hbreak : bitOf SpecialRegs.reset.ibc0 11 = false := by decide
  have hre : bitOf State.reset.cps 8 = true := by decide
  rw [hstep, State.resetInput, if_pos hcntl]
  exact ⟨_, rfl, rfl, rfl, hcfg, hdw, hinte, hchc, hbreak, hbreak, hre, rfl, rfl, rfl, rfl, rfl,
    fun _ => ⟨rfl, rfl, rfl⟩⟩

/-! ### The handler of a trap of kind Curr (60_exceptions.md R680) -/

/-- What an ordinary trap before an instruction leaves: its handler is next, the counters and the status are saved. -/
theorem State.ordinaryTrap_curr (s : State) (vn : Byte) : ∃ t, s.ordinaryTrap vn .curr = t ∧
    t.pc = s.handlerAddress vn ∧ t.npc = t.pc + 4 ∧ s.CountersSaved t ∧ t.sr.ops = fieldOf s.cpsRead 0 16 ∧ t.sr.exop = s.sr.exop ∧
    s.SameGeneral t ∧ t.alu = s.alu := by
  obtain ⟨hsaved, n, p0, p1, p2, x, hsave⟩ := s.saveContext_before (k := .curr) (by decide)
  obtain ⟨spc, last, pcs, frozen⟩ := hsaved
  rw [hsave] at spc last pcs frozen
  refine ⟨(s.withCounters n p0 p1 p2 s.npc s.pc x).atHandler vn, by rw [s.ordinaryTrap_eq, hsave], ?_, rfl,
    ⟨spc, last, pcs, frozen⟩, rfl, rfl, State.sameGeneral_of rfl rfl rfl rfl rfl rfl rfl rfl rfl rfl, rfl⟩
  exact congrArg Prod.fst ((State.handler_congr rfl rfl rfl vn).trans (s.handler_eq vn))

/-- Settles O51: the trap is the ordinary one, with EXOP set before. -/
theorem unexecutedTrapEntry : Obligations.UnexecutedTrapEntry := by
  intro op vn s ready hknown
  obtain ⟨t, ht, hpc, hnpc, ⟨spc, last, pcs, -⟩, hops, hexop, hgeneral, halu⟩ :=
    State.ordinaryTrap_curr { s with sr := { s.sr with exop := op.setWidth 32 } } vn
  refine ⟨t, (State.takeInstTrap_ready ready op vn .curr).trans (congrArg _ ht), hpc, hnpc, last hknown, spc.1, spc.2,
    fun hf hw => ?_, hops, hexop, hgeneral, halu⟩
  obtain ⟨h1, h0, h2⟩ := pcs hf hw
  exact ⟨h2 hknown, h1, h0⟩

/-! ### Codes without an instruction (60_exceptions.md R245, R246) -/

section
variable {s : State} {u : RegUse} {us : List RegUse}

/-- A field names a register that no User-mode program may use: it is resolved, and its number, 4 or more, lies in a
bank that RBP protects. -/
def State.Forbids (s : State) (p : Pos) (f : Byte) : Prop :=
  s.fieldFault p f = none ∧ 4 ≤ (s.absReg p f).toNat ∧ bitOf s.sr.rbp ((s.absReg p f).toNat / 16) = true

theorem State.useProtected_iff : s.useProtected u = true ↔ s.user = true ∧ s.Forbids u.pos u.field := by
  simp only [State.useProtected, State.bankProtected, State.Forbids, Bool.and_eq_true, Option.isNone_iff_eq_none,
    decide_eq_true_eq, and_assoc]
  exact and_left_comm

/-- A field that names a protected register stops the instruction (R665). -/
theorem State.guarded_useProtected (hm : u ∈ us) (h : s.useProtected u = true) (prot : Bool) (body : Except Stop Done) :
    s.guarded prot us body = .error (.trap 5 .curr s) := by
  have hany : us.any s.useProtected = true := List.any_eq_true.2 ⟨u, hm, h⟩
  rw [State.guarded, State.regStop, hany, Bool.or_true, if_pos rfl]

end

theorem mem_usesNumbers {p : Pos} {f rc ra rb : Byte} (h : (p, f) ∈ [(Pos.a, ra), (.b, rb), (.c, rc)]) :
    (⟨p, f, .number⟩ : RegUse) ∈ usesNumbers rc ra rb := by
  simp only [List.mem_cons, List.not_mem_nil, or_false, Prod.mk.injEq] at h
  rcases h with ⟨rfl, rfl⟩ | ⟨rfl, rfl⟩ | ⟨rfl, rfl⟩ <;> simp [usesNumbers]

/-- A code reserved for emulation traps as an instruction left to software does (R344, R246). -/
theorem takeEmulation_taken {s : State} {op vn : Byte} {w : Word} (ready : s.TrapReady)
    (hr : s.regStop false (usesNumbers (cField w) (aField w) (bField w)) = none) :
    ∃ t, s.takeEmulation op vn w = .next t ∧ s.TrapTaken t vn op ∧ t.sr.ipc = pointerWord (s.absReg .c (cField w)) ∧
      t.sr.ipa = pointerWord (s.absReg .a (aField w)) ∧ t.sr.ipb = pointerWord (s.absReg .b (bField w)) := by
  have hready : (s.setPointers (cField w) (aField w) (bField w)).TrapReady := ready
  let u := s.emulating op (cField w) (aField w) (bField w)
  obtain ⟨x, y, z, hrec⟩ := u.recordPcs_sr (u.npc + 4) u.npc u.pc
  have hsr := u.ordinaryTrap_next_sr vn
  rw [hrec] at hsr
  refine ⟨u.ordinaryTrap vn .next, ?_, (s.emulating_trapsAs ..).taken ready.1 rfl vn, by rw [hsr]; rfl, by rw [hsr]; rfl,
    by rw [hsr]; rfl⟩
  rw [State.takeEmulation, State.guarded_none _ hr, finish_trap, State.takeInstTrap_ready hready]
  rfl

/-- Settles O47: the fields are looked at as an instruction's are, before the trap. -/
theorem unimplementedCodesTrap : Obligations.UnimplementedCodesTrap := by
  intro w s run fields
  refine ⟨fun op h => by rw [State.executeWord, h], fun op vn h => ⟨fun ready hr => ?_, fun hu hprot => ?_⟩⟩
  · obtain ⟨t, ht, htaken, hpointers⟩ := takeEmulation_taken ready hr (op := op) (vn := vn)
    exact ⟨t, by rw [State.executeWord, h]; exact ht, htaken, hpointers⟩
  · obtain ⟨⟨p, f⟩, hmem, hforbids⟩ := hprot
    rw [State.executeWord, h]
    change finish op (s.guarded false _ _) = _
    rw [State.guarded_useProtected (mem_usesNumbers hmem) (State.useProtected_iff.2 ⟨hu, hforbids⟩)]
    rfl

/-! ### A trap and its return (48_miscellaneous.md R606) -/

/-- OPS after a trap, read back by a return, is CPS with its trace copy: IP is not stored, and the other bits are
reserved. -/
theorem returned_status {c : Word} (h : c &&& 0xFFFE4000 = 0) (hmm : bitOf c 16 = false) (tp ip : Bool) :
    fieldOf (putBit (putBit c 12 tp) 14 ip) 0 16 &&& 0x0000BFFF = putBit c 12 tp := by
  have hhigh : c &&& 0xFFFF4000 = 0 := by
    have hmask : ∀ k < 32, k ≠ 16 → bitOf 0xFFFF4000 k = bitOf 0xFFFE4000 k := by decide
    refine eq_of_bitOf fun k hk => ?_
    by_cases h16 : k = 16
    · rw [h16, bitOf_and, hmm]; rfl
    · rw [bitOf_and, hmask k hk h16, ← bitOf_and, h]
  have hstored : putBit c 12 tp &&& 0xFFFF4000 = 0 := putBit_and_eq_zero _ _ (by decide) (by decide) hhigh
  calc fieldOf (putBit (putBit c 12 tp) 14 ip) 0 16 &&& 0x0000BFFF
    _ = putBit (putBit c 12 tp) 14 ip &&& 0x0000BFFF := by
      rw [fieldOf, BitVec.ushiftRight_zero, BitVec.and_assoc]; rfl
    _ = putBit c 12 tp &&& 0x0000BFFF := putBit_and _ _ _ _ (by decide) (by decide)
    _ = putBit c 12 tp := and_eq_self (by decide) hstored

/-- Settles O60: the return finds the counters and the status in PC0, PC1 and OPS, where the trap has saved them. -/
theorem returnUndoesTrap : Obligations.ReturnUndoesTrap := by
  intro op vn s t ready hfz hw hnpc hcps hchc htrap
  have ht : t = ({ s with sr := { s.sr with exop := op.setWidth 32 } } : State).ordinaryTrap vn .next := by
    rw [State.takeInstTrap_ready ready] at htrap; cases htrap; rfl
  have htaken : s.TrapTaken t vn op := ht ▸ (s.exop_trapsAs (op.setWidth 32)).taken ready.1 rfl vn
  obtain ⟨huser, -, hfrozen⟩ := htaken.modes
  obtain ⟨x, y, z, ops, hsr⟩ :=
    State.ordinaryTrap_next_special { s with sr := { s.sr with exop := op.setWidth 32 } } vn
  have hmm : t.mm = false := by
    have hbit := congrArg (bitOf · 16) htaken.cps
    have hs : bitOf s.cps 16 = false := ready.1
    have hkept : bitOf 0xFFFFFEFF#32 16 = true := by decide
    have hset : bitOf 0x00000473#32 16 = false := by decide
    rw [State.mm]
    simpa [bitOf_and, bitOf_or, hs, hkept, hset] using hbit
  have hnone : (bitOf t.sr.chc 0 && !bitOf t.sr.chc 1) = false := by
    rw [show t.sr.chc = s.sr.chc by rw [ht, hsr], hchc]; rfl
  have hnohazard : ¬ t.ReturnHazard := fun h => by
    have hps : t.hz.ps = false := by rw [ht]; rfl
    rw [State.ReturnHazard, hps] at h; cases h.1
  obtain ⟨⟨u, hu, hback, hstatus, hdata, -⟩, -⟩ := exec_return_done huser hfrozen hnohazard
    (P := fun w => t.Back w ∧ w.cps = t.returnStatus ∧ t.SameData w ∧ w.early = []) (State.restart_nothing hnone)
  obtain ⟨hpc, hnpc'⟩ := hback.1 hmm
  obtain ⟨-, hpc1, hpc0⟩ := htaken.pcs hfz hw
  refine ⟨u, hu, ?_, ?_, ?_, htaken.general.trans ⟨hdata.regs, hdata.memory, hdata.units⟩, hdata.alu.trans htaken.alu⟩
  · rw [hpc, hpc1]; exact and_eq_self (by decide) hnpc
  · rw [hnpc', hpc0]; exact and_eq_self (by decide) (add_four_reserved hnpc)
  · rw [hstatus, State.returnStatus, hmm, if_neg (by decide), htaken.ops]
    exact returned_status hcps ready.1 _ _

end Sys2Proof.Machine

namespace Sys2Proof.Machine

/-! ### Protection Violations of kind Curr (60_exceptions.md R665) -/

/-- The instruction is a Protection Violation of kind Curr, and does nothing else. -/
def State.Denies (s : State) (i : Instr) : Prop := exec i s = s.takeInstTrap i.opcode 5 .curr

section
variable {s : State} {i : Instr} {prot : Bool} {us : List RegUse} {body : Except Stop Done}

/-- An instruction that the mode does not allow (10_state.md R40). -/
theorem State.denies_of_protected (hp : prot = true) (he : exec i s = finish i.opcode (s.guarded prot us body)) :
    s.Denies i := by
  rw [State.guarded_protected hp] at he; exact he

end

/-- A move of a protected special register is protected in User mode. -/
theorem State.specialProtected_of {s : State} {sa : Byte} (hu : s.user = true) (h : sa.toNat < 128 ∨ 165 ≤ sa.toNat) :
    s.specialProtected sa = true := by
  simpa [State.specialProtected, protectedSpecial, hu] using h

/-- An access to the processor's own spaces with PA or UA is protected in User mode (R170). -/
theorem State.accessProtected_of {s : State} {ctl : Byte} (hu : s.user = true) (hce : ctl.getLsbD 7 = false)
    (h : ctl.getLsbD 5 = true ∨ ctl.getLsbD 3 = true) : s.accessProtected ctl = true := by
  have hforced : (ctlPA ctl || ctlUA ctl) = true := by simpa [ctlPA, ctlUA] using h
  rw [State.accessProtected, ctlCE, hce, hu, hforced]; rfl

/-- An interrupt return in User mode. -/
theorem interruptReturn_user {s : State} (hu : s.user = true) (i : Instr) (inv : Bool) :
    interruptReturn i inv s = s.takeInstTrap i.opcode 5 .curr := by
  have hstop : s.regStop s.user [] = some (.trap 5 .curr s) := by rw [hu]; rfl
  rw [interruptReturn, hstop]; rfl

/-- Settles O32: each of them is stopped by its own check of the mode. -/
theorem privilegedInUserMode : Obligations.PrivilegedInUserMode := by
  intro rc ra rb sa ctl b i s hu denied
  refine ⟨fun hsa => ?_, State.denies_of_protected hu rfl, State.denies_of_protected hu rfl,
    State.denies_of_protected hu rfl,
    interruptReturn_user hu .iret false, interruptReturn_user hu .iretinv true, fun hd => ?_, fun hce hforced => ?_⟩
  · have hp := State.specialProtected_of hu hsa
    exact ⟨State.denies_of_protected hp rfl, State.denies_of_protected hp rfl, State.denies_of_protected hp rfl⟩
  · have hp : (s.user && !s.debugger) = true := by rw [hu, hd]; rfl
    exact State.denies_of_protected hp rfl
  · have hp := State.accessProtected_of hu hce hforced
    exact ⟨State.denies_of_protected hp rfl, State.denies_of_protected hp rfl, State.denies_of_protected hp rfl,
      State.denies_of_protected hp rfl, State.denies_of_protected hp rfl, State.denies_of_protected hp rfl,
      State.denies_of_protected hp rfl⟩

/-! ### The numbers of register fields (10_state.md R24, R25, R28) -/

/-- The number of a local register, by the shadow Stack Pointer. -/
theorem State.localNumber_eq (s : State) (f : Byte) :
    s.localNumber f = BitVec.ofNat 8 (128 + (f.toNat + s.spShadow.toNat) % 128) := by
  have hlocal : ∀ y : BitVec 7, 0x80#8 ||| y.setWidth 8 = BitVec.ofNat 8 (128 + y.toNat) := by decide
  rw [State.localNumber, hlocal]
  simp

theorem getLsbD_seven_iff (f : Byte) : f.getLsbD 7 = true ↔ 128 ≤ f.toNat := by
  revert f; decide

/-- The number a register field gives, on naturals. -/
theorem State.absReg_eq (s : State) (p : Pos) (f : Byte) : s.absReg p f =
    if f = 0#8 then s.pointer p
    else if 128 ≤ f.toNat then BitVec.ofNat 8 (128 + (f.toNat + s.spShadow.toNat) % 128) else f := by
  simp only [State.absReg, getLsbD_seven_iff, s.localNumber_eq]

theorem State.fieldFault_eq_none_iff (s : State) (p : Pos) (f : Byte) : s.fieldFault p f = none ↔
    (f = 0#8 → s.pointerHazard p = false) ∧ (128 ≤ f.toNat → s.spValid = true ∧ s.hz.sp = false) := by
  simp only [State.fieldFault, getLsbD_seven_iff]
  by_cases h0 : f = 0#8
  · cases hp : s.pointerHazard p <;> simp [h0]
  · by_cases h7 : 128 ≤ f.toNat
    · cases hv : s.spValid <;> cases hs : s.hz.sp <;> simp [h0, h7]
    · simp [h0, h7]

/-- Without a field that names a protected register no instruction is a Protection Violation for its registers. -/
theorem State.regStop_of_not_forbids {s : State} {us : List RegUse}
    (h : s.user = true → ∀ u ∈ us, ¬ s.Forbids u.pos u.field) : s.regStop false us ≠ some (.trap 5 .curr s) := by
  have hfree : ∀ u ∈ us, s.useProtected u = false := fun u hm => by
    rw [Bool.eq_false_iff]
    intro hu
    obtain ⟨huser, hforbids⟩ := State.useProtected_iff.1 hu
    exact h huser u hm hforbids
  rcases State.regStop_unprotected hfree with hr | ⟨f, hr⟩ <;> rw [hr] <;> simp

/-! ### Instructions that name a protected register (10_state.md R26) -/

/-- One of the register fields names a protected register. -/
def State.Names (s : State) (us : List RegUse) : Prop := ∃ u ∈ us, s.Forbids u.pos u.field

section
variable {s : State} {i : Instr} {prot : Bool} {us vs : List RegUse} {body body' : Except Stop Done}
  {rc ra rb fn : Byte} {o : Opnd} {p : Pos} {f : Byte}

theorem State.denies_of_names (hu : s.user = true) (he : exec i s = finish i.opcode (s.guarded prot us body))
    (h : s.Names us) : s.Denies i := by
  obtain ⟨u, hm, hforbids⟩ := h
  rw [State.guarded_useProtected hm (State.useProtected_iff.2 ⟨hu, hforbids⟩)] at he
  exact he

/-- An instruction with a reserved field uses the same register fields in another way. -/
theorem State.denies_of_names_ite {c : Prop} [Decidable c] (hu : s.user = true)
    (he : exec i s = finish i.opcode (if c then s.guarded prot vs body' else s.guarded prot us body))
    (hv : s.Names vs) (h : s.Names us) : s.Denies i := by
  by_cases hc : c
  · rw [if_pos hc] at he; exact State.denies_of_names hu he hv
  · rw [if_neg hc] at he; exact State.denies_of_names hu he h

theorem State.names_cons {u : RegUse} : s.Names (u :: us) ↔ s.Forbids u.pos u.field ∨ s.Names us := by
  simp [State.Names]

theorem State.names_append : s.Names (us ++ vs) ↔ s.Names us ∨ s.Names vs := by
  simp only [State.Names, List.mem_append, or_and_right, exists_or]

/-- The second operand names a protected register. -/
def State.NamesOpnd (s : State) (o : Opnd) : Prop := ∃ r, o = .reg r ∧ s.Forbids .b r

theorem State.names_opndUses : s.Names (opndUses o) ↔ s.NamesOpnd o := by
  cases o <;> simp [State.NamesOpnd, State.Names, opndUses]

theorem State.names_one (h : s.Forbids p f) (w : Use) : s.Names [⟨p, f, w⟩] := State.names_cons.2 (.inl h)

theorem State.names_two {q : Pos} {g : Byte} (h : s.Forbids p f ∨ s.Forbids q g) (w x : Use) :
    s.Names [⟨p, f, w⟩, ⟨q, g, x⟩] := State.names_cons.2 (h.imp_right (State.names_one · x))

theorem State.names_three (h : s.Forbids .c rc ∨ s.Forbids .a ra ∨ s.Forbids .b rb) (w x y : Use) :
    s.Names [⟨.a, ra, w⟩, ⟨.b, rb, x⟩, ⟨.c, rc, y⟩] := by
  rw [State.names_cons]
  rcases h with h | h | h
  · exact .inr (State.names_two (.inr h) x y)
  · exact .inl h
  · exact .inr (State.names_two (.inl h) x y)

theorem State.names_opnd_one (h : s.Forbids p f ∨ s.NamesOpnd o) (w : Use) : s.Names (opndUses o ++ [⟨p, f, w⟩]) :=
  State.names_append.2 (h.symm.imp State.names_opndUses.2 (State.names_one · w))

theorem State.names_one_opnd (h : s.Forbids p f ∨ s.NamesOpnd o) (w : Use) : s.Names (⟨p, f, w⟩ :: opndUses o) :=
  State.names_cons.2 (h.imp_right State.names_opndUses.2)

theorem State.names_usesRRM (h : s.Forbids .c rc ∨ s.Forbids .a ra ∨ s.NamesOpnd o) (c : WriteClass) :
    s.Names (usesRRM c rc ra o) := by
  rw [usesRRM, State.names_append]
  rcases h with h | h | h
  · exact .inr (State.names_one h _)
  · exact .inl (State.names_one_opnd (.inl h) _)
  · exact .inl (State.names_one_opnd (.inr h) _)

theorem State.names_usesMac (h : s.Forbids .a ra ∨ fn.getLsbD 5 = false ∧ s.Forbids .b rb) (w : Use) :
    s.Names (usesMac w fn ra rb) := by
  refine State.names_cons.2 (h.imp_right fun ⟨hfn, hb⟩ => ?_)
  rw [funcBit, hfn]
  exact State.names_one hb w

/-- The arithmetic, logical, compare, shift and byte instructions check the fields of a three-operand instruction. -/
theorem rrmForms_guarded (rc ra : Byte) (o : Opnd) (s : State) : ∀ x ∈ aluForms rc ra o ++ plainForms rc ra o,
    x ≠ .div0 rc o → ∃ c body, exec x s = finish x.opcode (s.guarded false (usesRRM c rc ra o) body) := by
  have form : ∀ {x c body}, exec x s = finish x.opcode (s.guarded false (usesRRM c rc ra o) body) → x ≠ .div0 rc o →
      ∃ c body, exec x s = finish x.opcode (s.guarded false (usesRRM c rc ra o) body) := fun he _ => ⟨_, _, he⟩
  simp only [aluForms, plainForms, List.cons_append, List.nil_append, List.forall_mem_cons]
  exact ⟨form rfl, form rfl, form rfl, form rfl, form rfl, form rfl, form rfl, form rfl, form rfl, form rfl, form rfl,
    form rfl, form rfl, form rfl, form rfl, form rfl, form rfl, form rfl, form rfl, form rfl, form rfl,
    fun h => absurd rfl h, form rfl, form rfl, form rfl, form rfl, form rfl, form rfl, form rfl, form rfl, form rfl,
    form rfl, form rfl, form rfl, form rfl, form rfl, form rfl, form rfl, form rfl, form rfl, form rfl, form rfl,
    form rfl, form rfl, form rfl, form rfl, form rfl, form rfl, form rfl, form rfl, form rfl, form rfl,
    fun _ h => nomatch h⟩

end

/-- Settles O33: each instruction stands behind a check of its register fields, in the order of the groups. -/
theorem protectedBanksTrap : Obligations.ProtectedBanksTrap := by
  intro rc ra rb vn ctl fn sa o abs i s number resolved bad badO denied
  have hnumber : ∀ (p : Pos) (f : Byte), s.absReg p f = number p f := fun p f => by
    rw [s.absReg_eq]; cases p <;> rfl
  have hresolved : ∀ (p : Pos) (f : Byte), s.fieldFault p f = none ↔ resolved p f := fun p f => by
    rw [s.fieldFault_eq_none_iff]; cases p <;> rfl
  have hbad : ∀ p f, bad p f ↔ s.Forbids p f := fun p f => by
    rw [State.Forbids, hnumber, hresolved]
  have hopnd : badO ↔ s.NamesOpnd o := exists_congr fun r => and_congr_right fun _ => hbad .b r
  refine ⟨fun p f => ⟨hnumber p f, hresolved p f⟩, fun us h => State.regStop_of_not_forbids fun hu u hm hforbids =>
    h hu u hm ((hbad _ _).2 hforbids), fun hu => ?_⟩
  clear_value bad badO
  simp only [hbad, hopnd]
  have deny : ∀ {x prot us body}, s.Names us → exec x s = finish x.opcode (s.guarded prot us body) → denied x :=
    fun h he => State.denies_of_names hu he h
  refine ⟨fun h x hx hne => ?_, fun h => ?_, fun h => ?_, fun h => ?_, fun h => ?_, fun h => ?_, fun h => ?_,
    fun h => ?_, fun h => ?_, fun h => ?_⟩
  · obtain ⟨c, body, he⟩ := rrmForms_guarded rc ra o s x hx hne
    exact deny (State.names_usesRRM h c) he
  · exact ⟨deny (State.names_opnd_one h _) rfl, deny (State.names_opnd_one h _) rfl⟩
  · have assert {x body} := deny (x := x) (prot := false) (body := body) (State.names_one_opnd h .src)
    have load {x body} := deny (x := x) (prot := s.accessProtected ctl) (body := body)
      (State.names_opnd_one (s := s) (p := .a) (o := o) h (.dst .load))
    have store {x body} := deny (x := x) (prot := s.accessProtected ctl) (body := body) (State.names_one_opnd h .src)
    exact ⟨assert rfl, assert rfl, assert rfl, assert rfl, assert rfl, assert rfl, assert rfl, assert rfl, assert rfl,
      assert rfl, load rfl, load rfl, load rfl, load rfl, store rfl, store rfl, store rfl⟩
  · have three : ∀ {x w1 w2 w3 body},
        exec x s = finish x.opcode (s.guarded false [⟨.a, ra, w1⟩, ⟨.b, rb, w2⟩, ⟨.c, rc, w3⟩] body) → denied x :=
      fun he => deny (State.names_three h _ _ _) he
    exact ⟨three rfl, three rfl, three rfl, three rfl, three rfl, three rfl, three rfl, three rfl, three rfl, three rfl,
      three rfl, three rfl, three rfl, three rfl, three rfl, three rfl, three rfl, three rfl, three rfl, three rfl,
      three rfl, three rfl, three rfl, three rfl⟩
  · have both : ∀ w x, s.Names [⟨.a, ra, w⟩, ⟨.c, rc, x⟩] := State.names_two h.symm
    have reserved {x} {c : Prop} [Decidable c] {w1 w2 body body'} (he : exec x s = finish x.opcode
        (if c then s.guarded false [⟨.a, ra, .number⟩, ⟨.c, rc, .number⟩] body'
        else s.guarded false [⟨.a, ra, w1⟩, ⟨.c, rc, w2⟩] body)) : denied x :=
      State.denies_of_names_ite hu he (both _ _) (both _ _)
    exact ⟨deny (both _ _) rfl, reserved rfl, reserved rfl, reserved rfl⟩
  · have both : ∀ w x, s.Names [⟨.a, ra, w⟩, ⟨.b, rb, x⟩] := State.names_two h
    exact ⟨deny (State.names_two h.symm _ _) rfl, deny (both _ _) rfl, deny (both _ _) rfl, deny (both _ _) rfl⟩
  · have mac {x} {c : Prop} [Decidable c] {w body body'} (he : exec x s = finish x.opcode
        (if c then s.guarded false (usesMac .number fn ra rb) body' else s.guarded false (usesMac w fn ra rb) body)) :
        denied x := State.denies_of_names_ite hu he (State.names_usesMac h _) (State.names_usesMac h _)
    exact ⟨mac rfl, mac rfl⟩
  · have one : ∀ w, s.Names [⟨.a, ra, w⟩] := State.names_one h
    exact ⟨deny (one _) rfl, deny (one _) rfl, deny (one _) rfl, deny (one _) rfl, deny (one _) rfl, deny (one _) rfl,
      deny (State.names_two (.inl h) _ _) rfl, deny (one _) rfl, State.denies_of_names_ite hu rfl (one _) (one _)⟩
  · exact ⟨deny (State.names_one h _) rfl, deny (State.names_one h _) rfl⟩
  · exact ⟨deny (State.names_one h _) rfl,
      State.denies_of_names_ite hu rfl (State.names_one h _) (State.names_one h _)⟩

end Sys2Proof.Machine

namespace Sys2Proof.Machine

/-! ### What a completed instruction leaves as its rule does -/

theorem Done.advance_sameData (d : Done) : d.state.SameData d.advance := by
  cases d <;> exact State.sameData_of (fun _ => rfl) rfl rfl rfl rfl rfl rfl rfl rfl

/-- An instruction whose rule writes one register. -/
theorem Done.advance_writes {s : State} {d : Done} {c : WriteClass} {n : Byte} {v : Word} (hn : numberFault n = none)
    (hd : d.state = s.putGR c n v) : s.Writes d.advance n v ∧ d.advance.alu = s.alu := by
  cases d <;> cases hd <;>
    exact ⟨State.writes_of hn (fun _ => rfl) (State.putGR_idmem ..) (State.putGR_irom ..) (State.putGR_sr ..)
      (State.putGR_acc ..) (State.putGR_tlb ..) (State.putGR_tlbUsage ..) (State.putGR_imem ..), State.putGR_alu ..⟩

/-! ### Branches (47_branch.md R580, R581) -/

section
variable {s u : State} {j : Instr} {us : List RegUse} {taken : Bool} {target : Word}

theorem State.branchesTo_branch (hn : u.npc = s.npc) (hc : u.cps = s.cps) :
    s.BranchesTo (Done.branch u target).advance target :=
  ⟨hn, rfl, State.tracedCps_of hc⟩

/-- A branch that nothing stops goes to its target, or on in line; it leaves what its rule leaves. -/
theorem branch_goes (ready : s.BranchReady) (hr : s.regStop false us = none)
    (he : exec j s = finish j.opcode (s.guarded false us (u.branchIf s taken target))) (hn : u.npc = s.npc)
    (hc : u.cps = s.cps) : ∃ d : Done, exec j s = .next d.advance ∧ d.state = u ∧
      (taken = true → s.BranchesTo d.advance target) ∧ (taken = false → s.FallsThrough d.advance) := by
  rw [State.guarded_none _ hr] at he
  cases taken with
  | true =>
    have htake : u.branchIf s true target = .ok (.branch u target) := State.takeBranch_ready s u target ready
    rw [htake, finish_ok] at he
    exact ⟨_, he, rfl, fun _ => State.branchesTo_branch hn hc, fun h => nomatch h⟩
  | false => exact ⟨.seq u, he, rfl, (nomatch ·), fun _ => State.fallsThrough_seq hn hc⟩

/-- A branch that writes no register. -/
theorem jump_goes (ready : s.BranchReady) (hr : s.regStop false us = none)
    (he : exec j s = finish j.opcode (s.guarded false us (s.branchIf s taken target))) : ∃ t, exec j s = .next t ∧
      (taken = true → s.BranchesTo t target) ∧ (taken = false → s.FallsThrough t) ∧ s.SameData t := by
  obtain ⟨d, hx, hd, htaken, hnot⟩ := branch_goes ready hr he rfl rfl
  exact ⟨_, hx, htaken, hnot, hd ▸ d.advance_sameData⟩

/-- A branch that writes a register. -/
theorem linked_goes {p : Pos} {f : Byte} {c : WriteClass} {v : Word} (hm : (⟨p, f, .dst c⟩ : RegUse) ∈ us)
    (ready : s.BranchReady) (hr : s.regStop false us = none)
    (he : exec j s = finish j.opcode (s.guarded false us ((s.putGR c (s.absReg p f) v).branchIf s taken target))) :
    ∃ t, exec j s = .next t ∧ (taken = true → s.BranchesTo t target) ∧ (taken = false → s.FallsThrough t) ∧
      s.Writes t (s.absReg p f) v ∧ t.alu = s.alu := by
  obtain ⟨d, hx, hd, htaken, hnot⟩ := branch_goes ready hr he (State.putGR_npc ..) (State.putGR_cps ..)
  exact ⟨_, hx, htaken, hnot, d.advance_writes (State.dst_of_regStop hr hm) hd⟩

end

/-- Settles O14: an unconditional branch is a conditional one that is always taken. -/
theorem branchesComplete : Obligations.BranchesComplete := by
  intro a ra rb i s ready direct calls jumps
  have call : ∀ {x us target}, (⟨.a, ra, .dst .other⟩ : RegUse) ∈ us → exec x s = finish x.opcode (s.guarded false us
      ((s.putGR .other (s.absReg .a ra) (s.pc + 8)).branchIf s true target)) → calls x us target :=
    fun hm he hr => by
      obtain ⟨t, hx, htaken, -, hkept⟩ := linked_goes hm ready hr he
      exact ⟨t, hx, htaken rfl, hkept⟩
  have jump : ∀ {x us target}, exec x s = finish x.opcode (s.guarded false us (s.branchIf s true target)) →
      jumps x us target := fun he hr => by
    obtain ⟨t, hx, htaken, -, hkept⟩ := jump_goes ready hr he
    exact ⟨t, hx, htaken rfl, hkept⟩
  have hdirect : direct = s.target a i := (s.target_eq a i).symm
  rw [hdirect]
  exact ⟨call (List.mem_singleton.2 rfl) rfl, call (List.mem_pair.2 (.inr rfl)) rfl, jump rfl, jump rfl⟩

/-- A Boolean operand is true when it is negative. -/
theorem isTrue_iff (w : Word) : isTrue w = true ↔ w.toInt < 0 := by
  rw [isTrue, bitOf, ← BitVec.msb_eq_getLsbD_last (x := w), BitVec.msb_eq_toInt, decide_eq_true_iff]

theorem not_isTrue_iff (w : Word) : (!isTrue w) = true ↔ 0 ≤ w.toInt := by
  rw [Bool.not_eq_true', Bool.eq_false_iff, ne_eq, isTrue_iff, not_lt]

theorem sub_one_eq_ofInt (w : Word) : w - 1 = BitVec.ofInt 32 (w.toInt - 1) := by
  rw [Int.sub_eq_add_neg, BitVec.ofInt_add, BitVec.ofInt_toInt, BitVec.sub_eq_add_neg]; rfl

/-- Settles O15: the test is bit 31 of the operand, and both ways leave the same. -/
theorem conditionalBranchesComplete : Obligations.ConditionalBranchesComplete := by
  intro a ra rb i s ready x direct goes srcA srcB
  have jump : ∀ {j us c taken target}, (c = true ↔ taken) →
      exec j s = finish j.opcode (s.guarded false us (s.branchIf s c target)) → goes j us taken target s.SameData :=
    fun htest he hr => by
      obtain ⟨t, hx, htaken, hnot, hkept⟩ := jump_goes ready hr he
      exact ⟨t, hx, fun h => htaken (htest.2 h), fun h => hnot (Bool.eq_false_iff.2 (mt htest.1 h)), hkept⟩
  have hdirect : direct = s.target a i := (s.target_eq a i).symm
  rw [hdirect]
  refine ⟨jump (not_isTrue_iff x) rfl, fun hr => ?_, jump (not_isTrue_iff x) rfl, jump (isTrue_iff x) rfl,
    jump (isTrue_iff x) rfl⟩
  obtain ⟨t, hx, htaken, hnot, hkept⟩ := linked_goes (j := .jmpfdec a ra i) (taken := !isTrue x) (target := s.target a i)
    (c := .other) (v := x - 1) (List.mem_pair.2 (.inr rfl)) ready hr rfl
  rw [sub_one_eq_ofInt] at hkept
  exact ⟨t, hx, fun h => htaken ((not_isTrue_iff x).2 h),
    fun h => hnot (Bool.eq_false_iff.2 (mt (not_isTrue_iff x).1 h)), hkept⟩

end Sys2Proof.Machine

namespace Sys2Proof.Machine

/-! ### Reading a special register (44_data_movement.md R450) -/

/-- An instruction whose checks nothing stops completes with the state of its rule. -/
theorem completes_of_guarded {x : Instr} {prot : Bool} {us : List RegUse} {s u : State} {P : State → Prop}
    (he : exec x s = finish x.opcode (s.guarded prot us (.ok (.seq u)))) (hr : s.regStop prot us = none)
    (hn : u.npc = s.npc) (hc : u.cps = s.cps) (hP : P (Done.seq u).advance) : Completes x s P :=
  ⟨_, by rw [he, State.guarded_none _ hr, finish_ok], State.fallsThrough_seq hn hc, hP⟩

/-- The stored registers, by number. -/
theorem SpecialRegs.get_of_mem (r : SpecialRegs) {e : Nat × (SpecialRegs → Word) × Word} (he : e ∈ specialTable) :
    r.get e.1 = some (e.2.1 r) := by
  fin_cases he <;> rfl

/-- CPS, CFG, ALU and the parts of registers are not among them. -/
theorem notMem_statusNumbers {e : Nat × (SpecialRegs → Word) × Word} (he : e ∈ specialTable) : e.1 ∉ statusNumbers := by
  fin_cases he <;> decide

section
variable {s : State} {sa : Byte}

theorem State.pipelineRegister_iff (s : State) (n : Nat) : s.pipelineRegister n = true ↔
    (10 ≤ n ∧ n ≤ 12) ∧ s.frozen = false ∨ (20 ≤ n ∧ n ≤ 22) ∧ s.mm = false := by
  simp [State.pipelineRegister]

/-- A register that follows the pipeline reads some word address (log entry 31). -/
theorem State.readSpecial_pipeline (h : s.pipelineRegister sa.toNat = true) : (s.readSpecial sa).1 &&& 3 = 0 := by
  rw [State.readSpecial, if_pos h]; exact alignWord_reserved _

/-- A register stored by itself reads as it is. -/
theorem State.readSpecial_stored (h : s.pipelineRegister sa.toNat = false) {e : Nat × (SpecialRegs → Word) × Word}
    (he : e ∈ specialTable) (hn : sa.toNat = e.1) : (s.readSpecial sa).1 = e.2.1 s.sr := by
  have hstatus := notMem_statusNumbers he
  simp only [statusNumbers, List.mem_cons, List.not_mem_nil, or_false, not_or, ← hn] at hstatus
  obtain ⟨h2, h3, h132, h133, h134, h135⟩ := hstatus
  have hget : s.sr.get sa.toNat = some (e.2.1 s.sr) := hn ▸ s.sr.get_of_mem he
  rw [State.readSpecial, h, if_neg (by decide), if_neg h2, if_neg h3, if_neg h132, if_neg h133, if_neg h134, if_neg h135,
    hget]

theorem State.not_pipelineRegister (s : State) {n : Nat} (h : n ∈ statusNumbers) : s.pipelineRegister n = false := by
  have hall : ∀ k ∈ statusNumbers, ¬ (10 ≤ k ∧ k ≤ 12) ∧ ¬ (20 ≤ k ∧ k ≤ 22) := by decide
  obtain ⟨hpc, hspc⟩ := hall n h
  rw [Bool.eq_false_iff, ne_eq, s.pipelineRegister_iff]
  rintro (⟨h10, -⟩ | ⟨h20, -⟩)
  · exact hpc h10
  · exact hspc h20

/-- MFSR writes what it reads. -/
theorem mfsr_completes {rc : Byte} (hr : s.regStop (s.specialProtected sa) [⟨.c, rc, .dst .other⟩] = none)
    (ha : s.user = true ∨ forbiddenSpecial sa = false) :
    Completes (.mfsr rc sa) s fun t => s.Writes t (s.absReg .c rc) (s.readSpecial sa).1 ∧ t.alu = s.alu := by
  have hallowed : (forbiddenSpecial sa && !s.user) = false := by
    rcases ha with h | h <;> rw [h] <;> simp
  obtain ⟨n, hn⟩ := s.readSpecial_snd sa
  have he : exec (.mfsr rc sa) s = finish (Instr.mfsr rc sa).opcode (s.guarded (s.specialProtected sa)
      [⟨.c, rc, .dst .other⟩] (if forbiddenSpecial sa && !s.user then .error (.fault .unimplementedSpecial)
        else .ok (.seq ((s.readSpecial sa).2.putGR .other (s.absReg .c rc) (s.readSpecial sa).1)))) := rfl
  rw [hallowed, if_neg (by decide), hn] at he
  obtain ⟨⟨result, others, memory, special, units⟩, halu⟩ :=
    (Done.seq (({ s with fresh := n } : State).putGR .other (s.absReg .c rc) (s.readSpecial sa).1)).advance_writes
      (State.dst_of_regStop hr (List.mem_singleton.2 rfl)) rfl
  exact completes_of_guarded he hr (State.putGR_npc ..) (State.putGR_cps ..)
    ⟨⟨result, others, memory, special, units⟩, halu⟩

end

/-- Settles O28: MFSR writes what it reads, register by register. -/
theorem moveFromSpecialCompletes : Obligations.MoveFromSpecialCompletes := by
  intro rc sa s n hr hallowed
  have ha : s.user = true ∨ forbiddenSpecial sa = false := hallowed.imp_right fun ⟨h163, h165⟩ => by
    have hne : sa ≠ 163#8 := fun e => h163 (congrArg BitVec.toNat e)
    simpa [forbiddenSpecial, hne] using h165
  have apart : ∀ {k}, n = k → k ∈ statusNumbers → s.pipelineRegister sa.toNat = false ∧ sa.toNat = k :=
    fun h hk => ⟨s.not_pipelineRegister (show n ∈ statusNumbers from h ▸ hk), h⟩
  refine ⟨_, mfsr_completes hr ha, fun h => ?_, fun h => ?_, fun h => ?_, fun h => ?_, fun h => ?_, fun h => ?_,
    fun h hf => ?_, fun h hm => ?_, fun hfrozen hmonitor e he hn => ?_⟩
  iterate 4
    obtain ⟨hp, hk⟩ := apart h (by decide)
    rw [State.readSpecial, hp, hk]; rfl
  · obtain ⟨hp, hk⟩ := apart h (by decide)
    rw [State.readSpecial, hp, hk]
    exact congrArg (· &&& 0x1F) (BitVec.ushiftRight_zero s.alu)
  · obtain ⟨hp, hk⟩ := apart h (by decide)
    rw [State.readSpecial, hp, hk]; rfl
  · exact State.readSpecial_pipeline ((s.pipelineRegister_iff n).2 (.inl ⟨h, hf⟩))
  · exact State.readSpecial_pipeline ((s.pipelineRegister_iff n).2 (.inr ⟨h, hm⟩))
  · refine State.readSpecial_stored (Bool.eq_false_iff.2 fun hp => ?_) he hn
    rcases (s.pipelineRegister_iff n).1 hp with ⟨h, hf⟩ | ⟨h, hm⟩
    · rw [hfrozen h] at hf; cases hf
    · rw [hmonitor h] at hm; cases hm

/-! ### Moves to the stored special registers (44_data_movement.md R451, R452, R455) -/

section
variable {s : State} {sa : Byte} {e : Nat × (SpecialRegs → Word) × Word}

theorem writableBits_of_mem (he : e ∈ specialTable) : writableBits e.1 = e.2.2 := by
  fin_cases he <;> rfl

/-- A register replaced reads the new value. -/
theorem SpecialRegs.put_same (r : SpecialRegs) (w : Word) (he : e ∈ specialTable) : e.2.1 (r.put e.1 w) = w := by
  fin_cases he <;> rfl

theorem SpecialRegs.put_cfg (r : SpecialRegs) (n : Nat) (w : Word) : (r.put n w).cfg = r.cfg := by
  unfold SpecialRegs.put; split <;> rfl

theorem SpecialRegs.get_put_of_ne (r : SpecialRegs) {n m : Nat} (w : Word) (h : m ≠ n) :
    (r.put n w).get m = r.get m := by
  unfold SpecialRegs.put
  split
  all_goals
    unfold SpecialRegs.get
    split
    all_goals first | rfl | exact absurd rfl h

/-- The other registers are as before. -/
theorem SpecialRegs.put_others (r : SpecialRegs) {n : Nat} (w : Word) (he : e ∈ specialTable) (hne : e.1 ≠ n) :
    e.2.1 (r.put n w) = e.2.1 r := by
  have hget := r.get_put_of_ne w hne
  rw [SpecialRegs.get_of_mem _ he, SpecialRegs.get_of_mem _ he] at hget
  exact Option.some.inj hget

/-- A move to one of them that the mode allows is made. -/
theorem moveToSpecial_stored (s : State) (he : e ∈ specialTable) (hn : sa.toNat = e.1) (v : Word) : ∃ hz,
    s.moveToSpecial sa v = .ok (.seq { s with sr := s.sr.put e.1 (v &&& e.2.2), hzNext := hz }) := by
  have hall : ∀ b : Byte, ∀ k ∈ specialTable.map (·.1), b.toNat = k →
      forbiddenSpecial b = false ∧ writeFault b = none ∧ b.toNat ∉ statusNumbers := by decide
  obtain ⟨hforbidden, hfault, hstatus⟩ := hall sa e.1 (List.mem_map_of_mem he) hn
  simp only [statusNumbers, List.mem_cons, List.not_mem_nil, or_false, not_or] at hstatus
  obtain ⟨h2, h3, h132, h133, h134, h135⟩ := hstatus
  have hne : sa ≠ 2#8 := fun h => h2 (by rw [h]; rfl)
  obtain ⟨hz, hhazard⟩ :=
    State.specialHazard_eq { s with sr := s.sr.put sa.toNat (v &&& writableBits sa.toNat) } sa.toNat s.sr.mmu
  have hwrite : s.writeSpecial sa v = { s with sr := s.sr.put e.1 (v &&& e.2.2), hzNext := hz } := by
    rw [State.writeSpecial, if_neg h2, if_neg h3, if_neg h132, if_neg h133, if_neg h134, if_neg h135, hhazard, hn,
      writableBits_of_mem he]
  exact ⟨hz, by rw [State.moveToSpecial, hforbidden, hfault, hwrite, if_neg hne]; rfl⟩

end

/-- Settles O29: the register is replaced by the bits of the value that it stores. -/
theorem moveToSpecialCompletes : Obligations.MoveToSpecialCompletes := by
  intro sa rb i s n prot e he hn done
  have moves : ∀ {x us v}, exec x s = finish x.opcode (s.guarded (s.specialProtected sa) us (s.moveToSpecial sa v)) →
      done x us v := by
    intro x us v hx hr
    obtain ⟨hz, hmove⟩ := moveToSpecial_stored s he hn v
    rw [hmove] at hx
    exact completes_of_guarded hx hr rfl rfl ⟨s.sr.put_same _ he, fun o ho hne =>
      s.sr.put_others _ ho (hn ▸ hne), s.sr.put_cfg .., State.sameGeneral_of rfl rfl rfl rfl rfl rfl rfl rfl rfl rfl, rfl⟩
  exact ⟨moves rfl, moves rfl⟩

/-! ### The TLB registers (10_state.md R81, R82) -/

/-- The TLB register that the low seven bits of a word name. -/
theorem tlbNumber_eq (w : Word) : tlbNumber w = w.toNat % 128 := by
  rw [tlbNumber, fieldOf_toNat _ _ _ (by decide), Nat.pow_zero, Nat.div_one]; rfl

theorem State.tlbWord_writeTlb (s : State) {n : Nat} (hn : n < 128) (v : Word) (k : Nat) :
    (s.writeTlb n v).tlbWord k = if k = n then v &&& tlbMask n else s.tlbWord k := by
  have htlb : (s.writeTlb n v).tlb = s.tlb.setIfInBounds n (v &&& tlbMask n) := by
    unfold State.writeTlb; dsimp only; split <;> rfl
  rw [State.tlbWord, htlb, vector_getD_set _ _ _ _ _ hn]; rfl

/-- The Usage bit of a line is written with Word 1 of either entry. -/
theorem State.tlbUsage_writeTlb (s : State) (n : Nat) (v : Word) (l : Nat) : (s.writeTlb n v).tlbUsage.getD l false =
    if n % 2 ≠ 0 ∧ l = n % 64 / 2 then bitOf v 1 else s.tlbUsage.getD l false := by
  unfold State.writeTlb
  by_cases h : n % 2 = 0
  · rw [if_pos h, if_neg (by simp [h])]
  · rw [if_neg h, vector_getD_set _ _ _ _ _ (by omega)]
    simp only [h, ne_eq, not_false_eq_true, true_and]

/-- A value with its Usage bit, written behind the mask and shown again. -/
theorem putBit_mask_usage (v : Word) : putBit (v &&& 0xFFFFFCC1) 1 (bitOf v 1) = v &&& 0xFFFFFCC3 := by
  have hmask : ∀ k < 32, k ≠ 1 → bitOf 0xFFFFFCC1 k = bitOf 0xFFFFFCC3 k := by decide
  refine eq_of_bitOf fun k hk => ?_
  rw [bitOf_putBit _ _ _ _ (by decide), bitOf_and, bitOf_and]
  by_cases h : k = 1
  · rw [if_pos h, h, show bitOf 0xFFFFFCC3 1 = true by decide, Bool.and_true]
  · rw [if_neg h, hmask k hk h]

/-- A TLB register reads as the value written to it, but for its reserved bits. -/
theorem State.readTlb_writeTlb (s : State) {n : Nat} (hn : n < 128) (v : Word) :
    (s.writeTlb n v).readTlb n = v &&& (if n % 2 = 0 then 0xFFFFFFFF else 0xFFFFFCC3) := by
  rw [State.readTlb, s.tlbWord_writeTlb hn, if_pos rfl, s.tlbUsage_writeTlb, tlbMask]
  by_cases h : n % 2 = 0
  · simp only [h, if_true]
  · simp only [h, if_false, ne_eq, not_false_eq_true, true_and, if_true, putBit_mask_usage]

/-- Outside User mode the TLB moves are not protected. -/
theorem mftlb_completes {s : State} (hu : s.user = false) (rc ra : Byte) {n : Nat} (hn : tlbNumber (s.src .a ra) = n) :
    PlainCompletes (.mftlb rc ra) [⟨.a, ra, .src⟩, ⟨.c, rc, .dst .other⟩] (s.absReg .c rc) s (s.readTlb n) := by
  have he : exec (.mftlb rc ra) s = finish (Instr.mftlb rc ra).opcode (s.guarded s.user
      [⟨.a, ra, .src⟩, ⟨.c, rc, .dst .other⟩] (.ok (.seq (s.setDest .other rc (s.readTlb (tlbNumber (s.src .a ra))))))) :=
    rfl
  rw [hu, hn] at he
  exact plainCompletes_of he (List.mem_pair.2 (.inr rfl))

theorem mttlb_completes {s : State} (hu : s.user = false) {ra rb : Byte} {n : Nat} (hn : tlbNumber (s.src .a ra) = n)
    (hr : s.regStop false [⟨.a, ra, .src⟩, ⟨.b, rb, .src⟩] = none) : Completes (.mttlb ra rb) s fun t =>
      t.readTlb n = (s.writeTlb n (s.src .b rb)).readTlb n ∧
      (∀ k, t.tlbWord k = (s.writeTlb n (s.src .b rb)).tlbWord k) ∧
      t.tlbUsage = (s.writeTlb n (s.src .b rb)).tlbUsage ∧
      s.RegsExcept t [] ∧ s.SameMemory t ∧ t.sr = s.sr ∧ t.alu = s.alu ∧ t.acc = s.acc := by
  have he : exec (.mttlb ra rb) s = finish (Instr.mttlb ra rb).opcode (s.guarded s.user
      [⟨.a, ra, .src⟩, ⟨.b, rb, .src⟩] (.ok (.seq (s.writeTlb (tlbNumber (s.src .a ra)) (s.src .b rb))))) := rfl
  rw [hu, hn] at he
  refine completes_of_guarded he hr (State.writeTlb_npc ..) (State.writeTlb_cps ..)
    ⟨rfl, fun _ => rfl, rfl, fun m _ => ?_, ?_, State.writeTlb_sr .., State.writeTlb_alu .., State.writeTlb_acc ..⟩
  · exact State.getGR_congr (State.writeTlb_sp ..) (State.writeTlb_cca ..) (State.writeTlb_globals ..)
      (State.writeTlb_locals ..) m
  · exact .of_eq (State.writeTlb_idmem ..) (State.writeTlb_irom ..) (State.writeTlb_imem ..)

/-- Settles O31: a TLB register is read with, and written without its reserved bits, its Usage bit apart. -/
theorem tlbMovesComplete : Obligations.TlbMovesComplete := by
  intro rc ra rb s hu n line shown
  have hlt : n < 128 := Nat.mod_lt _ (by decide)
  have hn : tlbNumber (s.src .a ra) = n := tlbNumber_eq _
  clear_value n
  refine ⟨mftlb_completes hu rc ra hn, fun hr => ?_⟩
  obtain ⟨t, hx, hfalls, hread, hword, husage, hregs, hmem, hothers⟩ := mttlb_completes hu hn hr
  refine ⟨t, hx, hfalls, hread.trans (s.readTlb_writeTlb hlt _), fun k _ hk => ?_, fun l _ hl => ?_, hregs, hmem,
    hothers⟩
  · rw [hword, s.tlbWord_writeTlb hlt, if_neg hk]
  · rw [husage, s.tlbUsage_writeTlb, if_neg]
    exact fun hboth => hl.elim hboth.1 fun hne => hne hboth.2

end Sys2Proof.Machine
